-- ==== Sys2Proof/Word.lean ====
section
/-! DEFINITION. The word types of the SKB-4600 (R2, R24, R27): a register and an instruction word hold 32 bits, a pair 64 bits, memory is made of bytes. -/

namespace Sys2Proof

/-- A byte of any memory (R2). -/
abbrev Byte := BitVec 8

/-- A register, an instruction word, a 32-bit memory word (R24, R27). -/
abbrev W32 := BitVec 32

/-- A register pair or a 64-bit memory word (R27). -/
abbrev W64 := BitVec 64

/-- A 7-bit register field of an instruction word (R25). -/
abbrev Reg := BitVec 7

end Sys2Proof
end

