-- ==== Sys2Proof/Config.lean ====
section
/-! DEFINITION. What an implementation fixes and the spec does not give, and the free values: each an opaque constant that no proof can evaluate. -/

namespace Sys2Proof.Config

/-- FREE VALUE (log 5). The bits a read of poisoned data returns (R17, R19); the argument is the model's draw counter. -/
opaque poison : Nat → BitVec 8

/-- FREE VALUE (log 6). The word FEX2, FLG2, FTANH, FSIN or FCOS (0 to 4) returns for an input word (R106). The model takes it where it meets the
bound R106 gives, and the correctly rounded result where it does not; FSIN and FCOS outside |a| ≤ 2^17 take it where it lies in [-1, 1]. -/
opaque boundedWord : Nat → BitVec 32 → BitVec 32

/-- FREE VALUE (log 10). Which choice is taken where the spec gives a set of outcomes and no rule (the tile WNEXT hands out, R184; whether a
table-cached record or the written record answers a lookup, R171; old or new bytes of a stopped row, R132): the n-th draw. -/
opaque choose : Nat → Nat

/-- FREE VALUE (log 7). Whether an ECDSA P-256 signature (key, digest, signature) verifies (R11): the curve's arithmetic is not in the spec. -/
opaque ecdsaVerify : BitVec 512 → BitVec 256 → BitVec 512 → Bool

/-- FREE VALUE (log 7). The signature the device's attestation key puts on a digest (R23). -/
opaque ecdsaSign : BitVec 256 → BitVec 512

/-- FREE VALUE (log 7). The key digest fused in the package (R11). -/
opaque fusedKeyDigest : BitVec 256

/-- FREE VALUE (log 7). The 16-byte device identifier of the attestation report (R23). -/
opaque deviceId : BitVec 128

/-- FREE VALUE (log 11). The value of sr.taddr for a cause whose rule names none (PERMISSION of TRET and RET in trap mode, R277; a PERMISSION whose
descriptor field is at fault): the argument numbers the place. -/
opaque openTaddr : Nat → BitVec 64

/-- FREE VALUE (log 57). The DETAIL that ROM_CHECK records when both images are rejected: R15 calls it step-specific and gives no code. -/
opaque romDetail : BitVec 10

/-- FREE VALUE (log 42). The service state of the capability block while the start sequence runs: R22 names values for recovery, reduced and full service. -/
opaque startingState : BitVec 32

/-- FREE VALUE (log 3). The fused minimum security version (R11), which each package has its own of. -/
opaque minSecVersion : Nat

/-- FREE VALUE (log 51). The number, modulo 12, of the cluster in its home die whose atomic service gang serves a 256-byte granule (R218: the hash is not given). -/
opaque granuleGang : Nat → Nat

end Sys2Proof.Config
end

