-- ==== Sys2Proof/Machine/Float.lean ====
section
/-! DEFINITION. Floating point (06): binary formats (R100), exact values, rounding (R101), flushes (R102), special operands (R103), minimum and maximum
(R104), integral rounding (R105), bounded functions (R106), conversions to integer (R107). Words are natural numbers here. -/

namespace Sys2Proof.Machine

/-- A binary format: exponent bits and fraction bits (R100). -/
structure Fmt where
  eb : Nat
  mb : Nat
  deriving DecidableEq, Repr

/-- FP64. -/
def fp64 : Fmt := ⟨11, 52⟩
/-- FP32. -/
def fp32 : Fmt := ⟨8, 23⟩
/-- FP16. -/
def fp16 : Fmt := ⟨5, 10⟩
/-- BF16. -/
def bf16 : Fmt := ⟨8, 7⟩

/-- Width of the format. -/
def Fmt.bits (f : Fmt) : Nat := 1 + f.eb + f.mb
/-- Exponent bias. -/
def Fmt.bias (f : Fmt) : Nat := 2 ^ (f.eb - 1) - 1
/-- The word of +∞. -/
def Fmt.inf (f : Fmt) : Nat := (2 ^ f.eb - 1) * 2 ^ f.mb
/-- The canonical NaN (R100). -/
def Fmt.nan (f : Fmt) : Nat := f.inf + 2 ^ (f.mb - 1)
/-- The sign bit of a word. -/
def Fmt.neg (f : Fmt) (w : Nat) : Bool := w.testBit (f.bits - 1)
/-- The word without its sign. -/
def Fmt.mag (f : Fmt) (w : Nat) : Nat := w % 2 ^ (f.bits - 1)
/-- The word with a sign. -/
def Fmt.signed (f : Fmt) (neg : Bool) (mag : Nat) : Nat := (if neg then 2 ^ (f.bits - 1) else 0) + mag
/-- The exponent of the last place of subnormals. -/
def Fmt.qmin (f : Fmt) : Int := 1 - (f.bias : Int) - f.mb
/-- The word is a NaN. -/
def Fmt.isNan (f : Fmt) (w : Nat) : Bool := decide (f.inf < f.mag w)
/-- The word is an infinity. -/
def Fmt.isInf (f : Fmt) (w : Nat) : Bool := f.mag w == f.inf
/-- The word is a subnormal. -/
def Fmt.isSub (f : Fmt) (w : Nat) : Bool := decide (0 < f.mag w ∧ f.mag w < 2 ^ f.mb)
/-- R102: a subnormal becomes a zero of its sign when the flag is set. -/
def Fmt.flush (f : Fmt) (on : Bool) (w : Nat) : Nat := if on && f.isSub w then f.signed (f.neg w) 0 else w

/-- An exact value: NaN, an infinity, or ± m · 2^e. -/
inductive FVal where
  | nan
  | inf (neg : Bool)
  | num (neg : Bool) (m : Nat) (e : Int)
  deriving DecidableEq, Repr

/-- The value of a word. -/
def Fmt.val (f : Fmt) (w : Nat) : FVal :=
  let g := f.mag w
  if f.inf < g then .nan
  else if g = f.inf then .inf (f.neg w)
  else if g < 2 ^ f.mb then .num (f.neg w) g f.qmin
  else .num (f.neg w) (g % 2 ^ f.mb + 2 ^ f.mb) ((g / 2 ^ f.mb : Nat) - 1 + f.qmin)

/-- m / 2^s to nearest, ties to even. -/
def roundShift (m s : Nat) : Nat :=
  if s = 0 then m
  else
    let q := m / 2 ^ s
    let r := m % 2 ^ s
    if 2 * r > 2 ^ s ∨ (2 * r = 2 ^ s ∧ q % 2 = 1) then q + 1 else q

/-- Round_RNE of a magnitude m · 2^e to a magnitude word, the exponent taken without upper bound (R101). -/
def Fmt.roundWide (f : Fmt) (m : Nat) (e : Int) : Nat :=
  if m = 0 then 0
  else
    let q := max ((Nat.log2 m : Int) + e - f.mb) f.qmin
    let k := if q ≤ e then m * 2 ^ (e - q).toNat else roundShift m (q - e).toNat
    (q - f.qmin).toNat * 2 ^ f.mb + k

/-- Round_RNE of a magnitude to the format's magnitude word; beyond the largest finite value it is the infinity (R101). -/
def Fmt.roundMag (f : Fmt) (m : Nat) (e : Int) : Nat := min (f.roundWide m e) f.inf

/-- Round_RNE of an exact value; a NaN is the canonical one (R101). -/
def Fmt.round (f : Fmt) : FVal → Nat
  | .nan => f.nan
  | .inf neg => f.signed neg f.inf
  | .num neg m e => f.signed neg (f.roundMag m e)

/-- The exact product (R103). -/
def FVal.mul : FVal → FVal → FVal
  | .nan, _ | _, .nan => .nan
  | .inf a, .inf b => .inf (a ^^ b)
  | .inf a, .num b m _ | .num b m _, .inf a => if m = 0 then .nan else .inf (a ^^ b)
  | .num a m e, .num b n g => .num (a ^^ b) (m * n) (e + g)

/-- The exact sum (R103). -/
def FVal.add : FVal → FVal → FVal
  | .nan, _ | _, .nan => .nan
  | .inf a, .inf b => if a = b then .inf a else .nan
  | .inf a, .num _ _ _ | .num _ _ _, .inf a => .inf a
  | .num a m e, .num b n g =>
    let l := min e g
    let x : Int := (if a then -1 else 1) * (m * 2 ^ (e - l).toNat : Nat) + (if b then -1 else 1) * (n * 2 ^ (g - l).toNat : Nat)
    if x = 0 then .num (m = 0 && n = 0 && a && b) 0 l else .num (decide (x < 0)) x.natAbs l

/-- The value with its sign inverted. -/
def FVal.neg : FVal → FVal
  | .nan => .nan
  | .inf a => .inf (!a)
  | .num a m e => .num (!a) m e

/-- FADD of two words (R103). -/
def Fmt.add (f : Fmt) (a b : Nat) : Nat := f.round ((f.val a).add (f.val b))
/-- FSUB: FADD a, −b (R103). -/
def Fmt.sub (f : Fmt) (a b : Nat) : Nat := f.round ((f.val a).add (f.val b).neg)
/-- FMUL of two words. -/
def Fmt.mul (f : Fmt) (a b : Nat) : Nat := f.round ((f.val a).mul (f.val b))
/-- a × b + d, rounded once. -/
def Fmt.fma (f : Fmt) (a b d : Nat) : Nat := f.round (((f.val a).mul (f.val b)).add (f.val d))
/-- a × b − d, rounded once. -/
def Fmt.fms (f : Fmt) (a b d : Nat) : Nat := f.round (((f.val a).mul (f.val b)).add (f.val d).neg)

/-- The order of R104 on numbers: −0 stands below +0. -/
def Fmt.key (f : Fmt) (w : Nat) : Int := if f.neg w then -(f.mag w : Int) - 1 else f.mag w

/-- Minimum-number (R104). -/
def Fmt.min (f : Fmt) (a b : Nat) : Nat :=
  if f.isNan a && f.isNan b then f.nan
  else if f.isNan a then b
  else if f.isNan b then a
  else if f.key b < f.key a then b else a

/-- Maximum-number (R104). -/
def Fmt.max (f : Fmt) (a b : Nat) : Nat :=
  if f.isNan a && f.isNan b then f.nan
  else if f.isNan a then b
  else if f.isNan b then a
  else if f.key a < f.key b then b else a

/-- Neither word is a NaN. -/
def Fmt.ordered (f : Fmt) (a b : Nat) : Bool := !f.isNan a && !f.isNan b
/-- The numeric order key of compares: −0 equals +0. -/
def Fmt.cmpKey (f : Fmt) (w : Nat) : Int := if f.neg w then -(f.mag w : Int) else f.mag w

/-- Conversion of a word between formats, to nearest even; any NaN gives the destination's canonical NaN (06, CVT). -/
def Fmt.to (f g : Fmt) (w : Nat) : Nat := g.round (f.val w)

/-! ## Reciprocal and roots -/

/-- floor of the square root, one bit a step from bit k down. -/
def isqrtGo (n : Nat) : Nat → Nat → Nat
  | 0, r => if (r + 1) * (r + 1) ≤ n then r + 1 else r
  | k + 1, r => isqrtGo n k (if (r + 2 ^ (k + 1)) * (r + 2 ^ (k + 1)) ≤ n then r + 2 ^ (k + 1) else r)

/-- floor of the square root. -/
def isqrt (n : Nat) : Nat := isqrtGo n (Nat.log2 n / 2 + 1) 0

/-- A magnitude with a sticky bit below it: rounds as the exact value does. -/
def sticky (q : Nat) (exact : Bool) : Nat := 2 * q + (if exact then 0 else 1)

/-- 1 / a (06, FRCP). -/
def FVal.recip : FVal → FVal
  | .nan => .nan
  | .inf a => .num a 0 0
  | .num a m e =>
    if m = 0 then .inf a
    else
      let k := Nat.log2 m + 80
      .num a (sticky (2 ^ k / m) (2 ^ k % m == 0)) (-(k : Int) - 1 - e)

/-- The value with an even exponent. -/
def evenExp (m : Nat) (e : Int) : Nat × Int := if e % 2 = 0 then (m, e) else (2 * m, e - 1)

/-- √a (06, FSQRT). -/
def FVal.sqrt : FVal → FVal
  | .nan => .nan
  | .inf a => if a then .nan else .inf false
  | .num a m e =>
    if m = 0 then .num a 0 0
    else if a then .nan
    else
      let (n, g) := evenExp m e
      let x := n * 2 ^ 160
      let r := isqrt x
      .num false (sticky r (r * r == x)) (g / 2 - 81)

/-- 1 / √a (06, FRSQ). -/
def FVal.rsqrt : FVal → FVal
  | .nan => .nan
  | .inf a => if a then .nan else .num false 0 0
  | .num a m e =>
    if m = 0 then .inf a
    else if a then .nan
    else
      let (n, g) := evenExp m e
      let k := Nat.log2 n / 2 + 80
      let r := isqrt (2 ^ (2 * k) / n)
      .num false (sticky r (r * r * n == 2 ^ (2 * k))) (-(k : Int) - 1 - g / 2)

/-! ## Rounding to integers (R105, R107) -/

/-- The directions of R105. -/
inductive RMode where
  | ne | z | dn | up
  deriving DecidableEq, Repr

/-- ± m / 2^s rounded to an integer magnitude. -/
def RMode.shift (r : RMode) (neg : Bool) (m s : Nat) : Nat :=
  let q := m / 2 ^ s
  let inexact := m % 2 ^ s != 0
  match r with
  | .ne => roundShift m s
  | .z => q
  | .dn => if neg && inexact then q + 1 else q
  | .up => if !neg && inexact then q + 1 else q

/-- FRND (R105): an integral value of the same sign. -/
def Fmt.integral (f : Fmt) (r : RMode) (w : Nat) : Nat :=
  match f.val w with
  | .nan => f.nan
  | .inf _ => w
  | .num neg m e => if 0 ≤ e then w else f.round (.num neg (r.shift neg m (-e).toNat) 0)

/-- R107: a value rounded to an integer and held inside [lo, hi]; a NaN gives 0. -/
def FVal.toInt (r : RMode) (lo hi : Int) : FVal → Int
  | .nan => 0
  | .inf a => if a then lo else hi
  | .num neg m e =>
    let x : Nat := if 0 ≤ e then m * 2 ^ e.toNat else r.shift neg m (-e).toNat
    let y : Int := if neg then -(x : Int) else x
    if y < lo then lo else if hi < y then hi else y

/-- An integer as an exact value. -/
def FVal.ofInt (x : Int) : FVal := .num (decide (x < 0)) x.natAbs 0

/-! ## Bounded functions (R106): an approximation far closer than any two values the bounds tell apart decides which words they admit -/

/-- ln 2 · 2^240. -/
def ln2Fix : Nat := 1224685061431752149387114016819916847747660333428801675508466606222838698
/-- log2 e · 2^240. -/
def log2eFix : Nat := 2549021498364996158492822670917473327442576334123703768170874065315799876
/-- π · 2^340. -/
def piFix : Nat := 7036365627942155232378451105383714118229498621515162138157626346021022039982006998243213719805928138054

/-- The sum of x^k / k! in fixed point with 240 fraction bits, n terms from term number k on; t is the last term. Every operand has at most 149 fraction bits, so
no two values that a bound tells apart fall together. -/
def expSeries (x : Nat) : Nat → Nat → Nat → Nat
  | 0, _, _ => 0
  | n + 1, k, t => t + expSeries x n (k + 1) (t * x / 2 ^ 240 / (k + 1))

/-- 2^f for a fraction f with 240 fraction bits, in the same fixed point. -/
def exp2Frac (f : Nat) : Nat := expSeries (f * ln2Fix / 2 ^ 240) 70 0 (2 ^ 240)

/-- ± m · 2^e as a fixed-point number with s fraction bits, rounded toward −∞. -/
def toFix (neg : Bool) (m : Nat) (e : Int) (s : Nat) : Int :=
  let x := e + s
  let y : Int := if 0 ≤ x then (m * 2 ^ x.toNat : Nat) else if neg then ((m + 2 ^ (-x).toNat - 1) / 2 ^ (-x).toNat : Nat) else (m / 2 ^ (-x).toNat : Nat)
  if neg then -y else y

/-- 2^x for x in fixed point with 240 fraction bits. -/
def exp2Fix (x : Int) : FVal := .num false (exp2Frac (x % 2 ^ 240).toNat) (x / 2 ^ 240 - 240)

/-- The fraction bits of log2 of x in [1, 2), x with 200 fraction bits: n bits by repeated squaring. -/
def log2Bits : Nat → Nat → Nat → Nat
  | 0, _, acc => acc
  | n + 1, x, acc =>
    let y := x * x / 2 ^ 200
    if y ≥ 2 ^ 201 then log2Bits n (y / 2) (2 * acc + 1) else log2Bits n y (2 * acc)

/-- log2 of m · 2^e, m > 0, with 100 fraction bits. -/
def log2Fix (m : Nat) (e : Int) : Int :=
  let l := Nat.log2 m
  ((l : Int) + e) * 2 ^ 100 + (log2Bits 100 (m * 2 ^ (200 - l)) 0 : Nat)

/-- sin (odd true) or cos (odd false) series in fixed point with 340 fraction bits: alternating terms. -/
def trigSeries (x : Nat) : Nat → Nat → Int → Int
  | 0, _, _ => 0
  | n + 1, k, t => t + trigSeries x n (k + 2) (-(t * (x * x / 2 ^ 340 : Nat) / 2 ^ 340 / ((k + 1) * (k + 2) : Nat)))

/-- An exact value from a fixed-point number with s fraction bits. -/
def ofFix (x : Int) (s : Nat) : FVal := .num (decide (x < 0)) x.natAbs (-(s : Int))

/-- The magnitude of the difference of two finite values is at most b. -/
def FVal.within (x y : FVal) (b : FVal) : Bool :=
  match x.add y.neg, b with
  | .num _ m e, .num _ n g =>
    let l := Min.min e g
    m * 2 ^ (e - l).toNat ≤ n * 2 ^ (g - l).toNat
  | _, _ => false

/-- The spacing of FP32 words at a word (R106). -/
def ulp32 (w : Nat) : Int := (Max.max (fp32.mag w / 2 ^ 23) 1 : Nat) - 150

/-- The bound of R106 as an exact value: twice the spacing at the correctly rounded word, or an absolute bound 2^a where that is larger. -/
def boundOf (w : Nat) (absolute : Option Int) : FVal :=
  let u := ulp32 w + 1
  let e := match absolute with
    | some a => Max.max a u
    | none => u
  .num false 1 e

/-- The word a bounded function returns: the free word where the bound admits it, else the correctly rounded result. -/
def boundedResult (fn : Nat) (a : W32) (y : FVal) (absolute : Option Int) : Nat :=
  let w := fp32.round y
  let free := (Config.boundedWord fn a).toNat
  if (fp32.val free).within y (boundOf w absolute) then free else w

/-- FEX2 (R106). -/
def fex2Word (a : W32) : Nat :=
  match fp32.val a.toNat with
  | .nan => fp32.nan
  | .inf neg => if neg then 0 else fp32.inf
  | .num neg m e =>
    let x := toFix neg m e 240
    if 128 * 2 ^ 240 ≤ x then fp32.inf
    else if x ≤ -150 * 2 ^ 240 then 0
    else if x % 2 ^ 240 = 0 then fp32.round (.num false 1 (x / 2 ^ 240))
    else boundedResult 0 a (exp2Fix x) none

/-- FLG2 (R106). On [0.5, 2] both bounds of the table's row hold, 2 ulp and 2^-22: DEDUCED (log 60), the row does not say that the second replaces the first. -/
def flg2Word (a : W32) : Nat :=
  match fp32.val a.toNat with
  | .nan => fp32.nan
  | .inf neg => if neg then fp32.nan else fp32.inf
  | .num neg m e =>
    if m = 0 then fp32.signed true fp32.inf
    else if neg then fp32.nan
    else if m = 2 ^ Nat.log2 m then fp32.round (FVal.ofInt ((Nat.log2 m : Int) + e))
    else
      let near : Bool := (Nat.log2 m : Int) + e = 0 || (Nat.log2 m : Int) + e = -1
      let y := ofFix (log2Fix m e) 100
      if near then
        let w := fp32.round y
        let free := (Config.boundedWord 1 a).toNat
        if (fp32.val free).within y (boundOf w none) && (fp32.val free).within y (.num false 1 (-22)) then free else w
      else boundedResult 1 a y none

/-- tanh of a finite value, |a| < 9.1 (R106): from e^2a, or a − a³/3 where a is small. -/
def tanhVal (neg : Bool) (m : Nat) (e : Int) : FVal :=
  if (Nat.log2 m : Int) + e < -20 then (FVal.num neg m e).add (.num (!neg) (m * m * m * (2 ^ 120 / 3)) (3 * e - 120))
  else
    let x := toFix false m e 240
    match exp2Fix (2 * x * log2eFix / 2 ^ 240) with
    | .num _ k g =>
      let f := toFix false k g 240
      .num neg (((f - 2 ^ 240) * 2 ^ 240 / (f + 2 ^ 240)).toNat) (-240)
    | v => v

/-- FTANH (R106); |a| ≥ 9.1 gives ±1 exactly. -/
def ftanhWord (a : W32) : Nat :=
  match fp32.val a.toNat with
  | .nan => fp32.nan
  | .inf neg => fp32.signed neg 0x3F800000
  | .num neg m e =>
    if m = 0 then a.toNat
    else if 91 * 2 ^ 239 ≤ 5 * toFix false m e 240 then fp32.signed neg 0x3F800000
    else boundedResult 2 a (tanhVal neg m e) none

/-- The angle of a magnitude m · 2^e modulo 2π, with 340 fraction bits. -/
def reduceAngle (m : Nat) (e : Int) : Nat := (toFix false m e 340).toNat % (2 * piFix)

/-- FSIN (cosine false) and FCOS (cosine true) (R106). -/
def trigWord (cosine : Bool) (a : W32) : Nat :=
  let fn := if cosine then 4 else 3
  match fp32.val a.toNat with
  | .nan | .inf _ => fp32.nan
  | .num neg m e =>
    if m = 0 then (if cosine then 0x3F800000 else a.toNat)
    else if 2 ^ 257 < toFix false m e 240 then
      let free := (Config.boundedWord fn a).toNat
      if fp32.mag free ≤ 0x3F800000 then free else 0
    else
      let r := reduceAngle m e
      let y := if cosine then trigSeries r 70 0 (2 ^ 340) else trigSeries r 70 1 r
      boundedResult fn a (ofFix (if neg && !cosine then -y else y) 340) (some (-24))

end Sys2Proof.Machine
end

