-- ==== Sys2Proof/Syntax.lean ====
section
/-! DEFINITION. The abstract syntax: operand kinds, the packets of the fabric, and Instr, one constructor for each row of
spec/opcode_table.json: the 188 instruction words of R34 and the 118 steps of the machine's other agents. -/

namespace Sys2Proof

/-- Integer compare conditions, codes 0 to 9 in order (06, Conditions). -/
inductive IntCond where
  | eq | ne | lt | le | gt | ge | ltu | leu | gtu | geu
  deriving DecidableEq, Repr

/-- Floating compare conditions, codes 0 to 7 in order (06, FP compare conditions). -/
inductive FpCond where
  | eq | ne | lt | le | gt | ge | unord | ord
  deriving DecidableEq, Repr

/-- How a compare meets the old predicate, codes 0 to 3 (R34). -/
inductive Combine where
  | set | and | or | xor
  deriving DecidableEq, Repr

/-- XLANE forms, FN 4 to 7 of CLV (R34). -/
inductive XlaneOp where
  | at | below | above | flip
  deriving DecidableEq, Repr

/-- CRED operations, FN 8 to 15 of CLV (R34). -/
inductive CredOp where
  | add | min | max | minu | maxu | and | or | xor
  deriving DecidableEq, Repr

/-- FREDX operations, FN 16 to 18 of CLV (R34). -/
inductive FredxOp where
  | add | min | max
  deriving DecidableEq, Repr

/-- Conversion codes 0 to 15 (06, Conversion codes). -/
inductive CvtCode where
  | f32F16 | f32Bf16 | f16x2F32 | bf16x2F32 | f64F32 | f32F64 | f32S32 | f32U32
  | s32F32 | u32F32 | s32F32Rn | f64S32 | f64U32 | s32F64 | f64S64 | s64F64
  deriving DecidableEq, Repr

/-- Load and store sizes, SZ 0 to 2 (R34). -/
inductive Size where
  | w32 | w64 | w128
  deriving DecidableEq, Repr

/-- LDGB forms, SZ 0 to 3 (R34). -/
inductive SubLoad where
  | zx8 | sx8 | zx16 | sx16
  deriving DecidableEq, Repr

/-- STGB sizes, SZ 0 and 1 (R34). -/
inductive SubStore where
  | b8 | b16
  deriving DecidableEq, Repr

/-- ATOM and RED operations, OP 0 to 14 (R35). -/
inductive AtomOp where
  | add | min | max | minu | maxu | and | or | xor | xchg | cas | fadd | fmin | fmax | inc | dec
  deriving DecidableEq, Repr

/-- Atomic widths W 0 to 3 (R35). -/
inductive AtomWidth where
  | w32 | w64 | f16x2 | bf16x2
  deriving DecidableEq, Repr

/-- RATOM operations, OP 0 to 14 (R35). -/
inductive RatomOp where
  | add | min | max | and | or | xor | xchg | cas | fadd | fadd64 | faddF16x2 | faddBf16x2 | minu | maxu | add64
  deriving DecidableEq, Repr

/-- Scope codes 0 to 4 and 8 to 15 (R38, R235). -/
inductive Scope where
  | team | cluster | die | package | system
  | named (i : BitVec 3)
  deriving DecidableEq, Repr

/-- Special registers 0 to 23 (R30), in order. -/
inductive SReg where
  | tid | team | teamsize | grid | depth | cohort | clane | core | cluster | die | device | attempt | lastcause
  | cycleLo | cycleHi | wbase | calldepth | tcause | tpc | taddrLo | taddrHi | tinfo | scratch | partition
  deriving DecidableEq, Repr

/-- One thread by its logical name: grid, team index, sr.tid (R299). -/
structure TRef where
  grid : Nat
  team : Nat
  tid : Nat
  deriving DecidableEq, Repr

/-- The source of a channel: a team's channel 0 to 15 (R255), or an RMA queue, which acts as one source with one channel (R272). -/
inductive ChanKey where
  | team (grid team ch : Nat)
  | rma (q : Nat)
  deriving DecidableEq, Repr

/-- A destination die of a device (R256, R258). -/
structure DieId where
  dev : Nat
  die : Nat
  deriving DecidableEq, Repr

/-- Packet kinds, in the order of the table of R262. -/
inductive PKind where
  | data | areq | arsp | ack | nack | viol | syncReq | syncAck | close
  deriving DecidableEq, Repr

/-- Where a packet's access goes: a place of this package already translated at the issuer; a byte of a registered region of the destination die (R258); or the
places that the checks at the die have found for such bytes, with whether they are an arrival (R270, R224). -/
inductive Target where
  | place (key va : Nat)
  | region (region off : Nat)
  | accepted (region off : Nat) (places : List (Nat × Nat)) (arrival : Bool)
  deriving DecidableEq, Repr

/-- What a serving unit is asked to do (R218, R220): operation, width, operand, and for CAS the expected value. -/
structure AtomReq where
  op : AtomOp
  width : AtomWidth
  v : W64
  expected : W64
  deriving DecidableEq, Repr

/-- A row sent by ROUTE, or forwarded (R194, R195). -/
structure RelayRow where
  asid : Nat
  srcDev : Nat
  srcCore : Nat
  table : Nat
  epoch : BitVec 16
  row : Nat
  slot : Nat
  weight : W32
  forward : Bool
  forwarded : Bool
  endpoint : Nat
  data : List Byte
  deriving DecidableEq, Repr

/-- A returned row (R197), or a drop notice when it carries no data (R195). -/
structure RelayReturn where
  dev : Nat
  core : Nat
  table : Nat
  epoch : BitVec 16
  row : Nat
  slot : Nat
  data : List Byte
  deriving DecidableEq, Repr

/-- A contribution to an in-network reduction (R267 of 12). -/
structure Contribution where
  asid : Nat
  coll : W32
  gen : W32
  ncon : Nat
  index : Nat
  rop : Nat
  elems : Nat
  timeout : Nat
  dev : Nat
  op : Nat
  data : List Byte
  deriving DecidableEq, Repr

/-- A WALKER word on its way to the walker's home die (R181). odd: register B of WRED has an odd number; second: the cause, 3 or 4, that reading register
B + 1 meets, else 0 (R28, R33, R185). -/
inductive WalkReq where
  | walk | next | red (v : W64) (odd : Bool) (second : Nat) | fin (hurdle : Nat)
  deriving DecidableEq, Repr

/-- What a packet carries; piece: up to 256 bytes of a row or contribution of more, whose last packet brings it whole (R262). -/
inductive Body where
  | empty
  | write (t : Target) (bytes : List Byte)
  | atom (t : Target) (r : AtomReq)
  | get (t : Target) (len : Nat)
  | row (r : RelayRow)
  | ret (r : RelayReturn)
  | notice (r : RelayReturn)
  | contrib (c : Contribution)
  | piece (bytes : List Byte)
  | walk (key va : Nat) (w : WalkReq)
  | value (v : W64) (bytes : List Byte)
  | number (n : Nat)
  deriving DecidableEq, Repr

/-- A packet of the fabric (R260, R262, R264). op is the issuer's number for the operation the packet belongs to, part its place in it. -/
structure Packet where
  src : ChanKey
  srcAt : DieId
  dst : DieId
  asid : Nat
  kind : PKind
  seq : BitVec 32
  epoch : BitVec 8
  op : Nat
  part : Nat
  body : Body
  deriving DecidableEq, Repr

/-- Which packet an arrival step concerns: one in flight in this package, by its place in the list, or one that comes from another device. -/
inductive Arrival where
  | inFlight (n : Nat)
  | external (p : Packet)
  deriving DecidableEq, Repr

/-- One entry of a channel: its source and the destination die (R259, R263). -/
structure EntryId where
  src : ChanKey
  dst : DieId
  deriving DecidableEq, Repr

/-- A firmware image with its header (R11). -/
structure Image where
  version : Nat
  length : Nat
  digest : BitVec 256
  key : BitVec 512
  sig : BitVec 512
  body : List Byte
  deriving DecidableEq, Repr

/-- What the host link's partner can do as the ROM tries the link (R13): the rates it offers in GT/s, and the widths and rates that would train. -/
structure LinkPartner where
  offered : List Nat
  trains : List (Nat × Nat)
  deriving DecidableEq, Repr

/-- The registers of a queue page that a configuration write names. -/
inductive RingReg where
  | base | size
  deriving DecidableEq, Repr

/-- The three queues the device fills (R291). -/
inductive DevQueue where
  | fault | kill | event
  deriving DecidableEq, Repr

/-- The instructions and steps: the 188 words of R34, then the steps of the machine's other agents. A step whose data are only the numbers
of the units it concerns (a queue, an operation, an instance, a core) carries none: like the gang of a word, its subject stands in the state
(State.subject), and the comment beside it says which numbers in which order. -/
inductive Instr where
  -- SYS, control (05, 13)
  | nop
  | exit
  | brk
  | trap (n : BitVec 14)
  | tret
  | tlbi (a b : Reg)
  | csync
  | cpick (p : BitVec 3)
  | win (b : BitVec 5)
  | winr (a : Reg)
  | bra (p : BitVec 3) (neg : Bool) (off : BitVec 22)
  | call (off : BitVec 22)
  | jmpi (a : Reg)
  | calli (a : Reg)
  | ret
  | grd (p : BitVec 3) (neg : Bool) (cnt : BitVec 3)
  -- collectives (05)
  | pall (p q : BitVec 3) (neg : Bool)
  | pany (p q : BitVec 3) (neg : Bool)
  | psame (p q : BitVec 3) (neg : Bool)
  | ballot (d : Reg) (q : BitVec 3) (neg : Bool)
  | xlane (o : XlaneOp) (d a b : Reg)
  | cred (o : CredOp) (d a : Reg)
  | fredx (o : FredxOp) (d a : Reg)
  | scanAdd (d a : Reg)
  | scanAddi (d a : Reg)
  -- spawning and launching (03, 04)
  | spawn (d a b : Reg)
  | heat (a : Reg)
  | launch (l : BitVec 4) (a b : Reg)
  -- integer (06)
  | iadd (d a b : Reg)
  | isub (d a b : Reg)
  | imul (d a b : Reg)
  | imulh (d a b : Reg)
  | imulhu (d a b : Reg)
  | imac (d a b : Reg)
  | imin (d a b : Reg)
  | imax (d a b : Reg)
  | umin (d a b : Reg)
  | umax (d a b : Reg)
  | and (d a b : Reg)
  | or (d a b : Reg)
  | xor (d a b : Reg)
  | andn (d a b : Reg)
  | shl (d a b : Reg)
  | shr (d a b : Reg)
  | sar (d a b : Reg)
  | rotl (d a b : Reg)
  | bfx (d a b : Reg)
  | bfxs (d a b : Reg)
  | bfi (d a b : Reg)
  | lea1 (d a b : Reg)
  | lea2 (d a b : Reg)
  | lea3 (d a b : Reg)
  | mulw (d a b : Reg)
  | add64 (d a b : Reg)
  | sub64 (d a b : Reg)
  | shl64 (d a b : Reg)
  | shr64 (d a b : Reg)
  | mov (d a : Reg)
  | not (d a : Reg)
  | ineg (d a : Reg)
  | iabs (d a : Reg)
  | clz (d a : Reg)
  | popc (d a : Reg)
  | brev (d a : Reg)
  | ptov (d : Reg)
  | vtop (a : Reg)
  | icmp (c : IntCond) (m : Combine) (p : BitVec 3) (a b : Reg)
  | sel (p : BitVec 3) (neg : Bool) (d a b : Reg)
  | pand (d a b : BitVec 3)
  | por (d a b : BitVec 3)
  | pxor (d a b : BitVec 3)
  | pnot (d a : BitVec 3)
  | iaddi (d a : Reg) (imm : BitVec 12)
  | andi (d a : Reg) (imm : BitVec 12)
  | ori (d a : Reg) (imm : BitVec 12)
  | xori (d a : Reg) (imm : BitVec 12)
  | shli (d a : Reg) (n : BitVec 5)
  | shri (d a : Reg) (n : BitVec 5)
  | sari (d a : Reg) (n : BitVec 5)
  | rotli (d a : Reg) (n : BitVec 5)
  | icmpi (c : IntCond) (p : BitVec 3) (a : Reg) (imm : BitVec 12)
  | movi (d : Reg) (imm : BitVec 19)
  | movhi (d : Reg) (imm : BitVec 19)
  | srd (d : Reg) (r : SReg)
  | swr (a : Reg)
  | movk (d : Reg) (k : BitVec 6)
  -- floating point (06)
  | fadd (fi fo : Bool) (d a b : Reg)
  | fsub (fi fo : Bool) (d a b : Reg)
  | fmul (fi fo : Bool) (d a b : Reg)
  | ffma (fi fo : Bool) (d a b : Reg)
  | ffms (fi fo : Bool) (d a b : Reg)
  | fmin (fi fo : Bool) (d a b : Reg)
  | fmax (fi fo : Bool) (d a b : Reg)
  | fabs (d a : Reg)
  | fneg (d a : Reg)
  | frcp (fi fo : Bool) (d a : Reg)
  | frsq (fi fo : Bool) (d a : Reg)
  | fsqrt (fi fo : Bool) (d a : Reg)
  | fex2 (fi fo : Bool) (d a : Reg)
  | flg2 (fi fo : Bool) (d a : Reg)
  | ftanh (fi fo : Bool) (d a : Reg)
  | frndNe (fi fo : Bool) (d a : Reg)
  | frndZ (fi fo : Bool) (d a : Reg)
  | frndDn (fi fo : Bool) (d a : Reg)
  | frndUp (fi fo : Bool) (d a : Reg)
  | fsin (fi fo : Bool) (d a : Reg)
  | fcos (fi fo : Bool) (d a : Reg)
  | fcmp (c : FpCond) (m : Combine) (fi : Bool) (p : BitVec 3) (a b : Reg)
  | paddH (fi fo : Bool) (d a b : Reg)
  | pmulH (fi fo : Bool) (d a b : Reg)
  | pfmaH (fi fo : Bool) (d a b : Reg)
  | paddB (fi fo : Bool) (d a b : Reg)
  | pmulB (fi fo : Bool) (d a b : Reg)
  | pfmaB (fi fo : Bool) (d a b : Reg)
  | pmaxH (fi fo : Bool) (d a b : Reg)
  | pmaxB (fi fo : Bool) (d a b : Reg)
  | dadd (fi fo : Bool) (d a b : Reg)
  | dsub (fi fo : Bool) (d a b : Reg)
  | dmul (fi fo : Bool) (d a b : Reg)
  | dfma (fi fo : Bool) (d a b : Reg)
  | dmin (fi fo : Bool) (d a b : Reg)
  | dmax (fi fo : Bool) (d a b : Reg)
  | dcmp (c : FpCond) (m : Combine) (fi : Bool) (p : BitVec 3) (a b : Reg)
  | cvt (c : CvtCode) (d a b : Reg)
  -- narrow formats (08)
  | pack8E4m3 (d a b : Reg)
  | pack8E5m2 (d a b : Reg)
  | unpk8E4m3 (d a : Reg)
  | unpk8E5m2 (d a : Reg)
  | pack4 (d a b : Reg)
  | unpk4 (d a b : Reg)
  | resenc (d a : Reg)
  | resdec (d a : Reg)
  | scale8 (d a b : Reg)
  -- loads and stores (07)
  | ldg (l : BitVec 4) (sz : Size) (d a : Reg) (off : BitVec 6)
  | ldgn (l : BitVec 4) (sz : Size) (d a : Reg) (off : BitVec 6)
  | ldgb (l : BitVec 4) (sz : SubLoad) (d a : Reg) (off : BitVec 6)
  | lds (l : BitVec 4) (sz : Size) (d a : Reg) (off : BitVec 6)
  | stg (streaming : Bool) (sz : Size) (d a : Reg) (off : BitVec 6)
  | stgb (streaming : Bool) (sz : SubStore) (d a : Reg) (off : BitVec 6)
  | sts (sz : Size) (d a : Reg) (off : BitVec 6)
  | ldk (l : BitVec 4) (sz : Size) (d a : Reg) (off : BitVec 6)
  -- ownership (07), fences (11)
  | oclaim (l : BitVec 4) (a b : Reg)
  | omove (l : BitVec 4) (a b : Reg)
  | orels (l : BitVec 4) (a : Reg)
  | pref (l : BitVec 4) (a b : Reg)
  | fenceAcq (l : BitVec 4) (sc : Scope)
  | fenceRel (l : BitVec 4) (sc : Scope)
  | fenceAr (l : BitVec 4) (sc : Scope)
  -- hurdles, waits, atomics (10)
  | hinit (l : BitVec 4) (a b : Reg)
  | arriveRel (l : BitVec 4) (sc : Scope) (a b : Reg)
  | arriveRlx (l : BitVec 4) (a b : Reg)
  | expect (l : BitVec 4) (a b : Reg)
  | waitp (d a b : Reg)
  | htest (d a : Reg)
  | qwait (a b : Reg)
  | wake (d a b : Reg)
  | atom (op : AtomOp) (l : BitVec 4) (w : AtomWidth) (d a : Reg)
  | red (op : AtomOp) (w : AtomWidth) (d a : Reg)
  -- channels (12)
  | rst (ch : BitVec 4) (sz : Size) (d a : Reg) (off : BitVec 6)
  | ratom (op : RatomOp) (l : BitVec 4) (ch : BitVec 4) (d a : Reg)
  | rcpy (l : BitVec 4) (ch : BitVec 4) (a b : Reg)
  | rmc (l : BitVec 4) (ch : BitVec 4) (a b : Reg)
  | rred (l : BitVec 4) (ch : BitVec 4) (a b : Reg)
  | join (t s : BitVec 4)
  | drain (l : BitVec 4) (ch : BitVec 4) (a : Reg)
  -- copies (07), buffers and MMA (08)
  | cpy (l : BitVec 4) (ch : BitVec 4) (a b : Reg)
  | cpyg (l : BitVec 4) (ch : BitVec 4) (a b : Reg)
  | cpys (l : BitVec 4) (ch : BitVec 4) (a b : Reg)
  | cpyf (l : BitVec 4) (ch : BitVec 4) (a b : Reg)
  | obres (l : BitVec 4) (a : Reg)
  | obrel (l : BitVec 4) (a : Reg)
  | accclr (l : BitVec 4) (a : Reg)
  | accrd (l : BitVec 4) (ch : BitVec 4) (a b : Reg)
  | mma (l : BitVec 4) (a : Reg)
  -- ragged, walker, relay (09)
  | rbind (l : BitVec 4) (a b : Reg)
  | runbind (l : BitVec 4) (a : Reg)
  | rgld (l : BitVec 4) (ch : BitVec 4) (a b : Reg)
  | segred (l : BitVec 4) (ch : BitVec 4) (a b : Reg)
  | segnorm (l : BitVec 4) (ch : BitVec 4) (a b : Reg)
  | segscan (l : BitVec 4) (ch : BitVec 4) (a b : Reg)
  | walk (a : Reg)
  | wnext (d a : Reg)
  | wred (a b : Reg)
  | wend (a b : Reg)
  | route (l : BitVec 4) (ch : BitVec 4) (a b : Reg)
  | rret (l : BitVec 4) (ch : BitVec 4) (a b : Reg)
  | epdef (l : BitVec 4) (a : Reg)
  | rasm (l : BitVec 4) (a : Reg)
  -- ## steps that carry data
  -- bring-up, power and mailbox (01)
  | fuseLoad (ok : Bool) (detail : BitVec 10)
  | powerRamp (ok : Bool) (detail : BitVec 10)
  | switchTrain (n : Nat) (ok : Bool) (detail : BitVec 10)
  | towerTrain (n : Nat) (ok : Bool) (detail : BitVec 10)
  | dieTest (n : Nat) (ok : Bool) (detail : BitVec 10)
  | bondTest (n : Nat) (ok : Bool) (detail : BitVec 10)
  | hostLink (ok : Bool) (detail : BitVec 10) (rate : Nat)
  | vilcorTrain (n : Nat) (ok : Bool) (detail : BitVec 10)
  | fwLoad (ok : Bool) (detail : BitVec 10) (img : Image)
  | recoveryLinkRetry (partner : LinkPartner)
  | powerWindow (milliwatts : Nat)
  | getAttest (nonce : BitVec 256)
  | imageLoad (img : Image)
  | mailboxUnknownCommand (code : Nat)
  -- host queues, code and graphs (03)
  | qbaseWrite (q : Nat) (v : W64)
  | qsizeWrite (q : Nat) (v : W32)
  | tailWrite (q : Nat) (v : W32)
  | qstatusW1c (q : Nat) (v : W32)
  | registerWrite (q : Nat) (v : W32)
  | kick (q : Nat) (v : W64) (wide : Bool)
  -- placement (04)
  | teamPlace (grid : Nat) (cores : List Nat)
  | carveChange (core code : Nat)
  | teamResume (grid : Nat) (cores : List (Nat × Nat))
  -- the Starter, stops, traps, memory and engine steps (05, 07, 08, 09, 10, 13)
  | preciseStopEnd (t : TRef)
  | trapEntry (t : TRef)
  | mmaPassEnd (cluster : Nat) (softError : Option Nat)
  | waitpTimeout (t : TRef)
  -- channels and links (12)
  | channelPacketArrive (a : Arrival)
  | ackSend (e : EntryId)
  | ackReceive (a : Arrival)
  | nackReceive (a : Arrival)
  | nackReplay (e : EntryId) (seq : BitVec 32)
  | arspReceive (a : Arrival)
  | violReceive (a : Arrival)
  | channelGapTimeout (e : EntryId)
  | syncReqRetry (e : EntryId)
  | syncReqReceive (a : Arrival)
  | syncAckReceive (a : Arrival)
  | closeReceive (a : Arrival)
  | noPathReport (d : DieId)
  | linkDown (port : Nat) (lost : List Nat)
  | rredContributionArrive (ext : Option Contribution)   -- none: the waiting contribution the subject names, n
  | rmaRingConfigWrite (q : Nat) (r : RingReg) (v : W64)
  | rmaTailWrite (q : Nat) (v : W32)
  | rstatusW1c (q : Nat) (v : W32)
  -- the privileged interface (13)
  | queueConfigWrite (q : DevQueue) (r : RingReg) (v : W64)
  | queueReadWrite (q : DevQueue) (v : W32)
  | atsInvalidation (page : Nat) (now : Option Nat)
  | hostMemAccess (addr : Nat) (write : Option (List Byte)) (len : Nat)
  -- watching and retiring (14)
  | powerSample (die : Nat) (rails : List W32)
  -- outside events listed last in the table (11, 12)
  | pathReturn (d : DieId)
  | hostMemoryWrite (addr : Nat) (bytes : List Byte)
  -- ## steps whose subject stands in the state
  -- bring-up, power and mailbox (01)
  | deviceStart
  | romCheck
  | serveFull
  | getCaps
  | getBringup
  | clearBringup
  | reset
  -- host queues, code and graphs (03)
  | loadCode   -- subject: q
  | unloadCode   -- subject: q
  | uploadGraph   -- subject: q
  | releaseGraph   -- subject: q
  | ringLaunch   -- subject: q
  | waitValue   -- subject: q
  | waitValueSatisfied   -- subject: q
  | writeValue   -- subject: q
  | ringEntryReserved   -- subject: q
  | graphInstanceStart   -- subject: n
  | edgeClean   -- subject: n, edge
  | graphNodeStart   -- subject: n, node
  | graphInstanceComplete   -- subject: n
  | gridSlotFreed
  -- placement (04)
  | teamEvict   -- subject: grid, team of each team that leaves
  | heatDeadline   -- subject: core, n
  -- the Starter, stops, traps, memory and engine steps (05, 07, 08, 09, 10, 13)
  | starterPick   -- subject: core, part
  | faultRecordPost
  | killRecordPost
  | loadDataReturn   -- subject: op
  | atomicService   -- subject: batch, granule
  | atomicReturn   -- subject: op
  | writeThroughAck   -- subject: op
  | engineOpStart   -- subject: op
  | copyBytesLand   -- subject: op, row, lo, len
  | mmaPass   -- subject: cluster
  | accrdReadout   -- subject: op
  | relayRowArrive   -- subject: n
  | relayDropNotice   -- subject: n
  | relayReturnArrive   -- subject: n
  | reassemblyDeadline   -- subject: core, table
  -- channels and links (12)
  | linkDegraded   -- subject: port
  | rredSlotExpire   -- subject: n
  | rredExpiredMarkEnd   -- subject: n
  | rmaPut   -- subject: q
  | rmaGet   -- subject: q
  | rmaWait   -- subject: q
  | rmaWaitSatisfied   -- subject: q
  | rmaEntryReserved   -- subject: q
  -- the privileged interface (13)
  | bindQueue
  | setAsid
  | setLocalWindow
  | setSaveArea
  | setDieMap
  | regionRegister
  | regionRevoke
  | channelReset
  | kill
  | faultReply
  | tlbInvalidate
  | debug
  | readViolq
  | traceConfig
  | dump
  | setRstackArea
  | privUnknownCommand
  -- watching and retiring (14)
  | traceSample   -- subject: core, part
  | teamRetire   -- subject: grid, team
  | gridRetire   -- subject: grid
  deriving DecidableEq, Repr

end Sys2Proof
end

