-- ==== Sys2Proof/Machine/Operands.lean ====
section
/-! DEFINITION. The register operands of each instruction word: which fields it names, how many registers each names (R25 to R28), and the
pending set of each long-latency word (R32). One table serves the alignment rule of R26, the range check of R28 and the hazard check of R33. -/

namespace Sys2Proof

/-- A register field and how many consecutive registers it names: 1, 2 (a pair) or 4 (a quad) (R26). -/
structure Operand where
  field : Reg
  size : Nat
  deriving DecidableEq, Repr

/-- One register. -/
def reg1 (r : Reg) : Operand := ⟨r, 1⟩

/-- An even field naming a pair (R26). -/
def pair (r : Reg) : Operand := ⟨r, 2⟩

/-- A field that is a multiple of 4 and names a quad (R26). -/
def quad (r : Reg) : Operand := ⟨r, 4⟩

/-- R26: a pair operand is an even field, a quad operand a multiple of 4. -/
def Operand.aligned (o : Operand) : Bool := o.field.toNat % o.size == 0

/-- How many bytes a load or store size moves (R34). -/
def Size.bytes : Size → Nat
  | .w32 => 4
  | .w64 => 8
  | .w128 => 16

/-- The data operand of a load or store of this size: register, pair or quad. -/
def Size.operand (sz : Size) (d : Reg) : Operand := ⟨d, sz.bytes / 4⟩

/-- Bytes an LDGB moves. -/
def SubLoad.bytes : SubLoad → Nat
  | .zx8 | .sx8 => 1
  | .zx16 | .sx16 => 2

/-- Bytes an STGB moves. -/
def SubStore.bytes : SubStore → Nat
  | .b8 => 1
  | .b16 => 2

/-- Operand bytes of an ATOM or RED width (R35): all widths but 64-bit act on 4 bytes. -/
def AtomWidth.bytes : AtomWidth → Nat
  | .w64 => 8
  | _ => 4

/-- D of ATOM and RED (R35): CAS names expected and new value, side by side. -/
def atomD (op : AtomOp) (w : AtomWidth) (d : Reg) : Operand := ⟨d, (w.bytes / 4) * (if op = .cas then 2 else 1)⟩

/-- D of RATOM (12, RATOM operands). -/
def ratomD (op : RatomOp) (d : Reg) : Operand :=
  match op with
  | .cas | .fadd64 | .add64 => pair d
  | _ => reg1 d

/-- The FP64 and 64-bit integer fields of CVT (06, CVT). -/
def cvtOperands (c : CvtCode) (d a b : Reg) : List Operand :=
  match c with
  | .f16x2F32 | .bf16x2F32 => [reg1 d, reg1 a, reg1 b]
  | .f64F32 | .f64S32 | .f64U32 => [pair d, reg1 a]
  | .f32F64 | .s32F64 => [reg1 d, pair a]
  | .f64S64 | .s64F64 => [pair d, pair a]
  | .f32F16 | .f32Bf16 | .f32S32 | .f32U32 | .s32F32 | .u32F32 | .s32F32Rn => [reg1 d, reg1 a]

/-- Every register operand an instruction word reads or writes (R28). Steps of other agents name no register. -/
def operands : Instr → List Operand
  | .tlbi a b => [pair a, reg1 b]
  | .winr a | .jmpi a | .calli a | .heat a | .vtop a | .swr a => [reg1 a]
  | .ballot d _ _ => [pair d]
  | .xlane _ d a b | .spawn d a b => [reg1 d, reg1 a, reg1 b]
  | .cred _ d a | .fredx _ d a | .scanAdd d a | .scanAddi d a => [reg1 d, reg1 a]
  | .launch _ a b => [pair a, reg1 b]
  | .iadd d a b | .isub d a b | .imul d a b | .imulh d a b | .imulhu d a b | .imac d a b | .imin d a b | .imax d a b
  | .umin d a b | .umax d a b | .and d a b | .or d a b | .xor d a b | .andn d a b | .shl d a b | .shr d a b | .sar d a b
  | .rotl d a b | .bfx d a b | .bfxs d a b | .bfi d a b | .lea1 d a b | .lea2 d a b | .lea3 d a b => [reg1 d, reg1 a, reg1 b]
  | .mulw d a b => [pair d, reg1 a, reg1 b]
  | .add64 d a b | .sub64 d a b => [pair d, pair a, pair b]
  | .shl64 d a b | .shr64 d a b => [pair d, pair a, reg1 b]
  | .mov d a | .not d a | .ineg d a | .iabs d a | .clz d a | .popc d a | .brev d a => [reg1 d, reg1 a]
  | .ptov d | .srd d _ | .movk d _ | .movi d _ | .movhi d _ => [reg1 d]
  | .icmp _ _ _ a b | .fcmp _ _ _ _ a b => [reg1 a, reg1 b]
  | .sel _ _ d a b => [reg1 d, reg1 a, reg1 b]
  | .iaddi d a _ | .andi d a _ | .ori d a _ | .xori d a _ | .shli d a _ | .shri d a _ | .sari d a _ | .rotli d a _ => [reg1 d, reg1 a]
  | .icmpi _ _ a _ => [reg1 a]
  | .fadd _ _ d a b | .fsub _ _ d a b | .fmul _ _ d a b | .ffma _ _ d a b | .ffms _ _ d a b | .fmin _ _ d a b | .fmax _ _ d a b
  | .paddH _ _ d a b | .pmulH _ _ d a b | .pfmaH _ _ d a b | .paddB _ _ d a b | .pmulB _ _ d a b | .pfmaB _ _ d a b
  | .pmaxH _ _ d a b | .pmaxB _ _ d a b => [reg1 d, reg1 a, reg1 b]
  | .fabs d a | .fneg d a | .frcp _ _ d a | .frsq _ _ d a | .fsqrt _ _ d a | .fex2 _ _ d a | .flg2 _ _ d a | .ftanh _ _ d a
  | .frndNe _ _ d a | .frndZ _ _ d a | .frndDn _ _ d a | .frndUp _ _ d a | .fsin _ _ d a | .fcos _ _ d a => [reg1 d, reg1 a]
  | .dadd _ _ d a b | .dsub _ _ d a b | .dmul _ _ d a b | .dfma _ _ d a b | .dmin _ _ d a b | .dmax _ _ d a b => [pair d, pair a, pair b]
  | .dcmp _ _ _ _ a b => [pair a, pair b]
  | .cvt c d a b => cvtOperands c d a b
  | .pack8E4m3 d a b | .pack8E5m2 d a b => [reg1 d, pair a, pair b]
  | .unpk8E4m3 d a | .unpk8E5m2 d a => [quad d, reg1 a]
  | .pack4 d a b => [reg1 d, quad a, quad b]
  | .unpk4 d a b => [quad d, reg1 a, reg1 b]
  | .resenc d a | .resdec d a => [reg1 d, reg1 a]
  | .scale8 d a b => [pair d, reg1 a, reg1 b]
  | .ldg _ sz d a _ | .ldgn _ sz d a _ | .stg _ sz d a _ | .rst _ sz d a _ => [sz.operand d, pair a]
  | .ldgb _ _ d a _ | .stgb _ _ d a _ => [reg1 d, pair a]
  | .lds _ sz d a _ | .sts sz d a _ | .ldk _ sz d a _ => [sz.operand d, reg1 a]
  | .oclaim _ a b | .omove _ a b | .pref _ a b => [pair a, reg1 b]
  | .orels _ a => [pair a]
  | .hinit _ a b | .arriveRel _ _ a b | .arriveRlx _ a b | .expect _ a b => [reg1 a, reg1 b]
  | .waitp d a b => [reg1 d, reg1 a, reg1 b]
  | .htest d a => [pair d, reg1 a]
  | .qwait a b => [pair a, reg1 b]
  | .wake d a b => [reg1 d, pair a, reg1 b]
  | .atom op _ w d a | .red op w d a => [atomD op w d, pair a]
  | .ratom op _ _ d a => [ratomD op d, pair a]
  | .rcpy _ _ a b | .rmc _ _ a b | .rred _ _ a b | .cpy _ _ a b | .cpyg _ _ a b | .cpys _ _ a b | .cpyf _ _ a b | .accrd _ _ a b
  | .rgld _ _ a b | .segred _ _ a b | .segnorm _ _ a b | .segscan _ _ a b | .route _ _ a b | .rret _ _ a b => [reg1 a, reg1 b]
  | .drain _ _ a | .obres _ a | .obrel _ a | .accclr _ a | .mma _ a | .runbind _ a | .epdef _ a | .rasm _ a => [reg1 a]
  | .rbind _ a b => [pair a, reg1 b]
  | .walk a => [pair a]
  | .wnext d a => [reg1 d, pair a]
  | .wred a b | .wend a b => [pair a, reg1 b]
  | _ => []

/-- The pending set of a long-latency word (R32): the destination of a load or returning atomic, the registers a command engine reads. -/
def pendingOperands : Instr → List Operand
  | .ldg _ sz d _ _ | .ldgn _ sz d _ _ | .lds _ sz d _ _ | .ldk _ sz d _ _ => [sz.operand d]
  | .ldgb _ _ d _ _ => [reg1 d]
  | .atom op _ w d a => [pair a, atomD op w d]
  | .ratom op _ _ d a => [pair a, ratomD op d]
  | .launch _ a b | .oclaim _ a b | .omove _ a b | .pref _ a b | .rbind _ a b => [pair a, reg1 b]
  | .orels _ a => [pair a]
  | .hinit _ a b | .arriveRel _ _ a b | .arriveRlx _ a b | .expect _ a b => [reg1 a, reg1 b]
  | .rcpy _ _ a b | .rmc _ _ a b | .rred _ _ a b | .cpy _ _ a b | .cpyg _ _ a b | .cpys _ _ a b | .cpyf _ _ a b | .accrd _ _ a b
  | .rgld _ _ a b | .segred _ _ a b | .segnorm _ _ a b | .segscan _ _ a b | .route _ _ a b | .rret _ _ a b => [reg1 a, reg1 b]
  | .drain _ _ a | .obres _ a | .obrel _ a | .accclr _ a | .mma _ a | .runbind _ a | .epdef _ a | .rasm _ a => [reg1 a]
  | _ => []

/-- The lookahead count L of a word that carries one (R32); none for the other words. -/
def lookahead : Instr → Option (BitVec 4)
  | .ldg l _ _ _ _ | .ldgn l _ _ _ _ | .ldgb l _ _ _ _ | .lds l _ _ _ _ | .ldk l _ _ _ _ => some l
  | .launch l _ _ | .oclaim l _ _ | .omove l _ _ | .pref l _ _ | .rbind l _ _ | .orels l _ => some l
  | .hinit l _ _ | .arriveRel l _ _ _ | .arriveRlx l _ _ | .expect l _ _ => some l
  | .fenceAcq l _ | .fenceRel l _ | .fenceAr l _ => some l
  | .atom _ l _ _ _ | .ratom _ l _ _ _ => some l
  | .rcpy l _ _ _ | .rmc l _ _ _ | .rred l _ _ _ | .cpy l _ _ _ | .cpyg l _ _ _ | .cpys l _ _ _ | .cpyf l _ _ _ | .accrd l _ _ _
  | .rgld l _ _ _ | .segred l _ _ _ | .segnorm l _ _ _ | .segscan l _ _ _ | .route l _ _ _ | .rret l _ _ _ => some l
  | .drain l _ _ | .obres l _ | .obrel l _ | .accclr l _ | .mma l _ | .runbind l _ | .epdef l _ | .rasm l _ => some l
  | _ => none

/-- The channel a word names, when it names one (R29): the CH field, the Q field of RST, and the source channel of JOIN beside its target. -/
def channelsOf : Instr → List (BitVec 4)
  | .rst ch _ _ _ _ | .ratom _ _ ch _ _ => [ch]
  | .rcpy _ ch _ _ | .rmc _ ch _ _ | .rred _ ch _ _ | .cpy _ ch _ _ | .cpyg _ ch _ _ | .cpys _ ch _ _ | .cpyf _ ch _ _
  | .accrd _ ch _ _ | .rgld _ ch _ _ | .segred _ ch _ _ | .segnorm _ ch _ _ | .segscan _ ch _ _ | .route _ ch _ _ | .rret _ ch _ _ => [ch]
  | .drain _ ch _ => [ch]
  | .join t s => [t, s]
  | _ => []

/-- R36: the words that take PRIVILEGE at decode in a kernel whose system flag is clear. -/
def needsSystem (i : Instr) : Bool :=
  match i with
  | .tlbi _ _ => true
  | i => (channelsOf i).any (fun c => c.toNat ≥ 14)

/-- R35: the pairings of operation and width that ATOM accepts. -/
def atomPairing (op : AtomOp) (w : AtomWidth) : Bool :=
  match op, w with
  | .fadd, _ => true
  | .fmin, .w32 | .fmax, .w32 => true
  | .fmin, _ | .fmax, _ => false
  | _, .w32 | _, .w64 => true
  | _, _ => false

/-- R34: RED has no XCHG and no CAS. -/
def redOp (op : AtomOp) : Bool := op != .xchg && op != .cas

end Sys2Proof
end

