-- ==== Sys2Proof/Machine/State.lean ====
section
/-! DEFINITION. What the device holds: every piece of state the spec names, as plain data, and the state right after reset. -/

namespace Sys2Proof.Machine

/-! ## Stops of the model itself -/

/-- Why the model stops. -/
inductive Fault where
  /-- Raised by step when a gang was picked and its threads, their team or their code object are gone: a state no device has. Safe. -/
  | gangWithoutCode
  deriving DecidableEq, Repr

/-- Why the model gives no next state. -/
inductive Refusal where
  /-- Raised by exec for an instruction with no meaning yet; named by its mnemonic. Safe. -/
  | notModelled (mnemonic : String)
  deriving DecidableEq, Repr

/-! ## Causes (R277) -/

/-- The causes 0x01 to 0x1C in order. -/
inductive Cause where
  | illegalEncoding | privilege | registerRange | lookaheadViolation | alignment | notPresent | permission | ownedElsewhere
  | rangeLock | scopeNotMember | atomType | waitTimeout | collectiveMismatch | hurdleError | userTrap | breakpoint
  | mmaParam | raggedCross | raggedSlot | walkReduction | channelBroken | remoteViolation | multicastMask | launchDepth
  | obufOverlap | relayParam | doubleFault | operandFetch
  deriving DecidableEq, Repr

/-- A failed check: the cause, the value for sr.taddr, for NOT_PRESENT the record's Kind and Level (R277, R280, R331), and whether the tables were walked to addr. -/
structure Fail where
  cause : Cause
  addr : Nat := 0
  kind : Nat := 0
  level : Nat := 0
  walked : Bool := false
  deriving DecidableEq, Repr

/-! ## Threads (R80) -/

/-- An open lookahead window (R32): the operation whose return clears its pending set (awaits), how many more instructions may issue,
and the physical registers of the set. -/
structure Window where
  op : Nat
  left : Nat
  regs : List Nat
  awaits : Bool
  deriving DecidableEq, Repr

/-- Trap mode: the trap registers and what trap entry saved (R281). tinfo is bit 0 of sr.tinfo. -/
structure TrapState where
  cause : Nat
  tpc : Nat
  taddr : Nat
  tinfo : Bool
  wbase : Nat
  depth : Nat
  gval : Bool
  gcnt : Nat
  deriving DecidableEq, Repr

/-- How a precise stop stands (R89): every check passed; a check failed; the word waits for room, for a release or for earlier accesses and
is looked at again (mark: the operations numbered below it were issued before; due: a cause that it takes whatever its own checks still say); its request is on its way to the serving unit that finishes it. -/
inductive StopState where
  | pass
  | fail (f : Fail)
  | again (i : Instr) (mark : Nat) (due : Option Fail)
  | home
  deriving DecidableEq, Repr

/-- Where a thread stands between two of its words. -/
inductive TStatus where
  /-- can issue when its windows allow -/
  | ready
  /-- suspended for checks (R89) -/
  | stopped (st : StopState)
  /-- EXIT, WAITP, QWAIT, TRET wait for the open pending sets (R33) -/
  | draining (i : Instr)
  /-- in WAITP (R209): hurdle offset, phase awaited, destination register, die and deadline of the timeout -/
  | waitHurdle (off phase : Nat) (d : Reg) (deadline : Option Nat)
  /-- in QWAIT (R215): node place -/
  | waitQueue (node : Nat)
  /-- the result of HTEST, WAKE or WNEXT is awaited by interlock -/
  | interlock
  /-- a cause is taken and trap entry is to come (R279, R281) -/
  | trapWait (f : Fail)
  /-- joined to a fault record (R280), with the thread's own faulting address -/
  | faulted (seq addr : Nat)
  | exited
  deriving DecidableEq, Repr

/-- A thread (R80). taken: the cause it met in the step under way, delivered before the step ends; regs holds the allocation; lost: the stall reason, 8 or 9,
with which it lost the cycle under way, else 0 (R296); stack: the return stack, its top four entries on chip (R82); port: the issue port of its last issue; born: when the cycle its cohort started in began,
on the one scale of State.cycleBegan (R84); slot: the batch
and the lane of the word it waits at (R221); pressed: it waits there for a channel entry or replay room (R296); block: the parameter block that its MMA of a batch
has copied and that waits for room (R153). -/
structure Thread where
  ref : TRef
  pc : Nat
  regs : List W32
  preds : BitVec 7
  wbase : Nat
  stack : List (Nat × Nat)
  gval : Bool
  gcnt : Nat
  trap : Option TrapState
  windows : List Window
  status : TStatus
  taken : Option Fail
  latch : W32
  lastIssue : Option Nat
  port : Nat
  starve : Nat
  lost : Nat
  born : Nat
  slot : Nat × Nat
  pressed : Bool := false
  block : Option (Nat × List Byte) := none
  deriving DecidableEq, Repr

/-! ## Teams, heats, grids (03, 04) -/

/-- The counters of a block record (R295). -/
structure BlockCount where
  firstCore : Nat
  evictions : Nat
  resident : Nat
  issue : Nat
  words : Nat
  firstClock : Nat
  stalls : List Nat
  issued : Bool
  deriving DecidableEq, Repr

/-- What a kill record names beside its team (R284): cause, cause met in trap mode, sr.tid, PC, sr.taddr, passes. -/
structure KillInfo where
  cause : Nat
  met : Nat := 0
  tid : Nat := 0xFFFFFFFF
  pc : Nat := 0
  taddr : Nat := 0
  passes : Nat := 0xFFFFFFFF
  deriving DecidableEq, Repr

/-- A placed team. core: where it resides, none while evicted; lastCore, scratch: where it is or was last; held: its scratch range stays on that
core while evicted (R70, R204); saved: the scratch image in the save area (R286); killed: the cause code of its kill (R282); dying: a thread took a killing
cause in the cycle under way of its die, and of several the one of lowest sr.tid (R279): the kill takes effect as that cycle ends;
relaunch: its index is placed afresh (R283). -/
structure Team where
  grid : Nat
  idx : Nat
  core : Option Nat
  lastCore : Nat
  scratch : Nat
  held : Bool
  saved : List Host.Cell
  localSlot : Nat
  rstackSlot : Nat
  attempt : Nat
  lastCause : Nat
  heatTimer : Nat
  cursor : Nat
  cohorts : List Nat
  homeDie : Nat
  waitDie : Nat
  count : BlockCount
  killed : Option Nat
  dying : Option KillInfo
  relaunch : Bool
  carve : Nat
  deriving DecidableEq, Repr

/-- An open heat (R77). -/
structure Heat where
  core : Nat
  grid : Nat
  team : Nat
  entry : Nat
  base : Nat
  args : List W32
  deadline : Nat
  deriving DecidableEq, Repr

/-- A kernel of a code object (R42). -/
structure Kernel where
  entry : Nat
  trap : Option Nat
  teamSize : Nat
  alloc : Nat
  scratch : Nat
  carve : Nat
  system : Bool
  restartable : Bool
  params : Nat
  deriving DecidableEq, Repr

/-- A loaded code object (R42, R46): its context, code section, constant image, kernels. -/
structure Code where
  id : Nat
  asid : Nat
  words : List W32
  konst : List Byte
  kernels : List Kernel
  deriving DecidableEq, Repr

/-- Who hears of a grid's end: a parent's hurdle (grid, team, offset), a ring entry (queue, entry number), a graph node (instance, node). -/
inductive GridEnd where
  | none
  | hurdle (grid team off : Nat)
  | ring (q entry : Nat)
  | node (inst node : Nat)
  deriving DecidableEq, Repr

/-- The fields of a grid descriptor that are kept (R49, R52). -/
structure GridDesc where
  code : Nat
  kernel : Nat
  teams : Nat
  spawn : Nat
  coResident : Bool
  mask : Option (List Nat)
  carve : Nat
  attempts : Nat
  scopes : List (Option (List Nat))
  blockBuf : Nat
  blockCap : Nat
  corr : W64
  deriving DecidableEq, Repr

/-- A range of team indices not placed yet, first and count, held by a cluster distributor (R67). -/
structure Unplaced where
  cluster : Nat
  first : Nat
  count : Nat
  deriving DecidableEq, Repr

/-- A team index that waits for a new attempt (R283). home: its channel home (R259); place: a co-resident team keeps core, scratch, slots (R70). -/
structure Again where
  idx : Nat
  attempt : Nat
  lastCause : Nat
  home : Nat
  place : Option Team
  deriving DecidableEq, Repr

/-- A live grid (R63). queued: it waits in the launch queue or at the chip distributor for a grid slot; descVa: where its descriptor's launch status stands,
none for a node grid (R50). -/
structure Grid where
  id : Nat
  asid : Nat
  system : Bool
  desc : GridDesc
  descVa : Option Nat
  params : List Byte
  depth : Nat
  parent : Option (Nat × Nat)
  prio : Nat
  queued : Bool
  unplaced : List Unplaced
  again : List Again
  dead : List Nat
  retired : Nat
  onEnd : GridEnd
  debug : Bool
  records : Nat
  discarded : Nat
  deriving DecidableEq, Repr

/-! ## Memory (07) -/

/-- One line of a cache (R113, R116): owner is the core (L1) or the die (remote-data cache); line is place / 128, home its home die; asid and va: the context
and the virtual address of its first byte under which it was filled. -/
structure Line where
  owner : Nat
  line : Nat
  home : Nat
  asid : Nat
  va : Nat
  data : List Byte
  deriving DecidableEq, Repr

/-- A store on its way to its home (R113, R116, R226): the thread that made it, the place, the bytes; chan: the channel it travels on, none for a home on
the issuing die; explicit: it is an RST, which no release waits for (R247); seen: other threads of the core that have read it from the write-through buffer,
which go past an acquire, block or move to another core only once the home has it (R230, R242, R246); skip: its bytes that its team owns, which stay with the
core and do not travel (R122). -/
structure WriteThrough where
  op : Nat
  core : Nat
  thread : TRef
  place : Nat
  bytes : List Byte
  chan : Option Nat
  explicit : Bool
  seen : List TRef
  skip : List Nat := []
  deriving DecidableEq, Repr

/-- A fence that has passed its stop and is not performed yet (R247): later words that R227 orders after it wait. -/
structure FenceRec where
  op : Nat
  thread : TRef
  acq : Bool
  rel : Bool
  scope : Scope
  deriving DecidableEq, Repr

/-- A 128-byte line of a team's scratch, counted from the start of the scratch (R114): it keeps its presence bit wherever the scratch stands (R286). -/
structure ScratchLine where
  grid : Nat
  team : Nat
  line : Nat
  deriving DecidableEq, Repr

/-- A dirty byte of an interval its core holds writable (R122). -/
structure Dirty where
  core : Nat
  asid : Nat
  va : Nat
  place : Nat
  byte : Byte
  deriving DecidableEq, Repr

/-- An interval (R121). core is none while suspended (R127). -/
structure Interval where
  asid : Nat
  base : Nat
  len : Nat
  writable : Bool
  grid : Nat
  team : Nat
  core : Option Nat
  home : Nat
  deriving DecidableEq, Repr

/-- The space a range lock lies in (R130): virtual addresses of a context (scratch at its aperture address), a cluster's operand buffer, its B store. -/
inductive Space where
  | global (asid : Nat)
  | obuf (cluster : Nat)
  | bstore (cluster : Nat)
  deriving DecidableEq, Repr

/-- A range lock (R130), made by operation op and entered in a cluster's table. slices: how many column slices of the B store hold the range, one after another
(R153). -/
structure Lock where
  op : Nat
  cluster : Nat
  write : Bool
  space : Space
  lo : Nat
  hi : Nat
  slices : Nat := 1
  deriving DecidableEq, Repr

/-- How a load widens its bytes (R119). -/
inductive Widen where
  | plain
  | zero
  | sign
  deriving DecidableEq, Repr

/-- Where a load reads: scratch (parks on absent lines), constants, or the levels of R119; fresh: LDGN. -/
inductive LoadFrom where
  | scratch
  | konst
  | memory (fresh : Bool)
  deriving DecidableEq, Repr

/-- A load in flight (R119): value is the bytes once they are read; remote: it is homed elsewhere (R118); highFirst: a 16-byte load reads its high half
first (R226). -/
structure Load where
  op : Nat
  thread : TRef
  source : LoadFrom
  place : Nat
  va : Nat
  size : Nat
  widen : Widen
  d : Reg
  wbase : Nat
  remote : Bool
  home : Nat
  highFirst : Bool
  value : Option (List Byte)
  deriving DecidableEq, Repr

/-- What a serving unit is asked (R218, R215, R216, R181). -/
inductive Request where
  | atom (r : AtomReq)
  | link (node : Nat) (nodeVa : Nat)
  | wake (k : Nat)
  | unlink (node : Nat)
  | walk (w : WalkReq)
  deriving DecidableEq, Repr

/-- A request at or on its way to its serving unit: the batch it belongs to, its lane, the place and the virtual address it names and the die of its unit,
where an old value goes, whether it is a returning one, the channel it travels on and whether it has been given to it, explicit: it is a RATOM, arrival: at
issue it named a hurdle that takes it (R224), whether its unit has performed it, and the old value once it has come back. -/
structure AtomOpRec where
  op : Nat
  batch : Nat
  lane : Nat
  thread : TRef
  place : Nat
  va : Nat
  dst : DieId
  req : Request
  returns : Bool
  d : Reg
  wbase : Nat
  chan : Option Nat
  sent : Bool
  explicit : Bool
  arrival : Bool
  performed : Bool
  answer : Option W64
  deriving DecidableEq, Repr

/-- A cached leaf translation (R290); unit is the core or the cluster. -/
structure TlbEntry where
  unit : Nat
  asid : Nat
  base : Nat
  size : Nat
  pte : W64
  deriving DecidableEq, Repr

/-- A cached pointer to a level-4 table in a die's walker cache (R290). -/
structure WalkCached where
  die : Nat
  asid : Nat
  top : Nat
  table : Nat
  deriving DecidableEq, Repr

/-! ## Hurdles (10) -/

/-- The scopes a hurdle collected in one phase, and the channels whose arrivals it took (R202, R211). -/
structure ScopeSet where
  scopes : List Scope
  channels : List ChanKey
  deriving DecidableEq, Repr

/-- The tag of a hurdle (R202): its team and offset, the set of the phase under way, the sets of completed phases by PHASE before completion. -/
structure HurdleTag where
  grid : Nat
  team : Nat
  off : Nat
  now : ScopeSet
  past : List (Nat × ScopeSet)
  deriving DecidableEq, Repr

/-! ## Engines (07, 08, 09) -/

/-- A reservation (R144 to R147). releasing: OBREL issued, operations still run. -/
structure Reservation where
  cluster : Nat
  handle : Nat
  grid : Nat
  team : Nat
  space : Nat
  base : Nat
  len : Nat
  stride : Nat
  format : Nat
  block : Nat
  sstride : Nat
  scaleOff : Option Nat
  oidxOff : Option Nat
  ovalOff : Option Nat
  ovalCount : Nat
  releasing : Bool
  deriving DecidableEq, Repr

/-- The kinds of a tile (R149). -/
inductive TileKind where
  | cleared | fp32 | int32 | res16 | fp64
  deriving DecidableEq, Repr

/-- The snapshot of a shape record (R167, R168). bound: the read lock of the binding it was taken for; boff, poff: where its tables stand in the record. -/
structure Shape where
  bound : Nat
  rank : Nat
  format : Nat
  heads : Nat
  t : Nat
  width : Nat
  rstride : Nat
  hstride : Nat
  s : Nat
  dataVa : Nat
  recordVa : Nat
  extent : Nat
  boff : Nat
  poff : Nat
  bounds : List Nat
  posBase : List Nat
  deriving DecidableEq, Repr

/-- A bound ragged slot (R169). core is where it is bound, none while its team is evicted; lock is the operation number of its read lock; closing: RUNBIND
waits for the operations that name it. -/
structure RaggedSlot where
  core : Option Nat
  slot : Nat
  grid : Nat
  team : Nat
  va : Nat
  lock : Nat
  shape : Shape
  closing : Bool
  deriving DecidableEq, Repr

/-- A place of bytes an engine reads or writes: an address of a context, a scratch offset of its team, a buffer offset of its cluster. -/
inductive Side where
  | none
  | global (va : Nat)
  | scratch (off : Nat)
  | obuf (off : Nat)
  | bstore (off : Nat)
  | fabric (va : Nat)
  deriving DecidableEq, Repr

/-- What a row of an engine operation is made of. -/
inductive EngineKind where
  | cpy
  | cpyg (idx limit : Nat)
  | cpys (idx limit : Nat)
  | cpyf (pattern : W32)
  | rcpy
  | rmc (slots : List (DieId × Nat)) (doff : Nat)
  | accrd (tile mode shift row0 col0 cols : Nat) (scale : W32) (expect : TileKind)
  | accclr (tile : Nat)
  | rgld (shape : Shape) (row0 head col0 cols : Nat) (tags : Option Nat)
  | segred (shape : Shape) (op first count col0 cols head : Nat) (flags : Option Nat)
  | segscan (shape : Shape) (inclusive : Bool) (first count col0 cols head : Nat)
  | segnorm (row col : Option Shape) (mode rowOrg colOrg cols : Nat) (scale : W32)
  | rred (c : Contribution)
  | route (src sstride rtab rows rowBytes k table fullMode core : Nat) (epoch : BitVec 16)
  deriving DecidableEq, Repr

/-- One piece of a row: asked for at a remote source, sent to its home on a channel, or landed. -/
structure Piece where
  row : Nat
  lo : Nat
  len : Nat
  sent : Bool
  landed : Bool
  deriving DecidableEq, Repr

/-- An engine operation in progress (R128 to R132, R175). rows, rowBytes, sstride, dstride: its shape; idx: an index already read for a row; frow:
the first row not fully landed; pieces: what stands of the rows from frow on; landed: bytes written; started: it left the queue (ENGINE_OP_START); tid: the
thread that issued it; cleared: the scratch lines whose presence bits it has cleared and not set (R114); asks: pieces (row, first byte) that await answers of other
dies, and how many (R175). -/
structure EngineOp where
  op : Nat
  kind : EngineKind
  grid : Nat
  team : Nat
  cluster : Nat
  core : Nat
  asid : Nat
  system : Bool
  ch : Nat
  ord : Nat
  src : Side
  dst : Side
  rows : Nat
  rowBytes : Nat
  sstride : Nat
  dstride : Nat
  prog : Option Nat
  hurdle : Option Nat
  started : Bool
  idx : List (Nat × Nat)
  frow : Nat
  pieces : List Piece
  landed : Nat
  homes : List Nat
  stopped : Option (Nat × Nat)
  tid : Nat := 0
  cleared : List ScratchLine := []
  asks : List (Nat × Nat × Nat) := []
  deriving DecidableEq, Repr

/-- A registered MMA (R150, R153, R154): the parameter block's values, the passes done, the partial results (tile word index, value), and when it was
registered or last granted. -/
structure MmaReq where
  op : Nat
  cluster : Nat
  grid : Nat
  team : Nat
  asid : Nat
  system : Bool
  a : Reservation
  b : Reservation
  tile : Nat
  acc : Bool
  aFmt : Nat
  bFmt : Nat
  m : Nat
  n : Nat
  k : Nat
  aRow0 : Nat
  ak0 : Nat
  bk0 : Nat
  block : Nat
  fi : Bool
  fo : Bool
  bop : Bool
  maskMode : Nat
  prio : Nat
  rowShape : Option Shape
  colShape : Option Shape
  rowOrg : Nat
  colOrg : Nat
  maskVal : W32
  hurdle : Option Nat
  begun : Bool
  kDone : Nat
  passes : Nat
  running : Option Nat
  partials : List (Nat × Option W64)
  since : Nat
  tid : Nat := 0
  deriving DecidableEq, Repr

/-- An active walk in its home die's walker unit (R181, R186). -/
structure Walk where
  place : Nat
  die : Nat
  given : List Nat
  ends : Nat
  hurdles : List (Nat × Nat × Nat)
  deriving DecidableEq, Repr

/-- An endpoint (R188, R189). core is none while AWAY; empty: slots not holding a row; spilled: rows in the spill region; seq: the last delivery number;
freeing: slots given back by RRET that wait for earlier loads of its thread (R197). -/
structure Endpoint where
  asid : Nat
  id : Nat
  grid : Nat
  team : Nat
  core : Nat
  away : Bool
  recordOff : Nat
  inbox : Nat
  cap : Nat
  rowBytes : Nat
  hurdle : Nat
  spill : Nat
  spillCap : Nat
  fallback : W32
  full : List Nat
  spillRoom : Nat
  spilled : Nat
  seq : Nat
  freeing : List (Nat × TRef × List Nat)
  deriving DecidableEq, Repr

/-- How one routing slot of a reassembly table stands (R194, R197, R199). -/
inductive SlotState where
  | waiting | skipped | returned | dropped | timedOut
  deriving DecidableEq, Repr

/-- A reassembly table of a core's Relay unit (R191, R192). held: from RASM to completion; history: which team made the
arming of an epoch (grid, index), for the counting of late returns (R197). -/
structure Reassembly where
  core : Nat
  table : Nat
  epoch : BitVec 16
  held : Bool
  counting : Bool
  grid : Nat
  team : Nat
  asid : Nat
  system : Bool
  lock : Nat
  out : Side
  ostride : Nat
  format : Nat
  k : Nat
  rows : Nat
  elems : Nat
  slotBuf : Nat
  hurdle : Nat
  timeout : Nat
  stats : Nat
  routed : Bool
  deadline : Option Nat
  weights : List W32
  slots : List SlotState
  written : List Bool
  late : Nat
  timeouts : Nat
  drops : Nat
  wfaults : Nat
  history : List (BitVec 16 × Nat × Nat)
  deriving DecidableEq, Repr

/-! ## Channels (12) -/

/-- A JOIN on a channel (R269): its operations from number at on wait for the operations of channel src below upto. -/
structure JoinRec where
  at_ : Nat
  src : Nat
  upto : Nat
  deriving DecidableEq, Repr

/-- A channel's source side (R255, R259, R264, R274): epoch, next operation number, joins, violation record. -/
structure Chan where
  key : ChanKey
  epoch : BitVec 8
  nextOrd : Nat
  joins : List JoinRec
  violation : Option Nat
  deriving DecidableEq, Repr

/-- States of a destination entry (R263). -/
inductive EntryState where
  | idle | active | resync | broken
  deriving DecidableEq, Repr

/-- A destination entry at the source (R260, R263): next sequence number, packets waiting to be sent with their operation's place in issue order, packets
sent and not acknowledged with the die cycle of their sending, how many SYNC-REQs went out, and the die cycle of the last progress. -/
structure SrcEntry where
  key : ChanKey
  dst : DieId
  state : EntryState
  nextSeq : BitVec 32
  waiting : List (Nat × Packet)
  replay : List (Nat × Packet)
  syncs : Nat
  since : Nat
  nacked : List (BitVec 32 × Nat)
  deriving DecidableEq, Repr

/-- A channel's entry at a destination die of this device (R261, R264): dies 0 to 3, or 4 and 5 for the switch dies (R267). ports: the ingress port in whose
buffer a held packet of a sequence number stands. -/
structure DstEntry where
  key : ChanKey
  srcDev : Nat
  die : Nat
  epoch : BitVec 8
  expected : BitVec 32
  held : List Packet
  ports : List (BitVec 32 × Nat)
  owesAck : Bool
  deriving DecidableEq, Repr

/-- What becomes of an operation on a channel (R262): packets still to be covered, whether returned data are awaited, what went wrong. -/
structure ChanOp where
  op : Nat
  key : ChanKey
  ord : Nat
  left : Nat
  awaits : Bool
  refused : Bool
  broken : Bool
  late : Bool
  reported : Bool
  deriving DecidableEq, Repr

/-- A pending DRAIN (R270). -/
structure DrainRec where
  key : ChanKey
  ord : Nat
  grid : Nat
  team : Nat
  hurdle : Nat
  deriving DecidableEq, Repr

/-- A reduction slot of a switch die, or the mark of an expired one (R267). members: the teams of this device that have contributed; closing: the result is
being written to the contributors. -/
structure RredSlot where
  switch : Nat
  asid : Nat
  coll : W32
  gen : W32
  ncon : Nat
  rop : Nat
  elems : Nat
  partialSum : List Byte
  got : List Contribution
  members : List (Nat × Nat)
  deadline : Nat
  expired : Bool
  closing : Bool
  deriving DecidableEq, Repr

/-- A registered region (R269). -/
structure Region where
  asid : Nat
  die : Nat
  number : Nat
  system : Bool
  base : Nat
  len : Nat
  accepted : Nat
  devmask : W64
  read : Bool
  write : Bool
  atomic : Bool
  active : Bool
  deriving DecidableEq, Repr

/-- A die-map slot of a context (R266). -/
structure DieMapSlot where
  asid : Nat
  slot : Nat
  at_ : DieId
  base : Nat
  deriving DecidableEq, Repr

/-! ## Host side (03, 12, 13) -/

/-- A host queue (R44 to R46). -/
structure HostQueue where
  base : W64 := 0
  size : W32 := 0
  prio : W32 := 0
  tail : W32 := 0
  head : W32 := 0
  status : W32 := 0
  asid : Option Nat := none
  system : Bool := false
  taken : Nat := 0
  pending : List (Nat × List Byte) := []
  deriving DecidableEq, Repr

/-- A started RMA entry: its operation, direction, where its bytes stand in the queue's context and at the other device, and whether it broke (R273). -/
structure RmaEntry where
  op : Nat
  get : Bool
  here : Nat
  there : Nat
  broken : Bool
  deriving DecidableEq, Repr

/-- An RMA queue (R272). inFlight: entries started and not complete, oldest first; waits: the queue and count a WAIT at HEAD waits for. -/
structure RmaQueue where
  base : W64 := 0
  size : W32 := 0
  tail : W32 := 0
  head : W32 := 0
  status : W32 := 0
  completed : W64 := 0
  faddr : W64 := 0
  asid : Option Nat := none
  system : Bool := false
  inFlight : List RmaEntry := []
  waits : Option (Nat × W64) := none
  deriving DecidableEq, Repr

/-- A queue the device fills (R291). held: records that wait for room. -/
structure OutQueue where
  base : W64 := 0
  size : W32 := 0
  write : W32 := 0
  read : W32 := 0
  discards : W32 := 0
  held : List (List Byte) := []
  deriving DecidableEq, Repr

/-- A context's settings (R289, R111, R285). -/
structure Context where
  asid : Nat
  root : Option Nat
  window : Option (Nat × Nat × Nat)
  save : Option (Nat × Nat)
  deriving DecidableEq, Repr

/-- A fault record not answered yet (R280). posted: it stands in the fault queue. -/
structure FaultRec where
  seq : Nat
  grid : Nat
  team : Nat
  asid : Nat
  addr : Nat
  kind : Nat
  level : Nat
  pc : Nat
  joined : Nat
  posted : Bool
  deriving DecidableEq, Repr

/-- An uploaded graph (R53 to R56). -/
structure Graph where
  id : Nat
  asid : Nat
  system : Bool
  bytes : List Byte
  instances : Nat
  outstanding : Nat
  deriving DecidableEq, Repr

/-- How a node of an instance stands. -/
inductive NodeState where
  | waiting | running (grid : Nat) | ended
  deriving DecidableEq, Repr

/-- A graph instance (R56 to R60): cleaned edges, nodes, failed nodes. -/
structure GraphInst where
  uid : Nat
  graph : Nat
  number : Nat
  asid : Nat
  system : Bool
  prio : Nat
  patches : List W64
  started : Bool
  nodes : List NodeState
  edges : List Bool
  failed : List Nat
  deriving DecidableEq, Repr

/-- Trace settings of a die (R297). sampledAt, sampledOf: the cycle of the last samples and the cores and partitions that have written theirs in it (R298);
powerAt: the tick of the die's timer of the last power record (R300). -/
structure TraceRing where
  die : Nat
  base : Nat
  size : Nat
  period : Nat
  samples : Bool
  events : Bool
  power : Bool
  write : W32
  lost : W64
  overflow : Bool
  sampledAt : Nat := 0
  sampledOf : List (Nat × Nat) := []
  powerAt : Nat := 0
  deriving DecidableEq, Repr

/-! ## Bring-up (01) -/

/-- How an instance of a step runs at this start (R14, R16). -/
inductive Plan where
  | normal
  | alternate
  deriving DecidableEq, Repr

/-- One entry of the bring-up record (R15). step and inst never change; status 0 NOT_RUN, 1 PASSED, 2 PASSED_ALT, 3 FAILED, 4 SKIPPED, 5 RUNNING. -/
structure BringupEntry where
  step : Nat
  inst : Nat
  attempts : Nat
  status : Nat
  altUsed : Bool
  detail : Nat
  deriving DecidableEq, Repr

/-- What serves (R12, R18). -/
inductive Service where
  | off | starting | recovery | reduced | full
  deriving DecidableEq, Repr

/-- Start sequence, power and mailbox state (R10 to R23). plan: how each entry runs at this start, none once it has ended; clearNext: CLEAR_BRINGUP or a
new image resets the record at the next start (R16). -/
structure Boot where
  preferB : Bool
  clearNext : Bool
  entries : List BringupEntry
  plan : List (Option Plan)
  service : Service
  slotA : Option Image
  slotB : Option Image
  runningB : Bool
  link : Option (Nat × Nat)
  clock : Nat
  idleCycles : Bool
  fwDigest : BitVec 256
  device : Nat
  devices : Nat
  reply : List Byte
  deriving DecidableEq, Repr

/-- An occurrence to come: a step of the machine, the numbers of the units it concerns, and after: how many words and Starter choices come first. -/
structure Occurrence where
  what : Instr
  subject : List Nat
  after : Nat := 0
  deriving DecidableEq, Repr

/-- The state of the device. -/
structure State where
  -- the model's own fields: what happens when (log 4)
  agenda : List Occurrence
  subject : List Nat
  issueQ : List (List TRef)
  gang : List TRef
  turn : Nat
  turnDie : Nat
  nextOp : Nat
  draw : Nat
  -- start, power, mailbox (01)
  boot : Boot
  -- clocks (R3, R300): the package's own time, each die's cycle counter, when each die's cycle under way began as the sum
  -- of all four counters, the ticks of each die's 100 MHz timer
  cycle : Nat
  dieClock : List Nat
  cycleBegan : List Nat
  refTimer : List Nat
  -- host interface (03, 12, 13)
  queues : List HostQueue
  rmas : List RmaQueue
  priv : HostQueue
  faultQ : OutQueue
  killQ : OutQueue
  eventQ : OutQueue
  violQ : List (List Byte)
  violLost : W32
  contexts : List Context
  dieMap : List DieMapSlot
  regions : List Region
  rstackArea : Option (Nat × Nat)
  trace : List TraceRing
  faultRecs : List FaultRec
  faultSeq : Nat
  -- work (03, 04)
  codes : List Code
  graphs : List Graph
  insts : List GraphInst
  nextInst : Nat
  grids : List Grid
  nextGrid : Nat
  teams : List Team
  heats : List Heat
  carve : List (Nat × Nat)
  threads : List Thread
  -- memory (07)
  mem : List Host.Cell
  absent : List ScratchLine
  l1 : List Line
  rdc : List Line
  wtb : List WriteThrough
  fences : List FenceRec
  dirty : List Dirty
  intervals : List Interval
  locks : List Lock
  tlb : List TlbEntry
  tlb2 : List TlbEntry
  walkCache : List WalkCached
  atc : List (Nat × Nat)
  hostMap : List (Nat × Option Nat)
  loads : List Load
  atoms : List AtomOpRec
  hurdles : List HurdleTag
  -- engines (07, 08, 09)
  engines : List EngineOp
  reservations : List Reservation
  tiles : List (Nat × TileKind)
  mmas : List MmaReq
  ragged : List RaggedSlot
  walks : List Walk
  endpoints : List Endpoint
  tables : List Reassembly
  rowsIn : List RelayRow
  noticesIn : List RelayReturn
  returnsIn : List RelayReturn
  -- channels (12)
  chans : List Chan
  srcEntries : List SrcEntry
  dstEntries : List DstEntry
  chanOps : List ChanOp
  drains : List DrainRec
  net : List Packet
  unreachable : List DieId
  portsDown : List Nat
  contribs : List (Nat × Contribution)   -- with the cycle since which it waits at its switch die; 0 on its way
  rred : List RredSlot
  deriving DecidableEq, Repr

/-! ## Right after reset -/

/-- The entries of one step, all NOT_RUN: DESIGN CHOICE (log 2), the record is kept over resets and its first contents are not given. -/
def freshEntries (step n : Nat) : List BringupEntry :=
  (List.range n).map fun i => { step := step, inst := i, attempts := 0, status := 0, altUsed := false, detail := 0 }

/-- The bring-up record's 92 entries in step-code order and then instance order (R14, R15). -/
def freshRecord : List BringupEntry :=
  freshEntries 1 1 ++ freshEntries 2 1 ++ freshEntries 3 1 ++ freshEntries 4 2 ++ freshEntries 5 8 ++ freshEntries 6 4 ++ freshEntries 7 48
    ++ freshEntries 8 1 ++ freshEntries 9 24 ++ freshEntries 10 1 ++ freshEntries 11 1

/-- Start and power state before the start sequence begins (R10, R15, R16; log 2). -/
def Boot.reset : Boot :=
  { preferB := false, clearNext := false, entries := freshRecord, plan := [], service := .off, slotA := none, slotB := none, runningB := false, link := none,
    clock := 1200, idleCycles := false, fwDigest := 0, device := 0, devices := 1, reply := [] }

/-- The device right after reset: every register at the value its rule gives, or, where the spec gives none, at the value log 2 names; no work,
nothing in any memory, table, cache or queue. -/
def State.reset : State :=
  { agenda := [], subject := [], issueQ := [], gang := [], turn := 0, turnDie := 0, nextOp := 1, draw := 0, boot := Boot.reset, cycle := 0,
    dieClock := [0, 0, 0, 0], cycleBegan := [0, 0, 0, 0], refTimer := [0, 0, 0, 0], queues := List.replicate 64 {}, rmas := List.replicate 16 {}, priv := {}, faultQ := {}, killQ := {}, eventQ := {},
    violQ := [], violLost := 0, contexts := [], dieMap := [], regions := [], rstackArea := none, trace := [], faultRecs := [], faultSeq := 0,
    codes := [], graphs := [], insts := [], nextInst := 1, grids := [], nextGrid := 1, teams := [], heats := [], carve := [], threads := [],
    mem := [], absent := [], l1 := [], rdc := [], wtb := [], fences := [], dirty := [], intervals := [], locks := [], tlb := [], tlb2 := [], walkCache := [],
    atc := [], hostMap := [], loads := [], atoms := [], hurdles := [], engines := [], reservations := [], tiles := [], mmas := [], ragged := [],
    walks := [], endpoints := [], tables := [], rowsIn := [], noticesIn := [], returnsIn := [], chans := [], srcEntries := [], dstEntries := [],
    chanOps := [], drains := [], net := [], unreachable := [], portsDown := [], contribs := [], rred := [] }

end Sys2Proof.Machine
end

