-- ==== Sys2Proof/Machine/Base.lean ====
section
/-! DEFINITION. The groundwork of the operations: bytes and little-endian numbers (R2), the one memory list and its two operations, registers
(R27 to R29), and how threads, teams, grids and code are found. -/

namespace Sys2Proof.Machine

/-! ## Bytes and numbers (R2) -/

/-- The number a little-endian byte list holds. -/
def leNat : List Byte → Nat
  | [] => 0
  | b :: bs => b.toNat + 256 * leNat bs

/-- n in k bytes, little-endian; higher bits are cut. -/
def leBytes (n : Nat) : Nat → List Byte
  | 0 => []
  | k + 1 => BitVec.ofNat 8 n :: leBytes (n / 256) k

/-- The little-endian field of n bytes at an offset of a byte list; bytes beyond its end read 0. -/
def fld (bs : List Byte) (off n : Nat) : Nat := leNat ((bs.drop off).take n)

/-- All the bytes of a field are zero. -/
def zeroField (bs : List Byte) (off n : Nat) : Bool := fld bs off n == 0

/-- x rounded up to a multiple of m. -/
def roundUp (x m : Nat) : Nat := (x + m - 1) / m * m

/-- ceil(x / m). -/
def ceilDiv (x m : Nat) : Nat := (x + m - 1) / m

/-- Two byte ranges [a, a+n) and [b, b+m) share a byte. -/
def overlap (a n b m : Nat) : Bool := a < b + m && b < a + n && 0 < n && 0 < m

/-- f applied to the records of a table that p selects. -/
def updWhere {α : Type} (p : α → Bool) (f : α → α) (l : List α) : List α := l.map fun x => if p x then f x else x

/-- The first n numbers' list without the elements p refuses: the lowest number below n that p accepts. -/
def lowestFree (n : Nat) (p : Nat → Bool) : Option Nat := (List.range n).find? p

/-! ## Memory: one sorted list of non-zero bytes -/

/-- The memory list (log 1): addresses strictly rising, no byte 0; an unlisted address reads 0. -/
abbrev Memory := List Host.Cell

/-- What an address that is not listed reads as. DESIGN CHOICE (log 1). -/
def unlistedByte : Byte := 0

/-- Every address of a memory list is above lo. -/
def Memory.above (lo : Nat) : Memory → Bool
  | [] => true
  | (a, _) :: r => decide (lo < a) && Memory.above lo r

/-- The canonical form: addresses strictly rising, no entry equal to what an unlisted address reads as. -/
def Memory.wf : Memory → Bool
  | [] => true
  | (a, b) :: r => decide (b ≠ unlistedByte) && Memory.above a r && Memory.wf r

/-- One byte read: the entry of the address, else what an unlisted address reads as. -/
def memGet : Memory → Nat → Byte
  | [], _ => unlistedByte
  | (k, b) :: r, a => if k = a then b else memGet r a

/-- An entry put in its place by address. -/
def memInsert : Memory → Nat → Byte → Memory
  | [], a, v => [(a, v)]
  | (k, b) :: r, a, v => if a < k then (a, v) :: (k, b) :: r else if a = k then (a, v) :: r else (k, b) :: memInsert r a v

/-- One byte written, keeping the canonical form: a byte that unlisted addresses read as leaves the list. -/
def memPut (m : Memory) (a : Nat) (v : Byte) : Memory := if v = unlistedByte then m.filter (fun c => c.1 ≠ a) else memInsert m a v

/-- n bytes from address a upward. -/
def memRead (m : Memory) (a : Nat) : Nat → List Byte
  | 0 => []
  | n + 1 => memGet m a :: memRead m (a + 1) n

/-- Bytes stored from address a upward. -/
def memWrite (m : Memory) (a : Nat) : List Byte → Memory
  | [] => m
  | b :: bs => memWrite (memPut m a b) (a + 1) bs

/-! ## Where the memories stand in the one list (R17, R71, R108, R143; log 1) -/

/-- Device memory: physical address p stands at p (R17). -/
def devKey (p : Nat) : Nat := p
/-- Host memory: host address h. -/
def hostKey (h : Nat) : Nat := 2 ^ 60 + h
/-- Scratch of a core: byte off of its pool (R110: windows of 4 MiB). -/
def scratchKey (core off : Nat) : Nat := 2 ^ 61 + core * 2 ^ 22 + off
/-- The operand buffer of a cluster (R143). -/
def obufKey (cluster off : Nat) : Nat := 2 ^ 62 + cluster * 2 ^ 23 + off
/-- The B store of a cluster (R143). -/
def bstoreKey (cluster off : Nat) : Nat := 2 ^ 62 + 2 ^ 40 + cluster * 2 ^ 25 + off
/-- Byte off of a tile of a cluster (R143): 256 rows of 512 bytes. -/
def tileKey (cluster tile off : Nat) : Nat := 2 ^ 62 + 2 ^ 41 + cluster * 2 ^ 19 + tile * 2 ^ 17 + off

/-- The place is device memory. -/
def isDevKey (k : Nat) : Bool := decide (k < 2 ^ 60)
/-- The place is host memory. -/
def isHostKey (k : Nat) : Bool := decide (2 ^ 60 ≤ k ∧ k < 2 ^ 61)
/-- The place is scratch of some core. -/
def isScratchKey (k : Nat) : Bool := decide (2 ^ 61 ≤ k ∧ k < 2 ^ 62)
/-- The core whose scratch a place lies in. -/
def scratchCore (k : Nat) : Nat := (k - 2 ^ 61) / 2 ^ 22
/-- The offset in its core's pool of a place in scratch. -/
def scratchOff (k : Nat) : Nat := (k - 2 ^ 61) % 2 ^ 22

/-- Bytes of the one memory list. -/
def State.rd (s : State) (key n : Nat) : List Byte := memRead s.mem key n
/-- Bytes stored in the one memory list. -/
def State.wr (s : State) (key : Nat) (bs : List Byte) : State := { s with mem := memWrite s.mem key bs }
/-- n bytes from a place on become zero: an unlisted address reads zero, so their entries leave the list. -/
def State.zero (s : State) (key n : Nat) : State := { s with mem := s.mem.filter fun c => !(decide (key ≤ c.1 ∧ c.1 < key + n)) }

/-! ## Units -/

/-- The die of a core (R6). -/
def dieOfCore (core : Nat) : Nat := core / 48
/-- The cluster of a core (R6). -/
def clusterOfCore (core : Nat) : Nat := core / 4
/-- The die of a cluster (R6). -/
def dieOfCluster (cluster : Nat) : Nat := cluster / 12

/-- Die cycle counter of a die (R3). -/
def State.clockOf (s : State) (die : Nat) : Nat := s.dieClock.getD die 0

/-- When the cycle of a die that is under way began, on the scale of State.cycleBegan. -/
def State.beganOf (s : State) (die : Nat) : Nat := s.cycleBegan.getD die 0

/-- Subject number k of the step under way. -/
def State.subj (s : State) (k : Nat) : Nat := s.subject.getD k 0

/-- A fresh operation number. -/
def State.fresh (s : State) : Nat × State := (s.nextOp, { s with nextOp := s.nextOp + 1 })

/-- One draw of the free choice (log 10). -/
def State.choose (s : State) : Nat × State := (Config.choose s.draw, { s with draw := s.draw + 1 })

/-! ## Registers (R27 to R29) -/

/-- The physical register of a field under a window base (R27): anchors stand, windowed fields move. -/
def physAt (wbase : Nat) (f : Reg) : Nat := if f.toNat < 16 then f.toNat else wbase + f.toNat

/-- Register i of an operand whose first field is f; field 0 reads as zeros throughout (R27). -/
def Thread.rdAt (t : Thread) (f : Reg) (i : Nat) : W32 := if f = 0 then 0 else t.regs.getD (physAt t.wbase f + i) 0

/-- A register. -/
def Thread.rd (t : Thread) (f : Reg) : W32 := t.rdAt f 0

/-- A pair, low word in the even register. -/
def Thread.rd64 (t : Thread) (f : Reg) : W64 := t.rdAt f 1 ++ t.rdAt f 0

/-- The words of an operand of n registers. -/
def Thread.rdN (t : Thread) (f : Reg) (n : Nat) : List W32 := (List.range n).map (t.rdAt f)

/-- Register i of an operand written; field 0 discards every write (R27). -/
def Thread.wrAt (t : Thread) (f : Reg) (i : Nat) (v : W32) : Thread :=
  if f = 0 then t else { t with regs := t.regs.set (physAt t.wbase f + i) v }

/-- A register written. -/
def Thread.wr (t : Thread) (f : Reg) (v : W32) : Thread := t.wrAt f 0 v

/-- A pair written. -/
def Thread.wr64 (t : Thread) (f : Reg) (v : W64) : Thread := (t.wrAt f 0 (v.extractLsb' 0 32)).wrAt f 1 (v.extractLsb' 32 32)

/-- Words written from register i of an operand upward. -/
def Thread.wrList (t : Thread) (f : Reg) (i : Nat) : List W32 → Thread
  | [] => t
  | v :: vs => (t.wrAt f i v).wrList f (i + 1) vs

/-- Words written from an operand's first register upward, under the window base the word had when it issued. -/
def Thread.wrUnder (t : Thread) (wbase : Nat) (f : Reg) (vs : List W32) : Thread :=
  { ({ t with wbase := wbase }.wrList f 0 vs) with wbase := t.wbase }

/-- A predicate; p7 reads true (R29). -/
def Thread.pred (t : Thread) (p : BitVec 3) : Bool := if p = 7 then true else t.preds.getLsbD p.toNat

/-- A predicate, negated when n is set. -/
def Thread.predN (t : Thread) (p : BitVec 3) (n : Bool) : Bool := (t.pred p) ^^ n

/-- A predicate written; p7 discards (R29). -/
def Thread.setPred (t : Thread) (p : BitVec 3) (b : Bool) : Thread :=
  if p = 7 then t
  else { t with preds := if b then t.preds ||| (1#7 <<< p.toNat) else t.preds &&& ~~~(1#7 <<< p.toNat) }

/-- The physical registers an operand list names (R28); field 0 names none. -/
def Thread.phys (t : Thread) (os : List Operand) : List Nat :=
  os.flatMap fun o => if o.field = 0 then [] else (List.range o.size).map (physAt t.wbase o.field + ·)

/-- The thread is switched off by its guard for its next word (R91). -/
def Thread.guardedOff (t : Thread) : Bool := decide (0 < t.gcnt) && !t.gval

/-! ## Finding threads, teams, grids, code -/

/-- A thread by name. -/
def State.thread? (s : State) (r : TRef) : Option Thread := s.threads.find? fun t => t.ref = r

/-- A thread's record replaced. -/
def State.setThread (s : State) (t : Thread) : State := { s with threads := updWhere (fun u => u.ref = t.ref) (fun _ => t) s.threads }

/-- A thread's record changed. -/
def State.modThread (s : State) (r : TRef) (f : Thread → Thread) : State := { s with threads := updWhere (fun u => u.ref = r) f s.threads }

/-- A team by grid and index. -/
def State.team? (s : State) (g i : Nat) : Option Team := s.teams.find? fun t => t.grid = g && t.idx = i

/-- A team's record changed. -/
def State.modTeam (s : State) (g i : Nat) (f : Team → Team) : State := { s with teams := updWhere (fun t => t.grid = g && t.idx = i) f s.teams }

/-- The place of entry number k, from the bottom, of the return stack of a thread of the team in device memory (R82, R111; log 53). -/
def Team.stackKey (t : Team) (tid k : Nat) : Nat := devKey (t.rstackSlot + 8192 * tid + 8 * k)

/-- A grid by its identifier. -/
def State.grid? (s : State) (g : Nat) : Option Grid := s.grids.find? fun x => x.id = g

/-- A grid's record changed. -/
def State.modGrid (s : State) (g : Nat) (f : Grid → Grid) : State := { s with grids := updWhere (fun x => x.id = g) f s.grids }

/-- A code object by its number. -/
def State.code? (s : State) (c : Nat) : Option Code := s.codes.find? fun x => x.id = c

/-- A context's settings. -/
def State.context? (s : State) (asid : Nat) : Option Context := s.contexts.find? fun c => c.asid = asid

/-- A thread of a team. -/
def Thread.ofTeam (t : Thread) (g i : Nat) : Bool := t.ref.grid == g && t.ref.team == i

/-- The threads of a team. -/
def State.threadsOf (s : State) (g i : Nat) : List Thread := s.threads.filter fun t => t.ofTeam g i

/-- The threads of a team that have not exited. -/
def State.liveOf (s : State) (g i : Nat) : List Thread := (s.threadsOf g i).filter fun t => t.status != .exited

/-- The cohort of a thread within its team (R91). -/
def Thread.cohort (t : Thread) : Nat := t.ref.tid / 64

/-- The lane of a thread within its cohort, sr.clane (R91). -/
def Thread.lane (t : Thread) : Nat := t.ref.tid % 64

/-- The core a thread's team resides on, or was last. -/
def State.coreOf (s : State) (r : TRef) : Nat := ((s.team? r.grid r.team).map (·.lastCore)).getD 0

/-- The context of a thread's grid. -/
def State.asidOf (s : State) (g : Nat) : Nat := ((s.grid? g).map (·.asid)).getD 0

/-- What surrounds a resident thread: its record, its team, grid, kernel, code, and the core it resides on. -/
structure Ctx where
  t : Thread
  team : Team
  grid : Grid
  kernel : Kernel
  code : Code
  core : Nat
  deriving DecidableEq, Repr

/-- The die of the thread. -/
def Ctx.die (c : Ctx) : Nat := dieOfCore c.core
/-- The cluster of the thread. -/
def Ctx.cluster (c : Ctx) : Nat := clusterOfCore c.core
/-- The context of the thread. -/
def Ctx.asid (c : Ctx) : Nat := c.grid.asid
/-- The system flag of the thread's kernel. -/
def Ctx.system (c : Ctx) : Bool := c.kernel.system
/-- The team's scratch size (R69). -/
def Ctx.scratchSize (c : Ctx) : Nat := c.kernel.scratch
/-- The size of the code section. -/
def Code.size (c : Code) : Nat := 4 * c.words.length

/-- The kernel of a grid. -/
def State.kernelOf (s : State) (g : Grid) : Option Kernel := (s.code? g.desc.code).bind fun c => c.kernels[g.desc.kernel]?

/-- The surroundings of a resident thread. -/
def State.ctx? (s : State) (r : TRef) : Option Ctx := do
  let t ← s.thread? r
  let team ← s.team? r.grid r.team
  let core ← team.core
  let grid ← s.grid? r.grid
  let code ← s.code? grid.desc.code
  let kernel ← code.kernels[grid.desc.kernel]?
  some { t := t, team := team, grid := grid, kernel := kernel, code := code, core := core }

/-- The word at an offset of a code section (R81). -/
def Code.fetch (c : Code) (pc : Nat) : Option W32 := c.words[pc / 4]?

/-- The context, system flag and team size of a grid's teams. -/
def State.teamSize (s : State) (g : Nat) : Nat := (((s.grid? g).bind s.kernelOf).map (·.teamSize)).getD 0

/-! ## Team scratch, wherever it stands (R204, R286) -/

/-- The team's scratch stands on its core: it resides there, or its range is held. -/
def Team.inPlace (t : Team) : Bool := t.core.isSome || t.held

/-- Bytes of a team's scratch: on its core, or in its saved image. -/
def State.teamRead (s : State) (t : Team) (off n : Nat) : List Byte :=
  if t.inPlace then s.rd (scratchKey t.lastCore (t.scratch + off)) n else memRead t.saved off n

/-- Bytes stored in a team's scratch, wherever it stands. -/
def State.teamWrite (s : State) (t : Team) (off : Nat) (bs : List Byte) : State :=
  if t.inPlace then s.wr (scratchKey t.lastCore (t.scratch + off)) bs
  else s.modTeam t.grid t.idx fun u => { u with saved := memWrite u.saved off bs }

end Sys2Proof.Machine
end

