-- ==== Sys2Proof/Machine/Place.lean ====
section
/-! DEFINITION. Which units serve (R14, R17, R18), where an address leads: validity (R109), the scratch aperture (R110), fabric addresses (R258),
the table walk, its caches and host translation (R289, R290). -/

namespace Sys2Proof.Machine

/-! ## Units in service -/

/-- Places of the steps' entries in the bring-up record (R14, R15). -/
def switchEntry (n : Nat) : Nat := 3 + n
/-- TOWER_TRAIN of a tower. -/
def towerEntry (n : Nat) : Nat := 5 + n
/-- DIE_TEST of a die. -/
def dieEntry (n : Nat) : Nat := 13 + n
/-- BOND_TEST of a cluster. -/
def bondEntry (n : Nat) : Nat := 17 + n
/-- VILCOR_TRAIN of a port. -/
def portEntry (n : Nat) : Nat := 66 + n

/-- The status code of an entry of the record (R15). -/
def Boot.statusAt (b : Boot) (k : Nat) : Nat := ((b.entries[k]?).map (·.status)).getD 0

/-- How an entry still has to run at this start; none once it has ended. -/
def Boot.planAt (b : Boot) (k : Nat) : Option Plan := (b.plan[k]?).join

/-- The instance has passed at this start, by either way. -/
def Boot.passed (b : Boot) (k : Nat) : Bool := (b.statusAt k == 1 || b.statusAt k == 2) && (b.planAt k).isNone

/-- The instance may still pass at this start (R18). -/
def Boot.pendingAt (b : Boot) (k : Nat) : Bool :=
  match b.planAt k with
  | some .normal | some .alternate => true
  | _ => false

/-- A core takes teams: its die and its cluster have passed (R18). -/
def Boot.coreUp (b : Boot) (core : Nat) : Bool :=
  core < 192 && b.passed (dieEntry (dieOfCore core)) && b.passed (bondEntry (clusterOfCore core))

/-- A core that may still come into service at this start. -/
def Boot.corePending (b : Boot) (core : Nat) : Bool :=
  core < 192 && !b.coreUp core
    && (b.passed (dieEntry (dieOfCore core)) || b.pendingAt (dieEntry (dieOfCore core)))
    && (b.passed (bondEntry (clusterOfCore core)) || b.pendingAt (bondEntry (clusterOfCore core)))

/-- A tower serves (R17, R18). -/
def Boot.towerUp (b : Boot) (tower : Nat) : Bool := tower < 8 && b.passed (towerEntry tower)

/-- The place lies in device memory that no serving tower holds: a hole or a pending tower (R17, R19). -/
def State.inHole (s : State) (key : Nat) : Bool := isDevKey key && !s.boot.towerUp (key / 2 ^ 36)

/-- The bytes at a place as the level below every cache holds them; in a hole they are poison (R17, log 5). -/
def State.homeRead (s : State) (key n : Nat) : List Byte :=
  if s.inHole key then (List.range n).map fun i => Config.poison (s.draw + i) else s.rd key n

/-! ## Addresses (R109, R110, R258) -/

/-- R109: bits [63:57] equal bit 56. -/
def validAddr (a : W64) : Bool := a.extractLsb' 57 7 == (if a.getLsbD 56 then 0x7F#7 else 0#7)

/-- Start of the scratch aperture (R110). -/
def apertureBase : Nat := 0x00FF000000000000
/-- Bytes of the aperture: 192 windows of 4 MiB. -/
def apertureSize : Nat := 192 * 0x400000
/-- The address lies in the aperture. -/
def inAperture (va : Nat) : Bool := apertureBase ≤ va && va < apertureBase + apertureSize
/-- Some byte of [va, va+n) lies in the aperture. -/
def touchesAperture (va n : Nat) : Bool := overlap va n apertureBase apertureSize
/-- The aperture address of a core's scratch byte (R110). -/
def apertureAddr (core off : Nat) : Nat := apertureBase + core * 0x400000 + off
/-- The fabric range (R258). -/
def isFabric (va : Nat) : Bool := va / 2 ^ 48 == 0xFE
/-- The device a fabric address names. -/
def fabricDev (va : Nat) : Nat := va / 2 ^ 38 % 1024
/-- The die a fabric address names. -/
def fabricDie (va : Nat) : Nat := va / 2 ^ 36 % 4
/-- The region a fabric address names. -/
def fabricRegion (va : Nat) : Nat := va / 2 ^ 32 % 16
/-- The offset a fabric address names. -/
def fabricOff (va : Nat) : Nat := va % 2 ^ 32

/-- R258: a fabric address whose device is another one of the partition. -/
def State.fabricOk (s : State) (va : Nat) : Bool := fabricDev va != s.boot.device && fabricDev va < s.boot.devices

/-- Carve menu (R71): bytes of scratch of a code. -/
def carveScratch (code : Nat) : Nat := ([1536, 1024, 1280, 768, 2048, 256].getD code 0) * 1024
/-- Carve menu (R71): 32-bit registers of a code. -/
def carveRegs (code : Nat) : Nat := ([2048, 2048, 2560, 3072, 1536, 2048].getD code 0) * 256
/-- L1 of a carve code in KiB (R71). -/
def carveL1 (code : Nat) : Nat := [512, 1024, 256, 256, 512, 1792].getD code 0
/-- The carve code of a core. -/
def State.carveOf (s : State) (core : Nat) : Nat := ((s.carve.find? fun p => p.1 = core).map (·.2)).getD 0

/-! ## Table walk (R289) -/

/-- The rights a translation is made for (R289); claim reads as a right that must be present for OCLAIM and its like. -/
inductive Right where
  | read | write | atomic | claim (needWrite : Bool)
  deriving DecidableEq, Repr

/-- Kind of a fault record for a right (R280, R331). -/
def Right.kind : Right → Nat
  | .read => 0
  | .write => 1
  | .atomic => 2
  | .claim _ => 3

/-- VALID of a table entry. -/
def pteValid (e : W64) : Bool := e.getLsbD 0
/-- LEAF of a table entry. -/
def pteLeaf (e : W64) : Bool := e.getLsbD 1
/-- HOST of a table entry. -/
def pteHost (e : W64) : Bool := e.getLsbD 6
/-- SIZE2M of a table entry. -/
def pteBig (e : W64) : Bool := e.getLsbD 5
/-- FRAME of a table entry as an address. -/
def pteFrame (e : W64) : Nat := (e.extractLsb' 12 44).toNat * 4096
/-- HOME of a table entry. -/
def pteHome (e : W64) : Nat := (e.extractLsb' 8 2).toNat

/-- A reserved field of an entry is zero, and so is HOME of a host page (R289). -/
def pteClean (e : W64) : Bool := e.extractLsb' 56 8 == 0 && e.extractLsb' 10 2 == 0 && !(pteHost e && pteHome e != 0)

/-- An entry grants a right to a kernel (R289). -/
def pteGrants (e : W64) (system : Bool) (r : Right) : Bool :=
  (system || !e.getLsbD 7) && match r with
  | .read => e.getLsbD 2
  | .write => e.getLsbD 3
  | .atomic => e.getLsbD 3 && e.getLsbD 4
  | .claim w => e.getLsbD 2 && (!w || e.getLsbD 3)

/-- How a walk ended: a leaf with its page's base and size, VALID = 0 at a level, or an entry that breaks R289. -/
inductive WalkEnd where
  | leaf (pte : W64) (base size : Nat)
  | absent (level : Nat)
  | broken
  deriving DecidableEq, Repr

/-- A 64-bit entry of a table in device memory; poison where no serving tower holds it (R17). -/
def State.tableEntry (s : State) (table idx : Nat) : W64 := BitVec.ofNat 64 (leNat (s.homeRead (devKey (table + 8 * idx)) 8))

/-- The last level of a walk (R289): index bits [29:16], pages of 64 KiB or 2 MiB. -/
def walkLeaf (e : W64) (va : Nat) : WalkEnd :=
  if !pteValid e then .absent 4
  else
    let size := if pteBig e then 2 ^ 21 else 2 ^ 16
    if !pteClean e || !pteLeaf e || pteFrame e % size ≠ 0 then .broken else .leaf e (va / size * size) size

/-- Levels 3 and 4 of a walk, from the level-3 table. -/
def State.walkLow (s : State) (table va : Nat) : WalkEnd :=
  let e := s.tableEntry table (va / 2 ^ 30 % 512)
  if !pteValid e then .absent 3
  else if !pteClean e || pteBig e then .broken
  else if pteLeaf e then (if pteFrame e % 2 ^ 30 ≠ 0 then .broken else .leaf e (va / 2 ^ 30 * 2 ^ 30) (2 ^ 30))
  else if pteFrame e % 2 ^ 17 ≠ 0 then .broken
  else walkLeaf (s.tableEntry (pteFrame e) (va / 2 ^ 16 % 16384)) va

/-- A whole walk from a root table (R289). -/
def State.walkFrom (s : State) (root va : Nat) : WalkEnd :=
  let e1 := s.tableEntry root (va / 2 ^ 48 % 512)
  if !pteValid e1 then .absent 1
  else if !pteClean e1 || pteLeaf e1 || pteBig e1 then .broken
  else
    let e2 := s.tableEntry (pteFrame e1) (va / 2 ^ 39 % 512)
    if !pteValid e2 then .absent 2
    else if !pteClean e2 || pteLeaf e2 || pteBig e2 then .broken
    else s.walkLow (pteFrame e2) va

/-- A cached leaf of a unit that covers an address. -/
def cachedLeaf (tab : List TlbEntry) (unit asid va : Nat) : Option TlbEntry :=
  tab.find? fun e => e.unit = unit && e.asid = asid && decide (e.base ≤ va ∧ va < e.base + e.size)

/-- The leaf that serves an address on a core: its TLB, its cluster's TLB, else a walk that a cached table pointer of the die may shorten (R290).
An ASID with no root table is not present at level 1 (log 9). -/
def State.lookup (s : State) (core asid va : Nat) : WalkEnd :=
  match cachedLeaf s.tlb core asid va with
  | some e => .leaf e.pte e.base e.size
  | none =>
    match cachedLeaf s.tlb2 (clusterOfCore core) asid va with
    | some e => .leaf e.pte e.base e.size
    | none =>
      match s.walkCache.find? fun w => w.die = dieOfCore core && w.asid = asid && w.top = va / 2 ^ 30 with
      | some w => walkLeaf (s.tableEntry w.table (va / 2 ^ 16 % 16384)) va
      | none =>
        match (s.context? asid).bind (·.root) with
        | none => .absent 1
        | some root => s.walkFrom root va

/-- An entry that leads to a table of the next level. -/
def pteNext (e : W64) : Bool := pteValid e && pteClean e && !pteLeaf e && !pteBig e

/-- The entries a walk reads from a table on; the shift and the number of entries of each level left. -/
def State.walkPath (s : State) (table va : Nat) : List (Nat × Nat) → List Nat
  | [] => []
  | (shift, n) :: ls =>
    let i := va / 2 ^ shift % n
    let e := s.tableEntry table i
    (table + 8 * i) :: if pteNext e && (ls.length ≠ 1 || pteFrame e % 2 ^ 17 = 0) then s.walkPath (pteFrame e) va ls else []

/-- The device memory a translation reads: none for a cached leaf, one entry below a cached table pointer, else the entries of the walk (R289, R290). -/
def State.walkKeys (s : State) (core asid va : Nat) : List Nat :=
  if (cachedLeaf s.tlb core asid va).isSome || (cachedLeaf s.tlb2 (clusterOfCore core) asid va).isSome then []
  else match s.walkCache.find? fun w => w.die = dieOfCore core && w.asid = asid && w.top = va / 2 ^ 30 with
    | some w => s.walkPath w.table va [(16, 16384)]
    | none => match (s.context? asid).bind (·.root) with
      | none => []
      | some root => s.walkPath root va [(48, 512), (39, 512), (30, 512), (16, 16384)]

/-- The number the chip's own units give where a core is asked for: no core's cache serves them, so they walk the tables (log 9). -/
def chipUnit : Nat := 192

/-- A list that holds the first-in first-out caches of several units, n entries each: the unit's oldest entry leaves a full one. -/
def fifo {α : Type} (n : Nat) (same : α → Bool) (x : α) (l : List α) : List α := (if n ≤ (l.filter same).length then l.eraseP same else l) ++ [x]

/-- Where an address leads: the place of its first byte, its home die, and whether it is host memory or the scratch of a core. -/
structure Place where
  key : Nat
  home : Nat
  host : Bool
  aperture : Bool
  deriving DecidableEq, Repr

/-- ATS (R290): the host's translation of a frame's page, from die 0's cache or from the host; a page the host lists nothing for stands for itself
(log 9). -/
def State.ats (s : State) (h : Nat) : Option Nat :=
  match s.atc.find? fun p => p.1 = h / 4096 with
  | some p => some (p.2 * 4096 + h % 4096)
  | none =>
    match s.hostMap.find? fun p => p.1 = h / 4096 with
    | some (_, none) => none
    | some (_, some q) => some (q * 4096 + h % 4096)
    | none => some h

/-- The level-4 table that a walk from a root reaches, when its first three levels lead to one. -/
def State.tablePointer (s : State) (root va : Nat) : Option Nat :=
  let e1 := s.tableEntry root (va / 2 ^ 48 % 512)
  let e2 := s.tableEntry (pteFrame e1) (va / 2 ^ 39 % 512)
  let e3 := s.tableEntry (pteFrame e2) (va / 2 ^ 30 % 512)
  if [e1, e2, e3].all pteNext && pteFrame e3 % 2 ^ 17 = 0 then some (pteFrame e3) else none

/-- The die's walker keeps the pointer to the level-4 table it walked to. -/
def State.cacheTable (s : State) (die asid va : Nat) : State :=
  if s.walkCache.any fun w => w.die = die && w.asid = asid && w.top = va / 2 ^ 30 then s
  else match ((s.context? asid).bind (·.root)).bind fun root => s.tablePointer root va with
    | some t => { s with walkCache := fifo 64 (·.die == die) ⟨die, asid, va / 2 ^ 30, t⟩ s.walkCache }
    | none => s

/-- Die 0's address translation cache keeps the host's translation of a page. -/
def State.cacheHost (s : State) (pte : W64) (base va : Nat) : State :=
  let h := pteFrame pte + (va - base)
  if !pteHost pte || s.atc.any fun p => p.1 = h / 4096 then s
  else match s.ats h with
    | some q => { s with atc := fifo 64 (fun _ => true) (h / 4096, q / 4096) s.atc }
    | none => s

/-- The translation of one address for a right (R289, R290): NOT_PRESENT, PERMISSION, or the place. -/
def State.translate (s : State) (core asid : Nat) (system : Bool) (va : Nat) (r : Right) : Except Fail Place :=
  match s.lookup core asid va with
  | .absent level => .error { cause := .notPresent, addr := va, kind := r.kind, level := level, walked := true }
  | .broken => .error { cause := .permission, addr := va, walked := true }
  | .leaf pte base _ =>
    if !pteGrants pte system r then .error { cause := .permission, addr := va, walked := true }
    else if pteHost pte then
      match s.ats (pteFrame pte + (va - base)) with
      | none => .error { cause := .notPresent, addr := va, kind := r.kind, level := 5, walked := true }
      | some h => .ok { key := hostKey h, home := 0, host := true, aperture := false }
    else .ok { key := devKey (pteFrame pte + (va - base)), home := pteHome pte, host := false, aperture := false }

/-- The team whose scratch holds n bytes at an offset of a core's pool, resident there (R110). -/
def State.scratchHolder (s : State) (core off n : Nat) : Option Team :=
  s.teams.find? fun t => t.core = some core &&
    decide (t.scratch ≤ off ∧ off + n ≤ t.scratch + roundUp ((((s.grid? t.grid).bind s.kernelOf).map (·.scratch)).getD 0) 128)

/-- The team that holds scratch bytes of a core, resident or with its range held (R110, R204). -/
def State.holderAt (s : State) (core off n : Nat) : Option Team :=
  s.teams.find? fun t => t.inPlace && t.lastCore == core &&
    decide (t.scratch ≤ off ∧ off + n ≤ t.scratch + roundUp ((((s.grid? t.grid).bind s.kernelOf).map (·.scratch)).getD 0) 128)

/-- R110: where an aperture access of a context leads. -/
def State.aperturePlace (s : State) (asid va n : Nat) : Except Fail Place :=
  let core := (va - apertureBase) / 0x400000
  let off := (va - apertureBase) % 0x400000
  let bad : Except Fail Place := .error { cause := .permission, addr := va }
  if !s.boot.coreUp core || off + n > carveScratch (s.carveOf core) then bad
  else match s.scratchHolder core off n with
    | none => bad
    | some t => if ((s.grid? t.grid).map (·.asid)) = some asid
                then .ok { key := scratchKey core off, home := dieOfCore core, host := false, aperture := true } else bad

/-- Where n bytes at a global address lead for a right, after R109's own checks: a fabric address is refused (R258), the aperture is checked by R110,
any other address is translated. -/
def State.resolve (s : State) (core asid : Nat) (system : Bool) (va n : Nat) (r : Right) : Except Fail Place :=
  if isFabric va then .error { cause := .permission, addr := va }
  else if inAperture va then s.aperturePlace asid va n
  else s.translate core asid system va r

/-- The failures of R109's checks on a formed address. -/
def addrFails (a : W64) (size : Nat) : List Fail :=
  (if a.toNat % size ≠ 0 then [{ cause := .alignment, addr := a.toNat }] else [])
  ++ (if !validAddr a then [{ cause := .permission, addr := a.toNat }] else [])

/-- The pages a range touches, as one address for each step of 64 KiB. -/
def pageStarts (va len : Nat) : List Nat :=
  if len = 0 then [] else (List.range ((va + len - 1) / 65536 - va / 65536 + 1)).map fun i => if i = 0 then va else (va / 65536 + i) * 65536

/-- The chunks of a range that lie in one 64 KiB page each. -/
def pageChunks (va n : Nat) : List (Nat × Nat) :=
  (pageStarts va n).map fun p => (p, min (va + n) ((p / 65536 + 1) * 65536) - p)

/-- The chunks of a range that lie in one 256-byte granule each: what one packet carries at most (R262). fuel: chunks. -/
def granuleChunks (va n : Nat) : List (Nat × Nat) :=
  if n = 0 then []
  else (List.range ((va + n - 1) / 256 - va / 256 + 1)).map fun i =>
    let a := if i = 0 then va else (va / 256 + i) * 256
    (a, min (va + n) ((va / 256 + i + 1) * 256) - a)

/-- The first failure of translating every page of a range for a right; the lowest missing address comes first (R331). -/
def State.rangeFails (s : State) (core asid : Nat) (system : Bool) (va len : Nat) (r : Right) : List Fail :=
  (pageStarts va len).filterMap fun p =>
    match s.translate core asid system p r with
    | .error f => some f
    | .ok _ => none

end Sys2Proof.Machine
end

