-- ==== Sys2Proof/Machine/Levels.lean ====
section
/-! DEFINITION. The queues the device fills (R291), home memory (R17, R19), the caches of a core and a die (R113, R116), the write-through buffer,
owned intervals (R121, R122) and range locks (R130). -/

namespace Sys2Proof.Machine

/-! ## Queues the device fills (R291) -/

/-- The queue is full: WRITE + 1 equals READ modulo SIZE. -/
def OutQueue.full (q : OutQueue) : Bool := (q.write.toNat + 1) % q.size.toNat == q.read.toNat % q.size.toNat

/-- A record stored in a ring and WRITE advanced; the rings stand in untranslated host memory (log 8). -/
def OutQueue.place (q : OutQueue) (rec : List Byte) : Nat × OutQueue :=
  (hostKey (q.base.toNat + q.write.toNat % q.size.toNat * rec.length), { q with write := BitVec.ofNat 32 ((q.write.toNat + 1) % q.size.toNat) })

/-- An event record (R292): discarded and counted when the queue is full, discarded when it is disabled. -/
def State.raise (s : State) (cls code : Nat) (detail : List Byte) : State :=
  if s.eventQ.size = 0 then s
  else if s.eventQ.full then { s with eventQ := { s.eventQ with discards := s.eventQ.discards + 1 } }
  else
    let rec16 := leBytes cls 1 ++ leBytes code 1 ++ leBytes 0 6 ++ (detail ++ List.replicate 8 0).take 8
    let (a, q) := s.eventQ.place rec16
    { s.wr a rec16 with eventQ := q }

/-! ## Home memory (R17, R19) -/

/-- The side of a read that reaches a hole: the event PENDING_TOWER_ACCESS, and the poison drawn. -/
def State.noteRead (s : State) (key n : Nat) : State :=
  if s.inHole key then ({ s with draw := s.draw + n }).raise 2 1 (leBytes (key / 2 ^ 36) 1 ++ leBytes 0 1) else s

/-- Table entries read at their places. -/
def State.noteWalk (s : State) (keys : List Nat) : State := keys.foldl (fun s a => s.noteRead (devKey a) 8) s

/-- A translation is made: what it reads of tables in holes raises the event, and the leaf is kept, in the core's TLB (64 entries each) and the cluster's (2048 each),
the table's place in the die's walker cache, a host page's translation in die 0's; which entry goes is a DESIGN CHOICE (log 9). -/
def State.cacheLeaf (s0 : State) (core asid va : Nat) : State :=
  let kept := match s0.lookup core asid va with
  | .leaf pte base size =>
    let s := (s0.cacheTable (dieOfCore core) asid va).cacheHost pte base va
    let s1 := if (cachedLeaf s.tlb core asid va).isSome then s else { s with tlb := fifo 64 (·.unit == core) ⟨core, asid, base, size, pte⟩ s.tlb }
    if (cachedLeaf s.tlb2 (clusterOfCore core) asid va).isSome then s1
    else { s1 with tlb2 := fifo 2048 (·.unit == clusterOfCore core) ⟨clusterOfCore core, asid, base, size, pte⟩ s.tlb2 }
  | _ => s0
  kept.noteWalk (s0.walkKeys core asid va)

/-- The sides of reading n bytes of a context: of its tables and of its bytes, whatever cannot be reached left out. -/
def State.noteVa (s : State) (core asid : Nat) (system : Bool) (va n : Nat) : State :=
  (pageChunks va n).foldl (fun s x =>
    let s1 := s.noteWalk (if isFabric x.1 || inAperture x.1 then [] else s.walkKeys core asid x.1)
    match s.resolve core asid system x.1 x.2 .read with
    | .ok p => s1.noteRead p.key x.2
    | .error _ => s1) s

/-- Bytes stored at a place; in a hole they are dropped and the event is raised (R19). -/
def State.homeWrite (s : State) (key : Nat) (bs : List Byte) : State :=
  if s.inHole key then s.raise 2 1 (leBytes (key / 2 ^ 36) 1 ++ leBytes 1 1) else s.wr key bs

/-- Bytes at a place lie in a tagged hurdle (R202), whichever teams hold them. -/
def State.placeTagged (s : State) (key n : Nat) : Bool :=
  isScratchKey key && s.hurdles.any fun h => (s.team? h.grid h.team).any fun t => t.inPlace && overlap key n (scratchKey t.lastCore (t.scratch + h.off)) 16

/-- The bytes of a store that has reached its home: those in a tagged hurdle, which nothing but the events of R203 changes, are dropped (log 50), and those of skip
do not travel with it (R122). -/
def State.landStore (s : State) (key : Nat) (bs : List Byte) (skip : List Nat := []) : State :=
  if (s.placeTagged key bs.length || !skip.isEmpty) && !s.inHole key then
    (List.range bs.length).foldl (fun s i => if s.placeTagged (key + i) 1 || skip.contains i then s else s.homeWrite (key + i) [bs.getD i 0]) s
  else s.homeWrite key bs

/-! ## Intervals (R121, R122) -/

/-- An interval shares a byte with [va, va+n) of a context. Intervals are compared by context and virtual address. DESIGN CHOICE (log 63). -/
def Interval.meets (i : Interval) (asid va n : Nat) : Bool := i.asid == asid && overlap va n i.base i.len

/-- The interval is held by a team. -/
def Interval.heldBy (i : Interval) (g t : Nat) : Bool := i.grid == g && i.team == t

/-- OWNED_ELSEWHERE (R122): the bytes touch a writable interval of another team, or, for a write, any interval of another team. -/
def State.ownedElsewhere (s : State) (g t asid va n : Nat) (forWrite : Bool) : Bool :=
  s.intervals.any fun i => i.meets asid va n && !i.heldBy g t && (i.writable || forWrite)

/-- The bytes touch an interval held by any team (R270). -/
def State.ownedByAny (s : State) (asid va n : Nat) : Bool := s.intervals.any fun i => i.meets asid va n

/-- The byte at va belongs to a writable interval that the team holds. -/
def State.ownsByte (s : State) (g t asid va : Nat) : Bool :=
  s.intervals.any fun i => i.meets asid va 1 && i.heldBy g t && i.writable

/-- Every byte of the line belongs to intervals held on the core (R113). -/
def State.lineInside (s : State) (l : Line) (core : Nat) : Bool :=
  (List.range 128).all fun k => s.intervals.any fun i => i.core == some core && i.meets l.asid (l.va + k) 1

/-- The line shares a byte with an interval held on the core. -/
def State.lineOwned (s : State) (l : Line) (core : Nat) : Bool :=
  s.intervals.any fun i => i.core == some core && i.meets l.asid l.va 128

/-! ## Range locks (R130) -/

/-- A lock of a die's tables overlaps the bytes; with onlyWrite, only write locks count. Locks of global memory are compared by context and virtual address.
DESIGN CHOICE (log 63). -/
def State.lockHit (s : State) (die : Nat) (sp : Space) (va n : Nat) (onlyWrite : Bool) : Bool :=
  s.locks.any fun l => dieOfCluster l.cluster == die && l.space == sp && overlap va n l.lo (l.hi - l.lo) && (l.write || !onlyWrite)

/-- Entries in use in a cluster's table. -/
def State.lockCount (s : State) (cluster : Nat) : Nat := (s.locks.filter fun l => l.cluster = cluster).length

/-- Two locks of one space share a byte in some slices (R153). -/
def Lock.meets (a b : Lock) : Bool :=
  (List.range a.slices).any fun i => (List.range b.slices).any fun k =>
    overlap (a.lo + i * 0x40000) (a.hi - a.lo) (b.lo + k * 0x40000) (b.hi - b.lo)

/-- R131, R153: a lock to be made conflicts with a lock made earlier on the die. -/
def Lock.conflicts (a b : Lock) : Bool := a.space == b.space && a.meets b && (a.write || b.write) && a.op != b.op

/-- The operation's locks are granted: no earlier registered lock of the die conflicts (R131). Operation numbers rise with registration. -/
def State.granted (s : State) (op : Nat) : Bool :=
  (s.locks.filter fun l => l.op = op).all fun a =>
    !(s.locks.any fun b => b.op < a.op && dieOfCluster a.cluster == dieOfCluster b.cluster && a.conflicts b)

/-- The operation's locks released. -/
def State.unlock (s : State) (op : Nat) : State := { s with locks := s.locks.filter fun l => l.op ≠ op }

/-! ## L1, remote-data cache, write-through buffer (R113, R116, R122) -/

/-- A cached line of an owner (core or die). -/
def lineOf (ls : List Line) (owner line : Nat) : Option Line := ls.find? fun l => l.owner = owner && l.line = line

/-- n bytes of a line's data replaced from an offset on. -/
def Line.store (l : Line) (off : Nat) (bs : List Byte) : Line :=
  { l with data := l.data.take off ++ bs ++ l.data.drop (off + bs.length) }

/-- A stored range updates the lines an owner holds of it; an access lies inside one line. -/
def updateLines (ls : List Line) (owner key : Nat) (bs : List Byte) : List Line :=
  updWhere (fun l => l.owner = owner && l.line = key / 128) (fun l => l.store (key % 128) bs) ls

/-- The lines of an owner that hold any byte of a place range leave. -/
def dropLines (ls : List Line) (owner key n : Nat) : List Line :=
  ls.filter fun l => !(l.owner == owner && overlap key n (l.line * 128) 128)

/-- What the die of a core holds of a line: its remote-data cache for a remote home, else the home. -/
def State.dieRead (s : State) (die : Nat) (p : Place) (key n : Nat) : List Byte :=
  if p.home = die then s.homeRead key n
  else match lineOf s.rdc die (key / 128) with
    | some l => (l.data.drop (key % 128)).take n
    | none => s.homeRead key n

/-- The byte that a store carries to a place, if any. -/
def WriteThrough.byteAt (w : WriteThrough) (key : Nat) : Option Byte :=
  if w.place ≤ key && !w.skip.contains (key - w.place) then w.bytes[key - w.place]? else none

/-- The core's own latest byte at a place: dirty owned bytes, then plain stores still on their way that a test selects (the youngest first), else the byte
given (R113, R116, R119). -/
def State.ownByte (s : State) (core key : Nat) (p : WriteThrough → Bool) (below : Byte) : Byte :=
  match s.dirty.find? fun d => d.core = core && d.place = key with
  | some d => d.byte
  | none =>
    (s.wtb.reverse.findSome? fun w => if w.core = core && !w.explicit && p w then w.byteAt key else none).getD below

/-- Bytes of a place range overlaid with the core's own latest bytes. -/
def State.overlay (s : State) (core key : Nat) (p : WriteThrough → Bool) (bs : List Byte) : List Byte :=
  (List.range bs.length).map fun i => s.ownByte core (key + i) p (bs.getD i 0)

/-- The thread has made the store or has read it (R119, R230). -/
def WriteThrough.knownTo (w : WriteThrough) (r : TRef) : Bool := w.thread == r || w.seen.contains r

/-- A store that another thread of the core made and this one has read is still on its way. -/
def State.seenPending (s : State) (r : TRef) : Bool := s.wtb.any fun w => w.seen.contains r

/-- The thread has read bytes of its core: it has seen the stores of other threads that stand there on their way. -/
def State.noteSeen (s : State) (core : Nat) (r : TRef) (key n : Nat) : State :=
  { s with wtb := updWhere (fun w => w.core == core && !w.explicit && !w.knownTo r && overlap w.place w.bytes.length key n)
                    (fun w => { w with seen := w.seen ++ [r] }) s.wtb }

/-- The earliest line of an owner leaves when it holds as many as it has room for: the order in which a full cache drops lines is not in the spec (log 52). -/
def makeRoom (cap owner : Nat) (ls : List Line) : List Line :=
  if cap ≤ (ls.filter fun l => l.owner = owner).length then ls.eraseP fun l => l.owner = owner else ls

/-- Lines of a die's remote-data cache: 32 MiB (R8). -/
def rdcLines : Nat := 262144

/-- R119: the bytes LDG returns: own bytes, the L1 line, the remote-data-cache line, the home. -/
def State.coreRead (s : State) (core : Nat) (p : Place) (n : Nat) : List Byte :=
  let below := match lineOf s.l1 core (p.key / 128) with
    | some l => (l.data.drop (p.key % 128)).take n
    | none => s.dieRead (dieOfCore core) p p.key n
  s.overlay core p.key (fun _ => true) below

/-- R119, R230: the bytes LDGN returns: owned bytes, what the thread has stored or seen, else the home. -/
def State.freshRead (s : State) (core : Nat) (r : TRef) (p : Place) (n : Nat) : List Byte := s.overlay core p.key (·.knownTo r) (s.homeRead p.key n)

/-- R119: LDG allocates the line in the remote-data cache, for a remote home, and in L1. -/
def State.allocate (s : State) (core asid va : Nat) (p : Place) : State :=
  let line := p.key / 128
  let die := dieOfCore core
  let base := va - va % 128
  let s1 := if p.home = die || (lineOf s.rdc die line).isSome then s
            else { s with rdc := makeRoom rdcLines die s.rdc ++ [⟨die, line, p.home, asid, base, s.homeRead (line * 128) 128⟩] }
  if (lineOf s1.l1 core line).isSome then s1
  else { s1 with l1 := makeRoom (8 * carveL1 (s.carveOf core)) core s1.l1 ++ [⟨core, line, p.home, asid, base, s1.dieRead die p (line * 128) 128⟩] }

/-- R230: LDGN drops the line from the die's remote-data cache, and from the core's L1 unless intervals the team holds writable cover the bytes. -/
def State.freshDrop (s : State) (core g t asid va : Nat) (p : Place) (n : Nat) : State :=
  let s1 := { s with rdc := dropLines s.rdc (dieOfCore core) p.key n }
  if (List.range n).all fun i => s.ownsByte g t asid (va + i) then s1 else { s1 with l1 := dropLines s1.l1 core p.key n }

/-- A dirty byte put in place of an older one at the same place. -/
def State.putDirty (s : State) (d : Dirty) : State :=
  { s with dirty := s.dirty.filter (fun e => !(e.core = d.core && e.place = d.place)) ++ [d] }

/-- Owned bytes of a store (R122): they stay with the core. -/
def State.storeOwned (s : State) (core asid va key : Nat) (bs : List Byte) : State :=
  (List.range bs.length).foldl (fun s i => s.putDirty ⟨core, asid, va + i, key + i, bs.getD i 0⟩) s

/-- One dirty byte written back: the home has it, and so have the lines the holder's core and die keep. -/
def State.writeBackOne (s : State) (d : Dirty) : State :=
  let s1 := s.homeWrite d.place [d.byte]
  { s1 with l1 := updateLines s1.l1 d.core d.place [d.byte], rdc := updateLines s1.rdc (dieOfCore d.core) d.place [d.byte] }

/-- A store of a core has reached its home: the lines its core and its die keep of the bytes show them (R113, R116, R230 rule 1). -/
def State.showStored (s : State) (core key : Nat) (bs : List Byte) : State :=
  { s with l1 := updateLines s.l1 core key bs, rdc := updateLines s.rdc (dieOfCore core) key bs }

/-- The dirty bytes that a test selects written back to their homes (R122, R126). -/
def State.writeBack (s : State) (p : Dirty → Bool) : State :=
  let s1 := (s.dirty.filter p).foldl State.writeBackOne s
  { s1 with dirty := s1.dirty.filter fun d => !p d }

/-- The dirty bytes of a team's intervals: their interval is held by it. -/
def State.dirtyOf (s : State) (g t : Nat) (d : Dirty) : Bool := s.ownsByte g t d.asid d.va

/-! ## Acquire (R236) -/

/-- The cores a named scope holds (R51); bits of cores not in service are ignored. -/
def State.scopeCores (s : State) (g : Nat) (i : BitVec 3) : List Nat :=
  ((((s.grid? g).bind fun x => x.desc.scopes[i.toNat]?).join).getD []).filter s.boot.coreUp

/-- A core is a member of a scope as a grid sees it; the fixed scopes hold their issuer always. -/
def State.isMember (s : State) (g core : Nat) (sc : Scope) : Bool :=
  match sc with
  | .named i => (s.scopeCores g i).contains core
  | _ => true

/-- Every L1 line of the core that is not in an interval it holds leaves (R113); one that is in part leaves too, its dirty bytes stay with the core (R122). -/
def State.dropL1 (s : State) (core : Nat) : State := { s with l1 := s.l1.filter fun l => l.owner ≠ core || s.lineInside l core }

/-- Scopes whose acquire drops lines: every scope beyond team (R236). -/
def Scope.wide (sc : Scope) : Bool := sc != .team

/-- R236: what an acquire at a scope drops for a core. A named scope of which the core is no member orders nothing (R211). -/
def State.acquire (s : State) (g core : Nat) (sc : Scope) : State :=
  let die := dieOfCore core
  match sc with
  | .team => s
  | .cluster | .die => s.dropL1 core
  | .package | .system => { s.dropL1 core with rdc := s.rdc.filter fun l => l.owner ≠ die }
  | .named i =>
    let cores := s.scopeCores g i
    if !cores.contains core then s
    else
      let s1 := s.dropL1 core
      { s1 with rdc := s1.rdc.filter fun l => l.owner ≠ die || !(cores.any fun c => dieOfCore c = l.home) }

end Sys2Proof.Machine
end

