-- ==== Sys2Proof/Machine/Records.lean ====
section
/-! DEFINITION. The records the device writes: trace records (R297 to R300), fault records (R280), kill records (R284), block records (R295). -/

namespace Sys2Proof.Machine

/-! ## Causes (R277) -/

/-- The code of a cause, 0x01 to 0x1C. -/
def Cause.code : Cause → Nat
  | .illegalEncoding => 0x01
  | .privilege => 0x02
  | .registerRange => 0x03
  | .lookaheadViolation => 0x04
  | .alignment => 0x05
  | .notPresent => 0x06
  | .permission => 0x07
  | .ownedElsewhere => 0x08
  | .rangeLock => 0x09
  | .scopeNotMember => 0x0A
  | .atomType => 0x0B
  | .waitTimeout => 0x0C
  | .collectiveMismatch => 0x0D
  | .hurdleError => 0x0E
  | .userTrap => 0x0F
  | .breakpoint => 0x10
  | .mmaParam => 0x11
  | .raggedCross => 0x12
  | .raggedSlot => 0x13
  | .walkReduction => 0x14
  | .channelBroken => 0x15
  | .remoteViolation => 0x16
  | .multicastMask => 0x17
  | .launchDepth => 0x18
  | .obufOverlap => 0x19
  | .relayParam => 0x1A
  | .doubleFault => 0x1B
  | .operandFetch => 0x1C

/-- A failure with a cause and a value for sr.taddr. -/
def Cause.at_ (c : Cause) (a : Nat) : Fail := { cause := c, addr := a }

/-- The failure is reported when the condition holds. -/
def when (b : Bool) (f : Fail) : List Fail := if b then [f] else []

/-- A failure found by a word that claims or binds: its fault record's Kind is 3 (R280). -/
def Fail.claiming (f : Fail) : Fail := { f with kind := 3 }

/-- R90, R331: the lowest code is taken; of several missing pages the lowest address, of several failures of another code the first listed. -/
def lowest : List Fail → Option Fail
  | [] => none
  | f :: fs =>
    match lowest fs with
    | none => some f
    | some g => if g.cause.code < f.cause.code || (g.cause = .notPresent && f.cause = .notPresent && g.addr < f.addr) then some g else some f

/-! ## Grids and correlation numbers -/

/-- The correlation number of a grid (R49), 0 for a grid that is gone. -/
def State.corrOf (s : State) (g : Nat) : Nat := ((s.grid? g).map fun x => x.desc.corr.toNat).getD 0

/-- The children of a team that have not retired (R66), in the order of their acceptance. -/
def State.childrenOf (s : State) (g i : Nat) : List Nat := (s.grids.filter fun x => x.parent = some (g, i)).map (·.id)

/-- The (COLL, GEN) pairs a team has contributed to whose slot has not closed (R268), each once: those of open slots, and of contributions on their way. -/
def State.openCollectives (s : State) (g i : Nat) : List (Nat × Nat) :=
  let slots := (s.rred.filter fun x => !x.expired && x.members.contains (g, i)).map fun x => (x.coll.toNat, x.gen.toNat)
  let sent := s.engines.filterMap fun e =>
    if e.grid = g && e.team = i then
      match e.kind with
      | .rred c => if c.data.length = e.rowBytes then some (c.coll.toNat, c.gen.toNat) else none
      | _ => none
    else none
  (slots ++ sent).eraseDups

/-! ## Trace (R297, R298) -/

/-- Where a die's ring stands. -/
def TraceRing.start (r : TraceRing) : Nat := r.base + r.die * 64 * (r.size + 1)

/-- The first 40 bytes of a trace record. -/
def traceHead (kind die core grid cycle corr team tid pc reason count : Nat) : List Byte :=
  leBytes kind 1 ++ leBytes die 1 ++ leBytes core 2 ++ leBytes grid 4 ++ leBytes cycle 8 ++ leBytes corr 8 ++ leBytes team 4 ++ leBytes tid 4
    ++ leBytes pc 4 ++ leBytes reason 1 ++ leBytes count 1 ++ leBytes 0 2

/-- One record offered to a die's ring: stored, or dropped and counted when WRITE − READ equals the ring size. -/
def State.traceStore (s : State) (r : TraceRing) (rec : List Byte) : State :=
  let read := BitVec.ofNat 32 (leNat (s.homeRead (devKey (r.start + 4)) 4))
  if (r.write - read).toNat = r.size then
    let s1 := (s.noteRead (devKey (r.start + 4)) 4).homeWrite (devKey (r.start + 8)) (leBytes (r.lost.toNat + 1) 8)
    { s1 with trace := updWhere (fun x => x.die = r.die) (fun x => { x with lost := x.lost + 1, overflow := true }) s1.trace }
  else
    let s1 := (s.noteRead (devKey (r.start + 4)) 4).homeWrite (devKey (r.start + 64 + 64 * (r.write.toNat % r.size))) rec
    let s2 := s1.homeWrite (devKey r.start) (leBytes (r.write.toNat + 1) 4)
    { s2 with trace := updWhere (fun x => x.die = r.die) (fun x => { x with write := x.write + 1 }) s2.trace }

/-- One record written to a die's ring, after an overflow record when records were dropped before (R297). -/
def State.traceWrite (s : State) (die : Nat) (rec : List Byte) : State :=
  match s.trace.find? (fun r => r.die = die) with
  | none => s
  | some r =>
    let read := BitVec.ofNat 32 (leNat (s.homeRead (devKey (r.start + 4)) 4))
    if r.overflow && (r.write - read).toNat ≠ r.size then
      let lostRec := traceHead 0x0F die 0xFFFF 0xFFFFFFFF (s.clockOf die) 0 0xFFFFFFFF 0xFFFFFFFF 0xFFFFFFFF 0 0
      let s1 := s.traceStore r (lostRec ++ leBytes r.lost.toNat 8 ++ leBytes 0 16)
      let s2 := { s1 with trace := updWhere (fun x => x.die = die) (fun x => { x with overflow := false }) s1.trace }
      match s2.trace.find? (fun x => x.die = die) with
      | none => s2
      | some r2 => s2.traceStore r2 rec
    else s.traceStore r rec

/-- An event record of a team, written when its die traces events. Kinds 2 to 5 of R298. -/
def State.traceTeam (s : State) (kind core g i tid pc : Nat) (specific : List Byte) : State :=
  let die := dieOfCore core
  match s.trace.find? (fun r => r.die = die && r.events) with
  | none => s
  | some _ =>
    s.traceWrite die (traceHead kind die core g (s.clockOf die) (s.corrOf g) i tid pc 0 0 ++ (specific ++ leBytes 0 24).take 24)

/-! ## Block records (R295) -/

/-- The 128 bytes of a team's block record. -/
def State.blockRecord (s : State) (t : Team) : List Byte :=
  let k := t.count
  leBytes t.grid 4 ++ leBytes t.idx 4 ++ leBytes t.attempt 1
    ++ leBytes ((if t.killed.isSome then 1 else 0) + (if t.relaunch then 2 else 0)) 1 ++ leBytes k.firstCore 2 ++ leBytes t.lastCore 2
    ++ leBytes (min k.evictions 0xFFFF) 2 ++ leBytes k.resident 8 ++ leBytes k.issue 8 ++ leBytes k.words 8 ++ leBytes k.firstClock 8
    ++ leBytes (s.clockOf (dieOfCore t.lastCore)) 8 ++ leBytes (s.corrOf t.grid) 8
    ++ ((List.range 16).flatMap fun r => leBytes (min (k.stalls.getD r 0) 0xFFFFFFFF) 4)

/-- The place of record n of a grid's block-record buffer, a virtual address of the grid's context (R49, R295): a page that
cannot be written keeps its bytes, the other page of a record that crosses into it is written. -/
def State.bufferPut (s : State) (x : Grid) (n : Nat) (rec : List Byte) : State :=
  let va := x.desc.blockBuf + 128 * n
  (pageChunks va rec.length).foldl (fun s1 y => match s.translate chipUnit x.asid x.system y.1 .write with
    | .ok p => s1.landStore p.key ((rec.drop (y.1 - va)).take y.2)
    | .error _ => s1) s

/-- Step 5 of R293: the next free record is written, or the record is discarded and counted. -/
def State.appendBlock (s : State) (t : Team) : State :=
  match s.grid? t.grid with
  | none => s
  | some x =>
    if x.desc.blockBuf = 0 then s
    else if x.records + 1 < x.desc.blockCap then
      (s.bufferPut x (x.records + 1) (s.blockRecord t)).modGrid x.id fun y => { y with records := y.records + 1 }
    else s.modGrid x.id fun y => { y with discarded := y.discarded + 1 }

/-- The header record, written last (R295). -/
def State.blockHeader (s : State) (x : Grid) : State :=
  if x.desc.blockBuf = 0 || x.desc.blockCap = 0 then s
  else s.bufferPut x 0 (leBytes x.id 4 ++ leBytes x.records 4 ++ leBytes x.discarded 4 ++ leBytes 0x4B425A41 4 ++ leBytes 0 112)

/-! ## Kill records (R284) -/

/-- The 256 bytes of a kill record. flags: bit 0 relaunched, bit 1 while evicted, bit 2 before placement. -/
def State.killRecord (s : State) (g i attempt flags : Nat) (k : KillInfo) : List Byte :=
  let colls := s.openCollectives g i
  let kids := s.childrenOf g i
  let pad (bs : List Byte) : List Byte := (bs ++ leBytes 0 64).take 64
  leBytes g 4 ++ leBytes i 4 ++ leBytes attempt 4 ++ leBytes k.cause 1 ++ leBytes flags 1 ++ leBytes k.met 1 ++ leBytes 0 1 ++ leBytes k.tid 4
    ++ leBytes k.pc 4 ++ leBytes k.taddr 8 ++ leBytes k.passes 4 ++ leBytes colls.length 2 ++ leBytes kids.length 2 ++ leBytes (s.corrOf g) 8
    ++ leBytes 0 16 ++ pad ((colls.take 8).flatMap fun c => leBytes c.1 4 ++ leBytes c.2 4) ++ pad ((kids.take 16).flatMap fun c => leBytes c 4)
    ++ leBytes 0 64

/-- A kill record held until KILL_RECORD_POST finds room (R291). -/
def State.holdKill (s : State) (rec : List Byte) : State := { s with killQ := { s.killQ with held := s.killQ.held ++ [rec] } }

/-- The 32 bytes of a fault record (R280). -/
def FaultRec.bytes (f : FaultRec) : List Byte :=
  leBytes f.addr 8 ++ leBytes f.seq 4 ++ leBytes f.asid 2 ++ leBytes f.kind 1 ++ leBytes f.level 1 ++ leBytes f.grid 4 ++ leBytes f.team 4
    ++ leBytes f.pc 4 ++ leBytes f.joined 4

end Sys2Proof.Machine
end

