-- ==== Sys2Proof/Machine/Kill.lean ====
section
/-! DEFINITION. Giving up what a team holds: reservations (R147, R148, R165), slots (R172, R173), endpoints and tables (R189, R200), intervals (R127),
copies (R132), and killing a team (R282 to R284). -/

namespace Sys2Proof.Machine

/-! ## Reservations -/

/-- The storage of a reservation set to zero (R146, R165); its tiles become cleared (R149). -/
def State.zeroReservation (s : State) (v : Reservation) : State :=
  if v.space = 0 then s.zero (obufKey v.cluster v.base) v.len
  else if v.space = 1 then (List.range 128).foldl (fun s slice => s.zero (bstoreKey v.cluster (slice * 0x40000 + v.base)) v.len) s
  else if v.space = 3 then
    (List.range v.len).foldl (fun s k =>
      { s.zero (tileKey v.cluster (v.base + k) 0) 0x20000 with tiles := s.tiles.filter fun p => p.1 ≠ v.cluster * 4 + (v.base + k) }) s
  else s

/-- The kind of a tile; an unlisted tile is cleared (R149). -/
def State.tileKind (s : State) (cluster tile : Nat) : TileKind :=
  ((s.tiles.find? fun p => p.1 = cluster * 4 + tile).map (·.2)).getD .cleared

/-- A tile's kind set. -/
def State.setTileKind (s : State) (cluster tile : Nat) (k : TileKind) : State :=
  let rest := s.tiles.filter fun p => p.1 ≠ cluster * 4 + tile
  { s with tiles := if k = .cleared then rest else rest ++ [(cluster * 4 + tile, k)] }

/-- Rows of an operation's source: CPYG may take any of its limit. -/
def EngineOp.srcRows (e : EngineOp) : Nat :=
  match e.kind with
  | .cpyg _ limit => limit
  | _ => e.rows

/-- Rows of an operation's destination: CPYS may write any of its limit. -/
def EngineOp.dstRows (e : EngineOp) : Nat :=
  match e.kind with
  | .cpys _ limit => limit
  | _ => e.rows

/-- The space of a reservation and a storage range [lo, hi) as an operation names them; SPACE 1 in slice bytes. -/
def Reservation.covers (v : Reservation) (space lo hi : Nat) : Bool :=
  v.space == space && v.base ≤ lo && hi ≤ v.base + v.len

/-- Bytes [a, a+n) of the B store lie in a range of a slice's bytes. -/
def inSlices (base len a n : Nat) : Bool :=
  (List.range ((a + n - 1) / 0x40000 - a / 0x40000 + 1)).any fun k => overlap a n ((a / 0x40000 + k) * 0x40000 + base) len

/-- An operation that stands on a reservation: an MMA that names it, or an engine operation with a row on its storage (R147). -/
def State.reservationBusy (s : State) (v : Reservation) : Bool :=
  let side (e : EngineOp) (d : Side) (n stride : Nat) : Bool :=
    e.cluster == v.cluster && e.grid == v.grid && e.team == v.team && (List.range n).any fun i =>
      match d with
      | .obuf off => v.space == 0 && overlap (off + i * stride) e.rowBytes v.base v.len
      | .bstore off => v.space == 1 && inSlices v.base v.len (off + i * stride) e.rowBytes
      | _ => false
  (s.mmas.any fun m => m.cluster == v.cluster && m.grid == v.grid && m.team == v.team
      && (m.a.handle == v.handle || m.b.handle == v.handle || (v.space == 3 && decide (v.base ≤ m.tile ∧ m.tile < v.base + v.len))))
  || s.engines.any fun e => side e e.src e.srcRows e.sstride || side e e.dst e.dstRows e.dstride ||
      (e.cluster == v.cluster && e.grid == v.grid && e.team == v.team && match e.kind with
        | .accrd tile _ _ _ _ _ _ _ | .accclr tile => v.space == 3 && decide (v.base ≤ tile ∧ tile < v.base + v.len)
        | _ => false)

/-- Storage and handle of released reservations become free once no operation stands on them (R147). -/
def State.freeReservations (s : State) : State :=
  { s with reservations := s.reservations.filter fun v => !(v.releasing && !s.reservationBusy v) }

/-! ## Presence (R114) -/

/-- Some line that bytes [off, off+n) of a team's scratch touch is absent, wherever the scratch stands (R114, R286). -/
def State.linesAbsent (s : State) (g i off n : Nat) : Bool := s.absent.any fun l => l.grid == g && l.team == i && overlap off n (l.line * 128) 128

/-- Some line that n bytes at a place of a core's scratch touch is absent (R114). -/
def State.placeAbsent (s : State) (key n : Nat) : Bool :=
  isScratchKey key && match s.holderAt (scratchCore key) (scratchOff key) n with
    | some t => s.linesAbsent t.grid t.idx (scratchOff key - t.scratch) n
    | none => false

/-- The presence bits of scratch lines are set (R114). -/
def State.present (s : State) (lines : List ScratchLine) : State := { s with absent := s.absent.filter fun l => !lines.contains l }

/-- The scratch of a team goes: nothing waits for its lines any more (R114). -/
def State.forgetLines (s : State) (g i : Nat) : State :=
  let other (l : ScratchLine) : Bool := !(l.grid == g && l.team == i)
  { s with absent := s.absent.filter other, engines := s.engines.map fun e => { e with cleared := e.cleared.filter other } }

/-! ## Slots, endpoints, tables, intervals -/

/-- A team's intervals are written back and removed from every table (R126, R127). -/
def State.dropIntervals (s : State) (g i : Nat) : State :=
  let s1 := s.writeBack (s.dirtyOf g i)
  { s1 with intervals := s1.intervals.filter fun v => !v.heldBy g i }

/-- A team's ragged slots are unbound and their read locks released (R172, R173). -/
def State.dropRagged (s : State) (g i : Nat) : State :=
  let mine := s.ragged.filter fun r => r.grid = g && r.team = i
  let s1 := { s with ragged := s.ragged.filter fun r => !(r.grid = g && r.team = i) }
  mine.foldl (fun s r => s.unlock r.lock) s1

/-- A team's endpoints leave the directory (R189). -/
def State.dropEndpoints (s : State) (g i : Nat) : State :=
  { s with endpoints := s.endpoints.filter fun e => !(e.grid = g && e.team = i) }

/-- A team's reassembly tables are discarded with their locks, and late returns no longer counted (R200). -/
def State.dropTables (s : State) (g i : Nat) : State :=
  let mine := s.tables.filter fun t => t.grid = g && t.team = i && (t.held || t.counting)
  let forget (t : Reassembly) : Reassembly :=
    let t1 := { t with history := t.history.filter fun h => !(h.2.1 = g && h.2.2 = i) }
    if t.grid = g && t.team = i then { t1 with held := false, counting := false } else t1
  let s1 := { s with tables := s.tables.map forget }
  mine.foldl (fun s t => if t.held then s.unlock t.lock else s) s1

/-- Slots whose result has been written to every contributor of this device close (R267). -/
def State.closeSlots (s : State) : State :=
  { s with rred := s.rred.filter fun x => !x.closing || x.got.any fun c => c.dev == s.boot.device && s.engines.any fun e => e.op == c.op }

/-- Writes the operation has sent are on their way. -/
def EngineOp.inFlight (e : EngineOp) : Bool := e.pieces.any fun p => p.sent && !p.landed

/-- A killed team's operation that still has writes on their way: it reads and sends nothing more, and ends, with no record and no credit, once they have
landed (R132). -/
def EngineOp.fadeOut (e : EngineOp) : EngineOp :=
  { e with stopped := some (0, 0), prog := none, hurdle := none, cleared := [], asks := [], pieces := e.pieces.filter (·.sent) }

/-- A team's copies, engine operations and MMAs stop (R132, R165): presence bits set, no record, no credit; locks released, those of an operation whose writes
are on their way once they have landed; reduction slots that waited for them alone close (R267). -/
def State.stopEngines (s : State) (g i : Nat) : State :=
  let mine := s.engines.filter fun e => e.grid = g && e.team = i
  let done := mine.filter fun e => !e.inFlight
  let ops := done.map (·.op) ++ (s.mmas.filter fun m => m.grid = g && m.team = i).map (·.op)
  let chan := (done.filter fun e => e.ord ≠ 0).map (·.op)
  let s1 := { s with engines := updWhere (fun e => e.grid = g && e.team = i) EngineOp.fadeOut (s.engines.filter fun e => !done.contains e),
                     mmas := s.mmas.filter (fun m => !(m.grid = g && m.team = i)),
                     chanOps := updWhere (fun o => chan.contains o.op) (fun o => { o with left := o.left - 1 }) s.chanOps }
  ((ops.foldl State.unlock s1).present (mine.flatMap (·.cleared))).closeSlots

/-- A team's reservations are scrubbed and released (R148, R165). -/
def State.scrub (s : State) (g i : Nat) : State :=
  let mine := s.reservations.filter fun v => v.grid = g && v.team = i
  let s1 := mine.foldl State.zeroReservation s
  { s1 with reservations := s1.reservations.filter fun v => !(v.grid = g && v.team = i) }

/-- The waiter nodes of a team's threads are to be unlinked by their queues' gangs (R217): one request for each node linked or being linked, which stands linked
until then. -/
def State.unlinkNodes (s : State) (g i : Nat) : State :=
  let asked (r : TRef) (node : Nat) : Bool := s.atoms.any fun b => b.thread == r && b.req == .unlink node
  (s.atoms.filter fun a => a.thread.grid = g && a.thread.team = i).foldl (fun s a =>
    match a.req with
    | .link node _ =>
      if asked a.thread node then s
      else
        let (op, s2) := s.fresh
        { s2 with atoms := s2.atoms ++ [{ a with op := op, batch := op, lane := 0, req := .unlink node, returns := false, chan := none,
                                                 performed := false, answer := none }] }
    | _ => s) s

/-! ## Killing a team (R282 to R284) -/

/-- What becomes of a killed team's index: a new attempt, or dead (R283). -/
def State.settleIndex (s : State) (t : Team) (cause : Nat) (again : Bool) : State :=
  s.modGrid t.grid fun x =>
    if again then
      { x with again := x.again ++ [{ idx := t.idx, attempt := t.attempt + 1, lastCause := cause, home := t.homeDie,
                                      place := if x.desc.coResident then some { t with dying := none } else none }] }
    else { x with dead := x.dead ++ [t.idx] }

/-- A child's arrival on a hurdle of a killed team is discarded (R64). -/
def Grid.forgetIn (g i : Nat) (x : Grid) : Grid :=
  match x.onEnd with
  | .hurdle g2 i2 _ => if g2 = g && i2 = i then { x with onEnd := .none } else x
  | _ => x

/-- WEND's hurdles of a killed team are forgotten. -/
def Walk.forgetIn (g i : Nat) (w : Walk) : Walk := { w with hurdles := w.hurdles.filter fun h => !(h.1 == g && h.2.1 == i) }

/-- A thread of a killed team: it stops before its next issue, and a word it has issued completes (R282); away: its team is evicted, no word of it is under way
on a core. -/
def Thread.kill (away : Bool) (t : Thread) : Thread :=
  match away, t.status with
  | false, .stopped _ => t
  | _, _ => { t with status := .exited, windows := [], taken := none }

/-- Everything a kill takes from a team beside its index and its record (R282); again when a word that was under way has completed. -/
def State.strip (s : State) (g i : Nat) : State :=
  let away := (s.team? g i).all fun t => t.core.isNone
  let s1 := s.unlinkNodes g i
  let s2 := { s1 with
    threads := updWhere (fun t => t.ofTeam g i) (Thread.kill away) s1.threads,
    loads := s1.loads.filter (fun l => !(l.thread.grid = g && l.thread.team = i)),
    heats := s1.heats.filter (fun h => !(h.grid = g && h.team = i)),
    faultRecs := s1.faultRecs.filter (fun f => !(f.grid = g && f.team = i)),
    drains := s1.drains.filter (fun d => !(d.grid = g && d.team = i)),
    fences := s1.fences.filter (fun f => !(f.thread.grid = g && f.thread.team = i)),
    hurdles := s1.hurdles.filter (fun h => !(h.grid = g && h.team = i)),
    walks := s1.walks.map (Walk.forgetIn g i),
    grids := s1.grids.map (Grid.forgetIn g i) }
  let s3 := (s2.stopEngines g i).scrub g i
  (((s3.dropIntervals g i).dropRagged g i).dropEndpoints g i).dropTables g i

/-- A team is killed: by the cause that a thread of it took in the cycle that ends (R279), else as k says. byCommand: by the privileged KILL, which never
relaunches (R283, R332). -/
def State.killTeam (s : State) (g i : Nat) (k : KillInfo) (byCommand : Bool) : State :=
  match s.team? g i, s.grid? g with
  | some t, some x =>
    if t.killed.isSome then s
    else
      let why := t.dying.getD k
      let again := !(byCommand && t.dying.isNone) && ((s.kernelOf x).map (·.restartable)).getD false && t.attempt < x.desc.attempts
      let rec256 := s.killRecord g i t.attempt ((if again then 1 else 0) + (if t.core.isNone then 2 else 0)) why
      let s1 := (s.holdKill rec256).traceTeam 4 t.lastCore g i 0xFFFFFFFF 0xFFFFFFFF (leBytes why.cause 1)
      let s2 := (s1.strip g i).modTeam g i fun u => { u with killed := some why.cause, dying := none, relaunch := again }
      s2.settleIndex t why.cause again
  | _, _ => s

/-- R279: a thread takes a cause that kills its team, and issues nothing more. The kill takes effect as the cycle of its die ends; of several such causes of the
cycle the one of the lowest sr.tid counts. -/
def State.takeFatal (s : State) (r : TRef) (k : KillInfo) : State :=
  (s.modThread r fun t => { t with status := .exited, windows := [] }).modTeam r.grid r.team fun u =>
    { u with dying := match u.dying with | some d => some (if k.tid < d.tid then k else d) | none => some k }

/-- The kills of a die's cycle that ends take effect (R279, R282). -/
def State.killDying (s : State) (die : Nat) : State :=
  (s.teams.filter fun t => t.dying.isSome && t.core.any fun c => dieOfCore c == die).foldl
    (fun s t => match t.dying with | some k => s.killTeam t.grid t.idx k false | none => s) s

end Sys2Proof.Machine
end

