-- ==== Sys2Proof/Machine/Ops.lean ====
section
/-! DEFINITION. The shared operations of the instruction words: taking a cause (R277 to R281) and returning from a trap (TRET), lookahead windows (R32, R33),
and how a gang's threads perform a word: at once (short words) or behind a precise stop, lane by lane (R85, R89, R90). -/

namespace Sys2Proof.Machine

/-- What a meaning answers: the state reached, with the start and power state as it was: only the steps of bring-up, power and mailbox change it. -/
def finish (s t : State) : Host.Outcome State Fault Refusal := .next { t with boot := s.boot }

/-! ## Windows (R32, R33) -/

/-- One word issued: every open window counts it. A window whose pending set has cleared closes when its count is used up (R32, R33). -/
def tick (ws : List Window) : List Window :=
  (ws.map fun w => { w with left := w.left - 1 }).filter fun w => w.awaits || w.left != 0

/-- A window of the thread is exhausted. -/
def Thread.exhausted (t : Thread) : Bool := t.windows.any fun w => w.left == 0

/-- A pending set of the thread is open and awaits its return. -/
def Thread.awaiting (t : Thread) : Bool := t.windows.any (·.awaits)

/-- The thread goes past a word: PC, guard count and windows. -/
def Thread.step (t : Thread) : Thread := { t with pc := t.pc + 4, gcnt := t.gcnt - 1, windows := tick t.windows }

/-! ## Taking a cause -/

/-- Trap entry (R281): what is saved, the trap registers, the handler's first word, unguarded. No window stays open over it, nor one whose pending set has cleared
before its words are used up. DESIGN CHOICE (log 65). -/
def Thread.enterTrap (t : Thread) (entry : Nat) (f : Fail) : Thread :=
  { t with
    trap := some { cause := f.cause.code, tpc := t.pc, taddr := f.addr, tinfo := false, wbase := t.wbase, depth := t.stack.length,
                   gval := t.gval, gcnt := t.gcnt },
    pc := entry, gcnt := 0, windows := [], status := .ready }

/-- TRET's restore: retry, or skip when sr.tinfo bit 0 is set (13, Trap words). Its windows are dropped as at trap entry (log 65). -/
def Thread.leaveTrap (t : Thread) : Thread :=
  match t.trap with
  | none => t
  | some r =>
    { t with wbase := r.wbase, trap := none, windows := [], status := .ready,
             pc := if r.tinfo then r.tpc + 4 else r.tpc, gval := r.gval, gcnt := if r.tinfo then r.gcnt - 1 else r.gcnt }

/-- The team waits for replies to fault records (R280). -/
def State.inFaultWait (s : State) (g i : Nat) : Bool := s.faultRecs.any fun f => f.grid = g && f.team = i

/-- The next fault record number: from 1, wrapping after 0xFFFF_FFFF to 1 (R280). -/
def nextSeq (n : Nat) : Nat := if n = 0xFFFFFFFF then 1 else n + 1

/-- R280: the thread joins the unanswered record of its team and 64 KiB page, or a new one is to be posted; its team is in fault wait. Breakpoint
records (kind 4) are joined apart. -/
def State.systemFault (s : State) (t : Thread) (asid addr kind level : Nat) : State :=
  let same (f : FaultRec) : Bool :=
    f.grid == t.ref.grid && f.team == t.ref.team && f.addr / 65536 == addr / 65536 && (f.kind == 4) == (kind == 4)
  match s.faultRecs.find? same with
  | some f =>
    { s.modThread t.ref (fun u => { u with status := .faulted f.seq addr }) with
      faultRecs := updWhere (fun g => g.seq = f.seq) (fun g => { g with joined := g.joined + 1 }) s.faultRecs }
  | none =>
    let seq := nextSeq s.faultSeq
    { s.modThread t.ref (fun u => { u with status := .faulted seq addr }) with
      faultSeq := seq,
      faultRecs := s.faultRecs ++ [{ seq := seq, grid := t.ref.grid, team := t.ref.team, asid := asid, addr := addr, kind := kind, level := level,
                                     pc := t.pc, joined := 1, posted := false }] }

/-- A BRK of a grid under debug: a breakpoint record, and a trace record of the joining thread (13, Trap words; R298). -/
def State.breakpointFault (s : State) (c : Ctx) : State :=
  let s1 := s.systemFault c.t c.asid 0 4 0
  match (s1.thread? c.t.ref).map Thread.status with
  | some (.faulted seq _) => s1.traceTeam 5 c.core c.t.ref.grid c.t.ref.team c.t.ref.tid c.t.pc (leBytes seq 4)
  | _ => s1

/-- What a kill record says when the cause kills the thread's team (R279): in trap mode DOUBLE_FAULT; in a kernel with no trap entry the cause itself, unless a
record of its own answers it. -/
def Ctx.fatal (c : Ctx) (f : Fail) : Option KillInfo :=
  if c.t.trap.isSome then some { cause := 0x1B, met := f.cause.code, tid := c.t.ref.tid, pc := c.t.pc, taddr := f.addr }
  else if f.cause = .notPresent || (f.cause = .breakpoint && c.grid.debug) || c.kernel.trap.isSome then none
  else some { cause := f.cause.code, tid := c.t.ref.tid, pc := c.t.pc, taddr := f.addr }

/-- A cause is delivered to a thread (R279): it kills the team, NOT_PRESENT and a breakpoint under debug post a fault record, else the thread enters trap mode,
after fault wait and open pending sets (R280, R281). A thread of a team already killed ends. -/
def State.takeCause (s : State) (r : TRef) (f : Fail) : State :=
  match s.ctx? r with
  | none => s
  | some c =>
    if c.t.status = .exited then s
    else if c.team.killed.isSome then s.modThread r fun t => { t with status := .exited, windows := [] }
    else match c.fatal f with
      | some k => s.takeFatal r k
      | none =>
        if f.cause = .notPresent then s.systemFault c.t c.asid f.addr f.kind f.level
        else match c.kernel.trap with
          | none => s.breakpointFault c
          | some entry =>
            if f.cause = .breakpoint && c.grid.debug then s.breakpointFault c
            else if s.inFaultWait r.grid r.team || c.t.awaiting then s.modThread r fun t => { t with status := .trapWait f }
            else s.modThread r fun t => t.enterTrap entry f

/-- A thread's name put before the first one of a greater sr.tid. -/
def insertTid (r : TRef) : List TRef → List TRef
  | [] => [r]
  | q :: qs => if r.tid ≤ q.tid then r :: q :: qs else q :: insertTid r qs

/-- The threads of a gang in ascending sr.tid order (R79, R279). -/
def byTid : List TRef → List TRef
  | [] => []
  | r :: rs => insertTid r (byTid rs)

/-- The causes met in a short word delivered, lowest sr.tid first (R279). -/
def State.deliver (s : State) : State :=
  (byTid s.gang).foldl (fun s r =>
    match (s.thread? r).bind (·.taken) with
    | some f => (s.modThread r fun t => { t with taken := none }).takeCause r f
    | none => s) s

/-- Every thread of the gang takes a cause of decode, whatever its guard (R36, R278). -/
def State.takeAll (s : State) (f : Fail) : State := (byTid s.gang).foldl (fun s r => s.takeCause r f) s

/-! ## A pending set clears -/

/-- A thread that waited for its open pending sets goes on once none is left (R33): EXIT and TRET take effect, a blocking word makes its checks. -/
def Thread.settle (t : Thread) : Thread :=
  match t.status with
  | .draining i =>
    if t.awaiting then t
    else match i with
      | .exit => { t with status := .exited, windows := [] }
      | .tret => t.leaveTrap
      | j => { t with status := .stopped (.again j 0 none) }
  | _ => t

/-- The pending set of an operation clears: its window still counts the words it was opened for, and ends with the last of them (R32, R33). -/
def clearSet (op : Nat) (ws : List Window) : List Window :=
  (updWhere (fun w => w.op = op) (fun w => { w with awaits := false }) ws).filter fun w => w.awaits || w.left != 0

/-- The pending set of an operation clears. -/
def State.closeWindow (s : State) (r : TRef) (op : Nat) : State :=
  s.modThread r fun t => { t with windows := clearSet op t.windows }.settle

/-! ## Checks every word shares -/

/-- REGISTER_RANGE (R28) and LOOKAHEAD_VIOLATION (R33) of an active thread; the lowest physical register is named (R277 leaves open which). -/
def Ctx.shared (c : Ctx) (i : Instr) : List Fail :=
  let phys := c.t.phys (operands i)
  let least (l : List Nat) (cause : Cause) : List Fail := match l.min? with | some p => [cause.at_ p] | none => []
  least (phys.filter fun p => c.t.regs.length ≤ p) .registerRange
    ++ least (phys.filter fun p => c.t.windows.any fun w => w.regs.contains p) .lookaheadViolation

/-- The fall-through check of R81. -/
def Ctx.fallThrough (c : Ctx) : List Fail := when (c.code.size ≤ c.t.pc + 4) (Cause.permission.at_ (c.t.pc + 4))

/-- The system flag of the gang's kernel: a gang stands in one kernel (R84). -/
def State.gangSystem (s : State) : Bool := ((s.gang.head?.bind s.ctx?).map (·.system)).getD false

/-- R29, R36: the word takes PRIVILEGE at decode in every thread of the gang. -/
def State.refusesPrivilege (s : State) (i : Instr) : Bool := needsSystem i && !s.gangSystem

/-! ## Earlier accesses (R236, R247) -/

/-- The thread's loads and returning atomics issued before the mark have returned (R247, FENCE.ACQ). -/
def State.readsReturned (s : State) (r : TRef) (mark : Nat) : Bool :=
  !(s.loads.any fun l => l.thread = r && l.op < mark) && !(s.atoms.any fun a => a.thread = r && a.returns && a.op < mark)

/-- The thread's loads, ATOMs and REDs issued before the mark are performed, and so are the stores issued before it: its own and those it has read, at team scope;
beyond it every write-through of its core (R116, R236). Explicit channel words are not waited for (R247). -/
def State.released (s : State) (r : TRef) (core : Nat) (sc : Scope) (mark : Nat) : Bool :=
  !(s.loads.any fun l => l.thread = r && l.op < mark)
    && !(s.atoms.any fun a => a.thread = r && a.op < mark && !a.explicit && (a.answer.isNone || !a.performed) && match a.req with | .atom _ => true | _ => false)
    && !(s.wtb.any fun w => w.op < mark && !w.explicit && if sc = .team then w.knownTo r else w.core = core)

/-! ## Short words -/

/-- One thread's part of a short word. falls: it goes on to the next word; checks: its own; eff: its effect on the thread already moved on. -/
def Ctx.perform (c : Ctx) (i : Instr) (falls : Bool) (checks : List Fail) (eff : Thread → Thread) : Thread :=
  if c.t.guardedOff then
    match lowest c.fallThrough with
    | some f => { c.t with taken := some f }
    | none => c.t.step
  else match lowest (c.shared i ++ checks ++ (if falls then c.fallThrough else [])) with
    | some f => { c.t with taken := some f }
    | none => eff c.t.step

/-- A short word: each thread of the gang performs it on its own registers, then the causes met are delivered. -/
def State.short (s : State) (i : Instr) (falls : Ctx → Bool) (checks : Ctx → List Fail) (eff : Ctx → Thread → Thread) : State :=
  let part (t : Thread) : Thread :=
    if s.gang.contains t.ref && t.status = .ready then
      match s.ctx? t.ref with
      | some c => c.perform i (falls c) (checks c) (eff c)
      | none => t
    else t
  { s with threads := s.threads.map part }.deliver

/-- One thread of the gang at a short word that works on what its team shares. -/
def State.sharedPart (s : State) (i : Instr) (checks : Ctx → List Fail) (eff : Ctx → State → State) (r : TRef) : State :=
  match s.ctx? r with
  | none => s
  | some c =>
    if c.t.status ≠ .ready then s
    else if c.t.guardedOff then
      match lowest c.fallThrough with
      | some f => s.modThread r fun t => { t with taken := some f }
      | none => s.modThread r Thread.step
    else match lowest (c.shared i ++ checks c ++ c.fallThrough) with
      | some f => s.modThread r fun t => { t with taken := some f }
      | none => eff c (s.modThread r Thread.step)

/-- A short word that works on what its team shares: the threads of the gang in ascending sr.tid order (04). -/
def State.inTurn (s : State) (i : Instr) (checks : Ctx → List Fail) (eff : Ctx → State → State) : Host.Outcome State Fault Refusal :=
  finish s ((byTid s.gang).foldl (fun s r => s.sharedPart i checks eff r) s).deliver

/-- A register word: no checks of its own, and it falls through. -/
def State.plain (s : State) (i : Instr) (eff : Ctx → Thread → Thread) : Host.Outcome State Fault Refusal :=
  finish s (s.short i (fun _ => true) (fun _ => []) eff)

/-! ## Words behind a precise stop -/

/-- What a thread's part of a suspended word comes to: causes; causes, with the sides of what its checks have read; waiting, to be looked at again (mark 0: with all its checks; else a release whose
operations are numbered below the mark, or a word that has registered, with the state it left; room: it waits for a channel entry or replay room); done, and the thread's status until it goes on. -/
inductive Lane where
  | fail (fs : List Fail)
  | refuse (s : State) (fs : List Fail)
  | hold (mark : Nat) (room : Bool)
  | keep (s : State) (mark : Nat)
  | done (s : State) (st : TStatus)

/-- The usual end: every check passed and the effect is under way; the stop ends with PRECISE_STOP_END. -/
def Lane.pass (s : State) : Lane := .done s (.stopped .pass)

/-- Checks first, then the effect (R89). -/
def Lane.check (fs : List Fail) (go : Lane) : Lane := if fs.isEmpty then go else .fail fs

/-- The window a long-latency word opens; PRECISE_STOP_END counts it down once with the word itself. -/
def Thread.opens (t : Thread) (i : Instr) (op : Nat) (awaits : Bool) : Thread :=
  match lookahead i with
  | none => t
  | some l => { t with windows := t.windows ++ [{ op := op, left := l.toNat + 1, regs := t.phys (pendingOperands i), awaits := awaits }] }

/-- The pending set of the word clears with a return: loads and returning atomics (R32). -/
def returnsData : Instr → Bool
  | .ldg _ _ _ _ _ | .ldgn _ _ _ _ _ | .ldgb _ _ _ _ _ | .lds _ _ _ _ _ | .ldk _ _ _ _ _ | .atom _ _ _ _ _ | .ratom _ _ _ _ _ => true
  | _ => false

/-- A thread whose word failed: it is suspended with the cause it takes (R89, R90). -/
def State.stopWith (s : State) (r : TRef) (fs : List Fail) : State :=
  match lowest fs with
  | some f => s.modThread r fun t => { t with status := .stopped (.fail f) }
  | none => s

/-- The thread's stores to scratch of its die are still on their way. -/
def State.scratchPending (s : State) (r : TRef) : Bool := s.wtb.any fun w => w.thread == r && isScratchKey w.place && w.chan.isNone

/-- A word whose checks read records or descriptors that the thread may have stored in its scratch (R227). -/
def readsRecord : Instr → Bool
  | .cpy _ _ _ _ | .cpyg _ _ _ _ | .cpys _ _ _ _ | .cpyf _ _ _ _ | .rcpy _ _ _ _ | .rmc _ _ _ _ | .rred _ _ _ _ | .obres _ _ | .obrel _ _ | .accclr _ _
  | .accrd _ _ _ _ | .mma _ _ | .rbind _ _ _ | .runbind _ _ | .rgld _ _ _ _ | .segred _ _ _ _ | .segscan _ _ _ _ | .segnorm _ _ _ _ | .route _ _ _ _
  | .rret _ _ _ _ | .epdef _ _ | .rasm _ _ | .launch _ _ _ => true
  | _ => false

/-- A fence itself. -/
def isFence : Instr → Bool
  | .fenceAcq _ _ | .fenceRel _ _ | .fenceAr _ _ => true
  | _ => false

/-- A word that reads and writes nothing another thread sees: a release does not hold it (R227, R247). -/
def onlyReads : Instr → Bool
  | .ldg _ _ _ _ _ | .ldgn _ _ _ _ _ | .ldgb _ _ _ _ _ | .lds _ _ _ _ _ | .ldk _ _ _ _ _ | .pref _ _ _ | .waitp _ _ _ | .htest _ _ => true
  | _ => false

/-- The fence is performed now (R236, R247): the reads before it have returned, and what the thread has seen on its way has reached its home; the writes before it
are performed at its scope. -/
def State.fenceDone (s : State) (core : Nat) (f : FenceRec) : Bool :=
  (!f.acq || (s.readsReturned f.thread f.op && (f.scope = .team || !s.seenPending f.thread))) && (!f.rel || s.released f.thread core f.scope f.op)

/-- The fences of a thread that can be performed are, in order, each acquire with its drop (R247). -/
def State.settleFences (s : State) (r : TRef) : State :=
  match s.team? r.grid r.team with
  | none => s
  | some t =>
    (s.fences.filter fun f => f.thread = r).foldl (fun s f =>
      if s.fenceDone t.lastCore f then
        let s1 : State := { s with fences := s.fences.erase f }
        if f.acq then s1.acquire r.grid t.lastCore f.scope else s1
      else s) s

/-- A word waits at its stop for a fence of its thread that is not performed (R227, R247). -/
def State.fenceHolds (s : State) (r : TRef) (i : Instr) : Bool :=
  !isFence i && s.fences.any fun f => f.thread == r && (f.acq || !onlyReads i)

/-- The words whose entries have the lanes of a gang act in ascending order: ownership, copy, buffer, matrix, ragged, hurdle, wait, walker, queue and Relay
words (R85). -/
def inLaneOrder : Instr → Bool
  | .oclaim _ _ _ | .omove _ _ _ | .orels _ _ | .cpy _ _ _ _ | .cpyg _ _ _ _ | .cpys _ _ _ _ | .cpyf _ _ _ _ | .obres _ _ | .obrel _ _ | .accclr _ _
  | .accrd _ _ _ _ | .mma _ _ | .rbind _ _ _ | .runbind _ _ | .rgld _ _ _ _ | .segred _ _ _ _ | .segscan _ _ _ _ | .segnorm _ _ _ _ | .hinit _ _ _
  | .arriveRel _ _ _ _ | .arriveRlx _ _ _ | .expect _ _ _ | .waitp _ _ _ | .htest _ _ | .qwait _ _ | .wake _ _ _ | .walk _ | .wnext _ _ | .wred _ _
  | .wend _ _ | .route _ _ _ _ | .rret _ _ _ _ | .epdef _ _ | .rasm _ _ => true
  | _ => false

/-- A thread of the same batch and a lower lane, on a core, still waits at the word (R85). -/
def State.laneBehind (s : State) (slot : Nat × Nat) : Bool :=
  s.threads.any fun u => u.slot.1 == slot.1 && decide (u.slot.2 < slot.2) && (s.ctx? u.ref).isSome && match u.status with
    | .stopped (.again _ _ _) | .draining _ => true
    | _ => false

/-- The thread waits at the word: it is looked at again, in the batch and lane it issued the word in (R221). room: for channel back-pressure (R296). -/
def Thread.waitAt (t : Thread) (i : Instr) (mark : Nat) (due : Option Fail) (room : Bool) (slot : Nat × Nat) : Thread :=
  { t with status := .stopped (.again i mark due), slot := slot, pressed := room }

/-- A thread waits at a word, its checks still to be made or made: the word has its operation number. -/
def State.waitLane (s : State) (r : TRef) (i : Instr) (mark : Nat) (due : Option Fail) (room : Bool) (slot : Nat × Nat) : State :=
  { s with nextOp := s.nextOp + 1 }.modThread r fun t => t.waitAt i mark due room slot

/-- The word is not looked at yet, whatever its checks say: a fence of its thread, a store to scratch that its records may lie in, or a lower lane comes first
(R85, R227, R247). -/
def State.notYet (s : State) (r : TRef) (i : Instr) (slot : Nat × Nat) : Bool :=
  s.fenceHolds r i || (readsRecord i && s.scratchPending r) || (inLaneOrder i && s.laneBehind slot)

/-- The tables that failed checks walked through are read: entries in a pending tower or a hole raise the event (R19). -/
def State.noteFails (s : State) (c : Ctx) (fs : List Fail) : State :=
  (fs.filter (·.walked)).foldl (fun s f => s.noteWalk (s.walkKeys c.core c.asid f.addr)) s

/-- One active thread performs a suspended word; the word is given the thread, the mark and its operation number; due: a cause that was met while the word could
not be looked at yet, beside those of its own checks (R90); slot: its batch and lane. -/
def State.laneGo (s0 : State) (c : Ctx) (i : Instr) (mark : Nat) (due : Option Fail) (slot : Nat × Nat) (word : Ctx → Nat → Nat → State → Lane) : State :=
  let s := s0.settleFences c.t.ref
  let common := if mark = 0 then due.toList ++ c.shared i ++ c.fallThrough else []
  if mark = 0 && s.notYet c.t.ref i slot then s.waitLane c.t.ref i 0 (lowest common) false slot
  else match word c mark s.nextOp { s with nextOp := s.nextOp + 1 } with
  | .fail fs => ((if mark = 0 then s else s.unlock mark).noteFails c fs).stopWith c.t.ref (due.toList ++ c.shared i ++ fs ++ c.fallThrough)
  | .refuse s1 fs => ((if mark = 0 then s1 else s1.unlock mark).noteFails c fs).stopWith c.t.ref (due.toList ++ c.shared i ++ fs ++ c.fallThrough)
  | .hold m room => if common.isEmpty then s.waitLane c.t.ref i m none room slot else s.stopWith c.t.ref common
  | .keep s1 m =>
    if common.isEmpty then s1.modThread c.t.ref fun t => t.waitAt i m none false slot else s.stopWith c.t.ref common
  | .done s1 st =>
    if common.isEmpty then s1.modThread c.t.ref fun t => { t.opens i s.nextOp (returnsData i) with status := st } else s.stopWith c.t.ref common

/-- One thread of the gang at a suspended word of a batch. drains: it first waits for the thread's open pending sets (R33). -/
def State.lane (s : State) (i : Instr) (drains : Bool) (batch : Nat) (word : Ctx → Nat → Nat → State → Lane) (r : TRef) : State :=
  match s.ctx? r with
  | none => s
  | some c =>
    if c.t.status ≠ .ready then s
    else if c.t.guardedOff then
      match lowest c.fallThrough with
      | some f => s.takeCause r f
      | none => s.modThread r Thread.step
    else if drains && c.t.awaiting && (c.shared i).isEmpty then
      { s with nextOp := s.nextOp + 1 }.modThread r fun t => { t with status := .draining i, slot := (batch, s.gang.idxOf r) }
    else s.laneGo c i 0 none (batch, s.gang.idxOf r) word

/-- A suspended word: the threads of the gang in ascending lane order (R85). -/
def State.long (s : State) (i : Instr) (word : Ctx → Nat → Nat → State → Lane) : Host.Outcome State Fault Refusal :=
  finish s (if s.refusesPrivilege i then s.takeAll (Cause.privilege.at_ 0) else s.gang.foldl (fun t r => t.lane i false s.nextOp word r) s)

/-- A suspended word that first waits for the open pending sets: WAITP and QWAIT. -/
def State.longDraining (s : State) (i : Instr) (word : Ctx → Nat → Nat → State → Lane) : Host.Outcome State Fault Refusal :=
  finish s (s.gang.foldl (fun t r => t.lane i true s.nextOp word r) s)

end Sys2Proof.Machine
end

