-- ==== Sys2Proof/Machine/Fences.lean ====
section
/-! DEFINITION. Releases and acquires (R235, R236, R247) and the FENCE words. -/

namespace Sys2Proof.Machine

/-- The code of a scope as a cause reports it (R38, R277). -/
def scopeCode : Scope → Nat
  | .team => 0
  | .cluster => 1
  | .die => 2
  | .package => 3
  | .system => 4
  | .named i => 8 + i.toNat

/-- SCOPE_NOT_MEMBER for a named scope that does not hold the thread's core (R207, R247). -/
def State.scopeFails (s : State) (c : Ctx) (sc : Scope) : List Fail :=
  when (!s.isMember c.t.ref.grid c.core sc) (Cause.scopeNotMember.at_ (scopeCode sc))

/-- A fence in one thread (R247): past its stop it is performed at once, or stands until it can be while register words go on. -/
def fenceWord (acq rel : Bool) (sc : Scope) (c : Ctx) (_mark op : Nat) (s : State) : Lane :=
  let f : FenceRec := { op := op, thread := c.t.ref, acq := acq, rel := rel, scope := sc }
  Lane.check (s.scopeFails c sc) <|
    if s.fenceDone c.core f && !(s.fences.any fun x => x.thread = c.t.ref) then .pass (if acq then s.acquire c.t.ref.grid c.core sc else s)
    else .pass { s with fences := s.fences ++ [f] }

/-- FENCE.ACQ. -/
def execFenceAcq (l : BitVec 4) (sc : Scope) (s : State) : Host.Outcome State Fault Refusal := s.long (.fenceAcq l sc) (fenceWord true false sc)

/-- FENCE.REL. -/
def execFenceRel (l : BitVec 4) (sc : Scope) (s : State) : Host.Outcome State Fault Refusal := s.long (.fenceRel l sc) (fenceWord false true sc)

/-- FENCE.AR. -/
def execFenceAr (l : BitVec 4) (sc : Scope) (s : State) : Host.Outcome State Fault Refusal := s.long (.fenceAr l sc) (fenceWord true true sc)

end Sys2Proof.Machine
end

