-- ==== Sys2Proof/Machine/Hurdles.lean ====
section
/-! DEFINITION. Hurdles: the object and its events (R201 to R205), the HRD words (R206, R207), WAITP and HTEST (R208 to R213). -/

namespace Sys2Proof.Machine

/-! ## The object (R201, R202) -/

/-- The fields of a hurdle. flags is word 3. -/
structure HurdleWords where
  phase : Nat
  arrivals : Nat
  reload : Nat
  bytes : Int
  flags : Nat
  deriving DecidableEq, Repr

/-- The fields in 16 bytes. -/
def hurdleOf (bs : List Byte) : HurdleWords :=
  { phase := fld bs 0 4, reload := fld bs 4 2, arrivals := fld bs 6 2, bytes := (BitVec.ofNat 32 (fld bs 8 4)).toInt, flags := fld bs 12 4 }

/-- The 16 bytes of the fields. -/
def HurdleWords.bytes16 (h : HurdleWords) : List Byte :=
  leBytes h.phase 4 ++ leBytes h.reload 2 ++ leBytes h.arrivals 2 ++ leBytes (BitVec.ofInt 32 h.bytes).toNat 4 ++ leBytes h.flags 4

/-- A flag of word 3: 0 OVER, 1 ERR, 2 ABANDONED, 3 TIMEOUT, 4 EXPORT. -/
def HurdleWords.flag (h : HurdleWords) (k : Nat) : Bool := h.flags.testBit k

/-- Flags set in word 3. -/
def HurdleWords.set (h : HurdleWords) (mask : Nat) : HurdleWords := { h with flags := h.flags ||| mask }

/-- The tag of a hurdle (R202). -/
def State.tag? (s : State) (g i off : Nat) : Option HurdleTag := s.hurdles.find? fun h => h.grid = g && h.team = i && h.off = off

/-- Bytes of a team's scratch lie in a tagged hurdle (R202). -/
def State.tagHit (s : State) (g i off n : Nat) : Bool := s.hurdles.any fun h => h.grid = g && h.team = i && overlap off n h.off 16

/-- Bytes that a unit of the device stores in a team's scratch: those of a tagged hurdle, which nothing but the events of R203 changes, stay (log 50). -/
def State.teamLand (s : State) (t : Team) (off : Nat) (bs : List Byte) : State :=
  if s.tagHit t.grid t.idx off bs.length then
    (List.range bs.length).foldl (fun s i => if s.tagHit t.grid t.idx (off + i) 1 then s
      else match s.team? t.grid t.idx with
        | some u => s.teamWrite u (off + i) [bs.getD i 0]
        | none => s) s
  else s.teamWrite t off bs

/-- The hurdle's fields as they stand. -/
def State.hurdle (s : State) (t : Team) (off : Nat) : HurdleWords := hurdleOf (s.teamRead t off 16)

/-! ## Waiters (R209 to R211) -/

/-- The acquires of a WAITP that observed phases from p on (R211). -/
def State.waitAcquire (s : State) (c : Ctx) (tag : HurdleTag) (p phase : Nat) : State :=
  let seen := tag.past.filter fun x => (BitVec.ofNat 32 (phase + 2 ^ 33 - 1 - x.1)).toNat < (BitVec.ofNat 32 (phase + 2 ^ 32 - p)).toNat
  (seen.flatMap fun x => x.2.scopes).foldl (fun s sc => s.acquire c.t.ref.grid c.core sc) s

/-- The awaited phase has completed: the signed difference is positive (R209). -/
def phasePassed (phase p : Nat) : Bool := decide (0 < (BitVec.ofNat 32 phase - BitVec.ofNat 32 p).toInt)

/-- A waiting thread tested against the hurdle: it returns, takes HURDLE_ERROR, or waits on. -/
def State.testWaiter (s : State) (off : Nat) (r : TRef) : State :=
  match s.ctx? r with
  | none => s
  | some c =>
    match c.t.status, s.tag? r.grid r.team off with
    | .waitHurdle o p d _, some tag =>
      if o ≠ off then s
      else
        let h := s.hurdle c.team off
        if phasePassed h.phase p then
          (s.waitAcquire c tag p h.phase).modThread r fun t => { (t.wr d (BitVec.ofNat 32 h.flags)).step with status := .ready }
        else if h.flag 0 then s.takeCause r (Cause.hurdleError.at_ off)
        else s
    | .waitHurdle o _ _ _, none => if o ≠ off then s else s.takeCause r (Cause.hurdleError.at_ off)
    | _, _ => s

/-- The threads waiting on a hurdle, lowest sr.tid first. -/
def State.waitersOf (s : State) (g i off : Nat) : List TRef :=
  byTid ((s.threads.filter fun t => t.ofTeam g i && match t.status with | .waitHurdle o _ _ _ => o == off | _ => false).map (·.ref))

/-- Every waiter of a hurdle tested after a change. -/
def State.testWaiters (s : State) (g i off : Nat) : State := (s.waitersOf g i off).foldl (fun s r => s.testWaiter off r) s

/-! ## Events (R203) -/

/-- A scope joined to a set. -/
def ScopeSet.join (x : ScopeSet) (scs : List Scope) (chs : List ChanKey) : ScopeSet := { scopes := x.scopes ++ scs, channels := x.channels ++ chs }

/-- The completion check (R203). -/
def HurdleWords.completes (h : HurdleWords) : Bool := !h.flag 0 && h.arrivals == 0 && h.bytes == 0

/-- An event on a hurdle: the change, the scopes recorded, then the completion check; discarded where the bytes are not tagged (R202). -/
def State.hurdleEvent (s : State) (g i off : Nat) (scs : List Scope) (chs : List ChanKey) (f : HurdleWords → HurdleWords) : State :=
  match s.team? g i, s.tag? g i off with
  | some t, some tag =>
    let h := f (s.hurdle t off)
    let now := tag.now.join scs chs
    let same (x : HurdleTag) : Bool := x.grid = g && x.team = i && x.off = off
    if h.completes then
      let h1 := { h with phase := (h.phase + 1) % 2 ^ 32, arrivals := h.reload, bytes := 0 }
      let s1 := { s with hurdles := updWhere same (fun x => { x with now := { scopes := [], channels := [] }, past := x.past ++ [(h.phase, now)] }) s.hurdles }
      (s1.teamWrite t off h1.bytes16).testWaiters g i off
    else
      let s1 := { s with hurdles := updWhere same (fun x => { x with now := now }) s.hurdles }
      (s1.teamWrite t off h.bytes16).testWaiters g i off
  | _, _ => s

/-- Arrival of n. -/
def HurdleWords.arrive (h : HurdleWords) (n : Nat) : HurdleWords :=
  if h.arrivals < n then { h.set 1 with arrivals := 0 } else { h with arrivals := h.arrivals - n }

/-- EXPECT of b. -/
def HurdleWords.expect (h : HurdleWords) (b : Nat) : HurdleWords :=
  if h.bytes + b > 0x7FFFFFFF then { h.set 1 with bytes := 0x7FFFFFFF } else { h with bytes := h.bytes + b }

/-- Byte credit of b. -/
def HurdleWords.credit (h : HurdleWords) (b : Nat) : HurdleWords :=
  let h1 := { h with bytes := h.bytes - b }
  if h1.bytes < 0 then h1.set 1 else h1

/-- An arrival with flags set first (R203). -/
def State.arrive (s : State) (g i off n : Nat) (scs : List Scope) (chs : List ChanKey) (flags : Nat) : State :=
  s.hurdleEvent g i off scs chs fun h => (h.set flags).arrive n

/-- A byte credit with flags set first. -/
def State.credit (s : State) (g i off b : Nat) (scs : List Scope) (flags : Nat) : State :=
  s.hurdleEvent g i off scs [] fun h => (h.set flags).credit b

/-- The HINIT event; waiting threads take HURDLE_ERROR (R207, R210). -/
def State.hinit (s : State) (t : Team) (off : Nat) (count : Nat) (exported : Bool) : State :=
  let waiting := s.waitersOf t.grid t.idx off
  let rest := s.hurdles.filter fun h => !(h.grid = t.grid && h.team = t.idx && h.off = off)
  let h : HurdleWords := { phase := 0, arrivals := count, reload := count, bytes := 0, flags := if exported then 16 else 0 }
  let s1 := ({ s with hurdles := rest ++ [{ grid := t.grid, team := t.idx, off := off, now := { scopes := [], channels := [] }, past := [] }] } : State).teamWrite t off h.bytes16
  waiting.foldl (fun s r => s.takeCause r (Cause.hurdleError.at_ off)) s1

/-- HINIT with field 0: the tag goes, the bytes stay. -/
def State.untag (s : State) (t : Team) (off : Nat) : State :=
  let waiting := s.waitersOf t.grid t.idx off
  let s1 := { s with hurdles := s.hurdles.filter fun h => !(h.grid = t.grid && h.team = t.idx && h.off = off) }
  waiting.foldl (fun s r => s.takeCause r (Cause.hurdleError.at_ off)) s1

/-! ## Scopes recorded (R205) -/

/-- The narrowest fixed scope holding two cores of different teams. -/
def coreScope (a b : Nat) : Scope :=
  if clusterOfCore a = clusterOfCore b then .cluster else if dieOfCore a = dieOfCore b then .die else .package

/-- The fixed scope of a rank 0 to 3. -/
def rankScope : Nat → Scope
  | 0 => .team
  | 1 => .cluster
  | 2 => .die
  | _ => .package

/-! ## HRD words (R206, R207) -/

/-- The offset checks every word on a hurdle makes. -/
def Ctx.hurdleChecks (c : Ctx) (h : Nat) : List Fail :=
  when (h % 16 ≠ 0) (Cause.alignment.at_ h) ++ when (c.scratchSize < h + 16) (Cause.permission.at_ h)

/-- HURDLE_ERROR where the offset names no tagged hurdle. -/
def State.untagged (s : State) (c : Ctx) (h : Nat) : List Fail :=
  when (s.tag? c.t.ref.grid c.t.ref.team h).isNone (Cause.hurdleError.at_ h)

/-- The aperture address of a byte of the thread's team scratch (R110). -/
def Ctx.apertureOf (c : Ctx) (off : Nat) : Nat := apertureAddr c.core (c.team.scratch + off)

/-- RANGE_LOCK where scratch bytes meet any range lock of the die (R130). -/
def State.scratchLocked (s : State) (c : Ctx) (off n : Nat) : Bool := s.lockHit c.die (.global c.asid) (c.apertureOf off) n false

/-- HINIT in one thread. -/
def hinitWord (a b : Reg) (c : Ctx) (_mark _op : Nat) (s : State) : Lane :=
  let h := (c.t.rd a).toNat
  let v := (c.t.rd b).toNat
  let count := v % 65536
  Lane.check (c.hurdleChecks h
      ++ when (b ≠ 0 && (count = 0 || v / 65536 % 32768 ≠ 0)) (Cause.permission.at_ h)
      ++ when (s.scratchLocked c h 16) (Cause.rangeLock.at_ h)) <|
    .pass (if b = 0 then s.untag c.team h else s.hinit c.team h count (v / 2 ^ 31 = 1))

/-- HINIT. -/
def execHinit (l : BitVec 4) (a b : Reg) (s : State) : Host.Outcome State Fault Refusal := s.long (.hinit l a b) (hinitWord a b)

/-- The count of an arrival: 1 for field 0. -/
def Ctx.arriveCount (c : Ctx) (b : Reg) : Nat := if b = 0 then 1 else (c.t.rd b).toNat

/-- The checks of ARRIVE. -/
def State.arriveChecks (s : State) (c : Ctx) (a b : Reg) : List Fail :=
  let h := (c.t.rd a).toNat
  let n := c.arriveCount b
  c.hurdleChecks h ++ s.untagged c h ++ when (n = 0 || 65535 < n) (Cause.permission.at_ h)

/-- ARRIVE.REL in one thread: the release, then the arrival with the scope. -/
def arriveRelWord (sc : Scope) (a b : Reg) (c : Ctx) (mark op : Nat) (s : State) : Lane :=
  let m := if mark = 0 then op else mark
  Lane.check (if mark = 0 then s.arriveChecks c a b ++ s.scopeFails c sc else []) <|
    if s.released c.t.ref c.core sc m then .pass (s.arrive c.t.ref.grid c.t.ref.team (c.t.rd a).toNat (c.arriveCount b) [sc] [] 0)
    else .hold m false

/-- ARRIVE.REL. -/
def execArriveRel (l : BitVec 4) (sc : Scope) (a b : Reg) (s : State) : Host.Outcome State Fault Refusal :=
  s.long (.arriveRel l sc a b) (arriveRelWord sc a b)

/-- ARRIVE.RLX in one thread: the arrival with no scope. -/
def arriveRlxWord (a b : Reg) (c : Ctx) (_mark _op : Nat) (s : State) : Lane :=
  Lane.check (s.arriveChecks c a b) (.pass (s.arrive c.t.ref.grid c.t.ref.team (c.t.rd a).toNat (c.arriveCount b) [] [] 0))

/-- ARRIVE.RLX. -/
def execArriveRlx (l : BitVec 4) (a b : Reg) (s : State) : Host.Outcome State Fault Refusal := s.long (.arriveRlx l a b) (arriveRlxWord a b)

/-- EXPECT in one thread. -/
def expectWord (a b : Reg) (c : Ctx) (_mark _op : Nat) (s : State) : Lane :=
  let h := (c.t.rd a).toNat
  let n := (c.t.rd b).toNat
  Lane.check (c.hurdleChecks h ++ s.untagged c h ++ when (0x7FFFFFFF < n) (Cause.permission.at_ h))
    (.pass (s.hurdleEvent c.t.ref.grid c.t.ref.team h [] [] fun w => w.expect n))

/-- EXPECT. -/
def execExpect (l : BitVec 4) (a b : Reg) (s : State) : Host.Outcome State Fault Refusal := s.long (.expect l a b) (expectWord a b)

/-! ## WAITP, HTEST (R208 to R213) -/

/-- WAITP in one thread: a passed phase returns at once; an error or a timeout of 0 is taken at the word; else the thread waits. -/
def waitpWord (d a b : Reg) (c : Ctx) (_mark _op : Nat) (s : State) : Lane :=
  let off := (c.t.rd a).toNat
  Lane.check (c.hurdleChecks off ++ s.untagged c off) <|
    match s.tag? c.t.ref.grid c.t.ref.team off with
    | none => .fail [Cause.hurdleError.at_ off]
    | some tag =>
      let h := s.hurdle c.team off
      let p := (c.t.rd d).toNat
      let limit := (c.t.rd b).toNat * 1024
      if s.seenPending c.t.ref then .hold 0 false
      else if phasePassed h.phase p then
        .pass ((s.waitAcquire c tag p h.phase).modThread c.t.ref fun t => t.wr d (BitVec.ofNat 32 h.flags))
      else if h.flag 0 then .fail [Cause.hurdleError.at_ off]
      else if b ≠ 0 && limit = 0 then .fail [Cause.waitTimeout.at_ off]
      else .done s (.waitHurdle off p d (if b = 0 then none else some (s.clockOf c.die + limit)))

/-- WAITP: a blocking point; it first waits for the open pending sets (R33). -/
def execWaitp (d a b : Reg) (s : State) : Host.Outcome State Fault Refusal := s.longDraining (.waitp d a b) (waitpWord d a b)

/-- HTEST in one thread: PHASE and word 3, read at one moment. -/
def htestWord (d a : Reg) (c : Ctx) (_mark _op : Nat) (s : State) : Lane :=
  let off := (c.t.rd a).toNat
  Lane.check (c.hurdleChecks off ++ s.untagged c off) <|
    let h := s.hurdle c.team off
    .pass (s.modThread c.t.ref fun t => t.wrList d 0 [BitVec.ofNat 32 h.phase, BitVec.ofNat 32 h.flags])

/-- HTEST. -/
def execHtest (d a : Reg) (s : State) : Host.Outcome State Fault Refusal := s.long (.htest d a) (htestWord d a)

/-- WAITP_TIMEOUT: the thread's deadline has passed on the die it waits on. An evicted thread takes the cause when its team resumes (R212, R287). -/
def execWaitpTimeout (t : TRef) (s : State) : Host.Outcome State Fault Refusal :=
  finish s (match s.ctx? t with
    | none => s
    | some c =>
      match c.t.status with
      | .waitHurdle off _ _ (some limit) => if limit ≤ s.clockOf c.die then s.takeCause t (Cause.waitTimeout.at_ off) else s
      | _ => s)

end Sys2Proof.Machine
end

