-- ==== Sys2Proof/Machine/Rows.lean ====
section
/-! DEFINITION. The rows of engine operations: where their bytes come from and go to, what of them is sent, and what still has to be (R131, R175, R194, R255 to R257,
R266, R267). -/

namespace Sys2Proof.Machine

/-- This device's die as a destination. -/
def State.here (s : State) (die : Nat) : DieId := { dev := s.boot.device, die := die }

/-- The destination and target of a fabric address (R258). -/
def fabricDst (va : Nat) : DieId := { dev := fabricDev va, die := fabricDie va }
/-- The region byte a fabric address names. -/
def fabricTarget (va : Nat) : Target := .region (fabricRegion va) (fabricOff va)

/-- A side moved on. -/
def Side.plus (x : Side) (n : Nat) : Side :=
  match x with
  | .none => .none
  | .global va => .global (va + n)
  | .scratch off => .scratch (off + n)
  | .obuf off => .obuf (off + n)
  | .bstore off => .bstore (off + n)
  | .fabric va => .fabric (va + n)

/-! ## Rows of an operation (R131, R266) -/

/-- The index a row uses, once read. -/
def EngineOp.index (e : EngineOp) (row : Nat) : Nat := ((e.idx.find? fun p => p.1 = row).map (·.2)).getD 0

/-- Where a row's first byte goes. -/
def EngineOp.dstRow (e : EngineOp) (row : Nat) : Side :=
  match e.kind with
  | .cpys _ _ => e.dst.plus (e.index row * e.dstride)
  | .rmc slots doff => match slots[row]? with
    | some (_, base) => if isFabric base then .fabric (base + doff) else .global ((base + doff) % 2 ^ 64)
    | none => .none
  | _ => e.dst.plus (row * e.dstride)

/-- The die and target of a byte of a row that goes to a fabric address. A row of RMC goes to its slot's die and region, at OFFSET plus DOFF: one past the region is
refused there (R266, R270). -/
def EngineOp.fabricTo (e : EngineOp) (row lo va : Nat) : DieId × Target :=
  match e.kind with
  | .rmc slots doff => match slots[row]? with
    | some (d, base) => (d, .region (fabricRegion base) (fabricOff base + doff + lo))
    | none => (fabricDst va, fabricTarget va)
  | _ => (fabricDst va, fabricTarget va)

/-- Where a row's first byte comes from, for the kinds that copy bytes. -/
def EngineOp.srcRow (e : EngineOp) (row : Nat) : Side :=
  match e.kind with
  | .cpyg _ _ => e.src.plus (e.index row * e.sstride)
  | .rmc _ _ => e.src
  | _ => e.src.plus (row * e.sstride)

/-- Bytes [a, b) of a row are all landed or on their way. -/
def EngineOp.sentIn (e : EngineOp) (row a b : Nat) : Bool :=
  row < e.frow || decide (b - a ≤ ((e.pieces.filter fun p => p.row = row && p.sent).map fun p => min b (p.lo + p.len) - max a p.lo).sum)

/-- Bytes [a, b) of a row are all taken up: landed, on their way, or their source is being asked. -/
def EngineOp.takenIn (e : EngineOp) (row a b : Nat) : Bool :=
  row < e.frow || decide (b - a ≤ ((e.pieces.filter fun p => p.row = row).map fun p => min b (p.lo + p.len) - max a p.lo).sum)

/-! ## Sources of the ragged words (R167, R175 to R179) -/

/-- Bytes of an element of a shape record's format. -/
def shapeSize (format : Nat) : Nat :=
  match format with
  | 0 | 1 | 5 => 2
  | 2 | 3 => 1
  | 7 => 8
  | _ => 4

/-- seq(t): the sequence of a packed row, none for a padding row (R168). -/
def Shape.seq (x : Shape) (t : Nat) : Option Nat :=
  if t < x.t then (List.range x.s).find? fun i => x.bounds.getD i 0 ≤ t && t < x.bounds.getD (i + 1) 0 else none

/-- The address of an element (R167). -/
def Shape.at_ (x : Shape) (t h c : Nat) : Nat := (x.dataVa + t * x.rstride + h * x.hstride + c * shapeSize x.format) % 2 ^ 64

/-- How a shape record's elements are computed: FP32, FP64, INT32. -/
inductive SegType where
  | f32 | f64 | i32
  deriving DecidableEq, Repr

/-- The type of a format. -/
def segType (format : Nat) : SegType :=
  match format with
  | 7 => .f64
  | 17 => .i32
  | _ => .f32

/-- Output bytes of an element. -/
def SegType.size : SegType → Nat
  | .f64 => 8
  | _ => 4

/-- The ranges of memory that bytes lo to lo + n of an output row of a ragged word are read from. -/
def EngineOp.sources (e : EngineOp) (row lo n : Nat) : List (Nat × Nat) :=
  let column (x : Shape) (head col0 first count : Nat) : List (Nat × Nat) :=
    let size := (segType x.format).size
    let j := lo / size
    (List.range count).map fun r => (x.at_ (first + r) head (col0 + j), ((lo + n - 1) / size - j + 1) * shapeSize x.format)
  match e.kind with
  | .rgld x row0 head col0 _ _ => if row0 + row < x.t then [(x.at_ (row0 + row) head col0 + lo, n)] else []
  | .segred x _ first _ col0 _ head _ =>
    let a := x.bounds.getD (first + row) 0
    column x head col0 a (x.bounds.getD (first + row + 1) 0 - a)
  | .segscan x inclusive first _ col0 _ head =>
    let t := x.bounds.getD first 0 + row
    let a := x.bounds.getD ((x.seq t).getD 0) 0
    column x head col0 a (t - a + (if inclusive then 1 else 0))
  | .segnorm _ _ _ _ _ cols _ => match e.src.plus (row * e.sstride) with
    | .global va => [(va, 4 * cols)]
    | _ => []
  | _ => []

/-! ## Where a ROUTE and an RRED go (R194, R267) -/

/-- An endpoint of a context's directory. -/
def State.endpoint? (s : State) (asid id : Nat) : Option Endpoint := s.endpoints.find? fun e => e.asid = asid && e.id = id

/-- The die a routing id's row travels to: the endpoint's; for another device die 0, the directory there being its own (log 34). -/
def State.idDie (s : State) (asid id : Nat) : DieId :=
  if id / 65536 = s.boot.device then s.here (((s.endpoint? asid (id % 65536)).map fun e => dieOfCore e.core).getD 0) else { dev := id / 65536, die := 0 }

/-- The switch die that holds the slots of a collective id: one in service, by the id (R267); DESIGN CHOICE (log 30). -/
def State.switchOf (s : State) (c : Contribution) : Nat :=
  let n := c.coll.toNat % 2
  if s.boot.passed (switchEntry n) then n else 1 - n

/-- The switch die of a contribution as a destination: dies 4 and 5 of the package. -/
def State.switchDie (s : State) (c : Contribution) : DieId := s.here (4 + s.switchOf c)

/-! ## What an operation still has to send (R256) -/

/-- A byte of an operation's context is homed on a die beside the one that issued it: it travels on the operation's channel (R255). -/
def State.homedOn (s : State) (e : EngineOp) (va : Nat) (d : DieId) (r : Right) : Bool :=
  match s.resolve e.core e.asid e.system va 1 r with
  | .ok p => p.home != dieOfCluster e.cluster && s.here p.home == d
  | .error _ => false

/-- Part of the bytes at a side is homed on a die and not done; done: by first and last byte counted from there. -/
def State.sideRests (s : State) (e : EngineOp) (x : Side) (n : Nat) (d : DieId) (r : Right) (done : Nat → Nat → Bool) : Bool :=
  match x with
  | .global va => (pageChunks va n).any fun c => s.homedOn e c.1 d r && !done (c.1 - va) (c.1 - va + c.2)
  | .fabric va => (⟨fabricDev va, fabricDie va⟩ : DieId) == d && !done 0 n
  | _ => false

/-- A row of the operation still has a write to send to a die, or a read to ask of it. A row whose index is not read yet may have any below its limit. -/
def State.rowRests (s : State) (e : EngineOp) (row : Nat) (d : DieId) : Bool :=
  let n := e.rowBytes
  let unread := !(e.idx.any fun p => p.1 = row)
  let dst (x : Side) : Bool := s.sideRests e x n d .write (e.sentIn row)
  let src (x : Side) : Bool := s.sideRests e x n d .read (e.takenIn row)
  match e.kind with
  | .cpyg _ limit => dst (e.dstRow row) || (if unread then (List.range limit).any fun i => src (e.src.plus (i * e.sstride)) else src (e.srcRow row))
  | .cpys _ limit => src (e.srcRow row) || (if unread then (List.range limit).any fun i => dst (e.dst.plus (i * e.dstride)) else dst (e.dstRow row))
  | .rmc slots _ => src (e.srcRow row) || (!e.sentIn row 0 n && (slots[row]?).any fun x => x.1 == d)
  | .cpy | .cpyf _ | .rcpy => src (e.srcRow row) || dst (e.dstRow row)
  | _ => dst (e.dstRow row) || (!e.takenIn row 0 n && (e.sources row 0 n).any fun x => (pageChunks x.1 x.2).any fun c => s.homedOn e c.1 d .read)

/-- The operation still has something to send to a die. An RRED sends its contribution to a switch die and its result to the homes of DST; a ROUTE sends its rows as
it ends. -/
def State.restsOn (s : State) (e : EngineOp) (d : DieId) : Bool :=
  e.stopped.isNone && match e.kind with
    | .rred c => (c.data.length < e.rowBytes
          && (d == s.switchDie c || s.sideRests e e.src e.rowBytes d .read fun _ b => decide (b ≤ c.data.length + (e.pieces.map (·.len)).sum)))
        || s.sideRests { e with cluster := 48 } e.dst e.rowBytes d .write (e.sentIn 0)
    | .route _ _ rtab rows _ k _ _ _ _ => (s.team? e.grid e.team).any fun u => (List.range (rows * k)).any fun i =>
        let id := leNat (s.teamRead u (rtab + 8 * i) 4)
        id != 0xFFFFFFFF && s.idDie e.asid id == d
    | .accclr _ => false
    | _ => (List.range (e.rows - e.frow)).any fun k => s.rowRests e (e.frow + k) d

end Sys2Proof.Machine
end

