-- ==== Sys2Proof/Machine/ChanCore.lean ====
section
/-! DEFINITION. The source side of channels (R255 to R265, R269): operations in issue order, packets numbered and sent, what a JOIN holds, what is broken. -/

namespace Sys2Proof.Machine

/-! ## Channels and entries -/

/-- The channel of a thread's team. -/
def Ctx.chan (c : Ctx) (ch : Nat) : ChanKey := .team c.t.ref.grid c.t.ref.team ch

/-- A channel's record; one that has carried nothing is at epoch 0 (R264). -/
def State.chanRec (s : State) (k : ChanKey) : Chan :=
  (s.chans.find? fun c => c.key = k).getD { key := k, epoch := 0, nextOrd := 1, joins := [], violation := none }

/-- A channel's record put in place. -/
def State.putChan (s : State) (c : Chan) : State := { s with chans := (s.chans.filter fun x => x.key ≠ c.key) ++ [c] }

/-- A channel is BROKEN when any of its entries is (R263). -/
def State.chanBroken (s : State) (k : ChanKey) : Bool := s.srcEntries.any fun e => e.key = k && e.state = .broken

/-- The destination entry of a channel; one not in use is IDLE and numbers from 1 (R260, R263). -/
def State.entry (s : State) (k : ChanKey) (d : DieId) : SrcEntry :=
  (s.srcEntries.find? fun e => e.key = k && e.dst = d).getD
    { key := k, dst := d, state := .idle, nextSeq := 1, waiting := [], replay := [], syncs := 0, since := 0, nacked := [] }

/-- An entry put in place. -/
def State.putEntry (s : State) (e : SrcEntry) : State :=
  { s with srcEntries := (s.srcEntries.filter fun x => !(x.key = e.key && x.dst = e.dst)) ++ [e] }

/-- The die of a channel's table: the team's channel home, also while its index waits for a new attempt (R259). -/
def State.chanHome (s : State) (k : ChanKey) : Nat :=
  match k with
  | .team g i _ => match s.team? g i with
    | some t => t.homeDie
    | none => (((s.grid? g).bind fun x => x.again.find? fun a => a.idx = i).map (·.home)).getD 0
  | .rma _ => 0

/-- Entries in use in a die's channel table. -/
def State.entriesOn (s : State) (die : Nat) : Nat := (s.srcEntries.filter fun e => s.chanHome e.key = die).length

/-- The channel that is to carry a request, as long as it has not got it. -/
def AtomOpRec.awaitsChan (a : AtomOpRec) : Option ChanKey := if a.sent then none else a.chan.map (ChanKey.team a.thread.grid a.thread.team)

/-- Requests of batches not yet whole that a channel is to carry to a destination. -/
def State.unsentTo (s : State) (k : ChanKey) (d : DieId) : Nat := (s.atoms.filter fun a => a.awaitsChan == some k && a.dst == d).length

/-- Entries that such requests of teams with a channel home on a die still need. -/
def State.entriesDue (s : State) (die : Nat) : List (ChanKey × DieId) :=
  ((s.atoms.filterMap fun a => a.awaitsChan.map fun k => (k, a.dst)).filter fun x =>
    s.chanHome x.1 == die && !(s.srcEntries.any fun e => e.key = x.1 && e.dst = x.2)).eraseDups

/-- R259, R260: an entry can be had for the destination, and fewer than 65,536 packets stand unacknowledged there, those of batches not yet whole counted. -/
def State.roomFor (s : State) (k : ChanKey) (d : DieId) : Bool :=
  let due := s.entriesDue (s.chanHome k)
  (s.srcEntries.any (fun e => e.key = k && e.dst = d) || due.contains (k, d) || s.entriesOn (s.chanHome k) + due.length < 65536)
    && (s.entry k d).waiting.length + (s.entry k d).replay.length + s.unsentTo k d < 65536

/-- A request of an earlier batch has not been given to the channel yet: an operation numbered op comes after it in the issue order (R256). -/
def State.unsentBefore (s : State) (k : ChanKey) (op : Nat) : Bool := s.atoms.any fun a => a.awaitsChan == some k && a.batch < op

/-- An operation numbered op, or of the batch so numbered, can go on the channel to a destination now. -/
def State.chanTakes (s : State) (k : ChanKey) (d : DieId) (op : Nat) : Bool := !s.unsentBefore k op && s.roomFor k d

/-! ## Operations -/

/-- An operation on a channel is over: every packet acknowledged, refused or lost, and returned data in (R262). -/
def ChanOp.isOver (o : ChanOp) : Bool := o.left == 0 && !o.awaits

/-- Some operation of a channel below an issue number is not over. -/
def State.pendingBelow (s : State) (k : ChanKey) (ord : Nat) : Bool := s.chanOps.any fun o => o.key = k && o.ord < ord && !o.isOver

/-- The channel of the same source with another number. -/
def chanNumbered (k : ChanKey) (ch : Nat) : ChanKey :=
  match k with
  | .team g i _ => .team g i ch
  | .rma q => .rma q

/-- R269: a JOIN holds the operation numbered ord of a channel. -/
def State.joinHolds (s : State) (k : ChanKey) (ord : Nat) : Bool :=
  (s.chanRec k).joins.any fun j => j.at_ ≤ ord && s.pendingBelow (chanNumbered k j.src) j.upto

/-! ## Engine operations on a channel -/

/-- R256, R257: the packets of an engine operation for a die come before those of later operations for it, so these wait until it has sent its last one there. -/
def State.engineHolds (s : State) (k : ChanKey) (d : DieId) (ord : Nat) : Bool :=
  s.engines.any fun e => e.ord ≠ 0 && e.ord < ord && k = .team e.grid e.team e.ch && s.restsOn e d

/-! ## Sending -/

/-- A packet leaves: one for this package is in flight there, one for another device has left, one with no path to its destination is lost. -/
def State.launchPacket (s : State) (p : Packet) : State :=
  if p.dst.dev = s.boot.device && !s.unreachable.contains p.dst then { s with net := s.net ++ [p] } else s

/-- The packets of an entry that may go now, numbered and kept for replay (R260, R262); RESYNC and BROKEN send nothing (R263). -/
def State.pumpEntry (s : State) (e0 : SrcEntry) : State :=
  let e := s.entry e0.key e0.dst
  if e.state = .resync || e.state = .broken then s
  else
    let ready := (e.waiting.takeWhile fun w => !s.joinHolds e.key w.1 && !s.engineHolds e.key e.dst w.1).take (65536 - e.replay.length)
    if ready.isEmpty then s
    else
      let now := s.clockOf (s.chanHome e.key)
      let epoch := (s.chanRec e.key).epoch
      let sent := ready.zipIdx.map fun w => { w.1.2 with seq := e.nextSeq + BitVec.ofNat 32 w.2, epoch := epoch }
      let s1 := s.putEntry { e with state := .active, nextSeq := e.nextSeq + BitVec.ofNat 32 ready.length,
                                    waiting := e.waiting.drop ready.length, replay := e.replay ++ sent.map fun p => (now, p) }
      sent.foldl State.launchPacket s1

/-- Every entry sends what it may: after an operation is accepted, an acknowledgement, a resynchronisation or a JOIN's end. -/
def State.pump (s : State) : State := s.srcEntries.foldl State.pumpEntry s

/-- One part of an operation: the destination, kind and body of a packet. -/
structure Part where
  dst : DieId
  kind : PKind
  body : Body
  deriving DecidableEq, Repr

/-- The packets of a row or contribution: 256 bytes in each but the last, with which the die has them all (R262). -/
def rowPackets (d : DieId) (bs : List Byte) (b : Body) : List Part :=
  ((List.range ((bs.length - 1) / 256)).map fun i => ⟨d, .data, .piece ((bs.drop (256 * i)).take 256)⟩) ++ [⟨d, .data, b⟩]

/-- A packet put among those that wait, behind every packet of its operation and of earlier ones (R256). -/
def putWaiting (ord : Nat) (p : Packet) : List (Nat × Packet) → List (Nat × Packet)
  | [] => [(ord, p)]
  | w :: ws => if ord < w.1 then (ord, p) :: w :: ws else w :: putWaiting ord p ws

/-- A packet of an operation waits at its entry. -/
def State.enqueue (s : State) (k : ChanKey) (from_ asid op ord part : Nat) (x : Part) : State :=
  let e := s.entry k x.dst
  s.putEntry { e with waiting := putWaiting ord { src := k, srcAt := s.here from_, dst := x.dst, asid := asid, kind := x.kind, seq := 0, epoch := 0,
                                                  op := op, part := part, body := x.body } e.waiting }

/-- The operation's next issue number on its channel. -/
def State.takeOrd (s : State) (k : ChanKey) : Nat × State :=
  let c := s.chanRec k
  (c.nextOrd, s.putChan { c with nextOrd := c.nextOrd + 1 })

/-- An operation accepted on a channel (R256) under number op with an issue number already taken: its parts wait at their entries and go when they may.
first: the number of the first part. -/
def State.sendParts (s : State) (k : ChanKey) (from_ asid op ord first : Nat) (ps : List Part) : State :=
  let s1 := (ps.zipIdx).foldl (fun s x => s.enqueue k from_ asid op ord (first + x.2) x.1) s
  let s2 := { s1 with chanOps := updWhere (fun o => o.op = op && o.key = k) (fun o => { o with left := o.left + ps.length }) s1.chanOps }
  s2.pump

/-- An operation opened on a channel. extra: acknowledgements to come beside its packets (an engine's rows not sent yet); awaits: data are to return. -/
def State.openOp (s : State) (k : ChanKey) (op extra : Nat) (awaits : Bool) : Nat × State :=
  let (ord, s1) := s.takeOrd k
  (ord, { s1 with chanOps := s1.chanOps ++ [{ op := op, key := k, ord := ord, left := extra, awaits := awaits, refused := false, broken := false,
                                              late := false, reported := false }] })

/-- A whole operation of known parts issued on a channel. -/
def State.sendOp (s : State) (k : ChanKey) (from_ asid op : Nat) (awaits : Bool) (ps : List Part) : State :=
  let (ord, s1) := s.openOp k op 0 awaits
  s1.sendParts k from_ asid op ord 0 ps

/-! ## DRAIN and the end of operations (R270) -/

/-- Flags of a DRAIN's arrival: ERR for a refusal or break, ABANDONED for a late RRED, among operations below it not yet reported. -/
def State.drainFlags (s : State) (d : DrainRec) : Nat :=
  let e := s.chanOps.filter fun o => o.key = d.key && o.ord < d.ord && !o.reported
  (if e.any fun o => o.refused || o.broken then 2 else 0) + (if e.any fun o => o.late then 4 else 0)

/-- Records of operations that are over and have nothing left to report leave. -/
def State.sweepOps (s : State) : State :=
  { s with chanOps := s.chanOps.filter fun o => !o.isOver || ((o.refused || o.broken || o.late) && !o.reported) }

/-- A DRAIN makes its arrival (R205, R270). force: the channel broke (R265). -/
def State.fireDrain (s : State) (d : DrainRec) (force : Bool) : State :=
  let flags := s.drainFlags d ||| (if force then 2 else 0)
  let s1 := { s with
    drains := s.drains.erase d,
    chanOps := updWhere (fun o => o.key = d.key && o.ord < d.ord && o.isOver) (fun o => { o with reported := true }) s.chanOps }
  s1.arrive d.grid d.team d.hurdle 1 [.package] [] flags

/-- The oldest pending DRAIN of a channel fires while every operation below it is over. fuel bounds the DRAINs pending. -/
def State.fireDrains (s : State) (k : ChanKey) : Nat → State
  | 0 => s
  | fuel + 1 =>
    match s.drains.find? fun d => d.key = k with
    | none => s
    | some d => if s.pendingBelow k d.ord then s else (s.fireDrain d false).fireDrains k fuel

/-- After a change to a channel's operations: DRAINs, records, and what JOINs held. -/
def State.settleChan (s : State) (k : ChanKey) : State := (s.fireDrains k s.drains.length).sweepOps.pump

/-- An operation's record changed. -/
def State.modOp (s : State) (k : ChanKey) (op : Nat) (f : ChanOp → ChanOp) : State :=
  { s with chanOps := updWhere (fun o => o.key = k && o.op = op) f s.chanOps }

/-! ## JOIN, DRAIN as words -/

/-- CHANNEL_BROKEN where a channel is broken (R265). -/
def State.brokenFails (s : State) (c : Ctx) (ch : Nat) : List Fail := when (s.chanBroken (c.chan ch)) (Cause.channelBroken.at_ ch)

/-- JOIN in one thread (R269): it comes after the requests of earlier batches that its channels have not got yet (R256). -/
def joinWord (t src : BitVec 4) (c : Ctx) (_mark op : Nat) (s : State) : Lane :=
  Lane.check (s.brokenFails c t.toNat ++ s.brokenFails c src.toNat) <|
    if t = src then .pass s
    else if s.unsentBefore (c.chan t.toNat) op || s.unsentBefore (c.chan src.toNat) op then .hold 0 false
    else
      let k := s.chanRec (c.chan t.toNat)
      .pass (s.putChan { k with joins := k.joins ++ [({ at_ := k.nextOrd, src := src.toNat, upto := (s.chanRec (c.chan src.toNat)).nextOrd } : JoinRec)] })

/-- JOIN. -/
def execJoin (t src : BitVec 4) (s : State) : Host.Outcome State Fault Refusal := s.long (.join t src) (joinWord t src)

/-- DRAIN in one thread (R270). A channel 14 or 15 that holds a violation record takes REMOTE_VIOLATION and the record is cleared (R274). -/
def drainWord (ch : BitVec 4) (a : Reg) (c : Ctx) (_mark op : Nat) (s : State) : Lane :=
  let h := (c.t.rd a).toNat
  let k := s.chanRec (c.chan ch.toNat)
  Lane.check (c.hurdleChecks h ++ s.untagged c h ++ s.brokenFails c ch.toNat
      ++ (match k.violation with | some x => when (14 ≤ ch.toNat) (Cause.remoteViolation.at_ x) | none => [])) <|
    if s.unsentBefore k.key op then .hold 0 false
    else
      let s1 := { s with drains := s.drains ++ [({ key := k.key, ord := k.nextOrd, grid := c.t.ref.grid, team := c.t.ref.team, hurdle := h } : DrainRec)] }
      .pass (s1.settleChan k.key)

/-- The record that a DRAIN of a gang's thread reports is cleared as the cause is taken (R274). -/
def State.clearViolation (s : State) (i : Instr) (ch : BitVec 4) (r : TRef) : State :=
  match s.ctx? r with
  | none => s
  | some c =>
    match c.t.status with
    | .stopped (.fail f) =>
      let k := s.chanRec (c.chan ch.toNat)
      if f.cause = .remoteViolation && (c.shared i).isEmpty then s.putChan { k with violation := none } else s
    | _ => s

/-- DRAIN. -/
def execDrain (l : BitVec 4) (ch : BitVec 4) (a : Reg) (s : State) : Host.Outcome State Fault Refusal :=
  let i := Instr.drain l ch a
  finish s (if s.refusesPrivilege i then s.takeAll (Cause.privilege.at_ 0)
    else s.gang.foldl (fun t r => (t.lane i false s.nextOp (drainWord ch a) r).clearViolation i ch r) s)

end Sys2Proof.Machine
end

