-- ==== Sys2Proof/Machine/Memory.lean ====
section
/-! DEFINITION. Thread loads and stores (R109, R110, R119, R120), how and when they are performed (R113, R116, R118, R226 to R230), PREF. -/

namespace Sys2Proof.Machine

/-! ## Addresses (R109) -/

/-- The formed address of a global access: pair A plus the displacement, modulo 2^64. -/
def Thread.formed (t : Thread) (a : Reg) (off : BitVec 6) (size : Nat) : W64 := t.rd64 a + off.signExtend 64 * BitVec.ofNat 64 size

/-- The offset of a scratch or constant access: an exact integer. -/
def Thread.formedOffset (t : Thread) (a : Reg) (off : BitVec 6) (size : Nat) : Int := (t.rd a).toNat + off.toInt * size

/-- The checks of an offset in a space of limit bytes. An offset outside 32 bits stands in sr.taddr modulo 2^32. DESIGN CHOICE (log 70). -/
def offsetFails (x : Int) (size limit : Nat) : List Fail :=
  let v := (x % 2 ^ 32).toNat
  when (x % size ≠ 0) (Cause.alignment.at_ v) ++ when (x < 0 || (limit : Int) < x + size) (Cause.permission.at_ v)

/-- A global access of a thread: its place, or what R109, R110, R258, R289 refuse. -/
def State.access (s : State) (c : Ctx) (a : W64) (size : Nat) (r : Right) : Except (List Fail) Place :=
  match addrFails a size with
  | [] => match s.resolve c.core c.asid c.system a.toNat size r with
    | .ok p => .ok p
    | .error f => .error [f]
  | fs => .error fs

/-- The place an access leads to; only looked at when it has one. -/
def placeOf (x : Except (List Fail) Place) : Place := match x with | .ok p => p | .error _ => ⟨0, 0, false, false⟩

/-- The failures of an access. -/
def failsOf (x : Except (List Fail) Place) : List Fail := match x with | .ok _ => [] | .error fs => fs

/-! ## Program order (R227, R230) -/

/-- The load touches an absent line: of its team's scratch, or, through the aperture, of the scratch that holds the bytes (R114). -/
def State.parked (s : State) (l : Load) : Bool :=
  match l.source with
  | .scratch => s.linesAbsent l.thread.grid l.thread.team l.va l.size
  | .konst => false
  | .memory _ => s.placeAbsent l.place l.size

/-- A load still to be read cannot be: its scratch lines are absent (R114), or an earlier overlapping load or atomic of its thread, or a store to scratch or an RST
that is still on its way, is not performed (R227, R230); an LDGN also waits for a store of its core on its way that its team owns in part, which is one event (R226). -/
def State.loadBlocked (s : State) (l : Load) : Bool :=
  s.parked l
    || s.wtb.any (fun w => (isScratchKey w.place || w.explicit) && w.thread = l.thread && w.op < l.op && overlap w.place w.bytes.length l.place l.size)
    || (l.source == .memory true && s.wtb.any fun w => w.core = s.coreOf l.thread && !w.skip.isEmpty && overlap w.place w.bytes.length l.place l.size)
    || s.atoms.any (fun a => a.thread = l.thread && a.op < l.op && !a.performed && overlap a.place 8 l.place l.size)
    || s.loads.any (fun m => m.thread = l.thread && m.op < l.op && (m.value.map (·.length)).getD 0 < m.size && (m.source == .konst) == (l.source == .konst)
        && overlap m.place m.size l.place l.size)

/-- The constant bytes of a grid (R112). -/
def State.konstRead (s : State) (g off n : Nat) : List Byte :=
  let img := (((s.grid? g).bind fun x => s.code? x.desc.code).map (·.konst)).getD []
  (List.range n).map fun i => img.getD (off + i) 0

/-- A cached line may have left the cache since it was filled: one draw says which levels still hold it (log 10). -/
def State.maybeGone (s : State) (core : Nat) (key : Nat) : State :=
  let (n, s1) := s.choose
  if n % 3 = 0 then s1
  else
    let s2 := { s1 with l1 := dropLines s1.l1 core key 1 }
    if n % 3 = 1 then s2 else { s2 with rdc := dropLines s2.rdc (dieOfCore core) key 1 }

/-- n bytes of a load from byte off on, read now (R119). -/
def State.readFor (s : State) (l : Load) (off n : Nat) : List Byte × State :=
  match s.team? l.thread.grid l.thread.team with
  | none => (List.replicate n 0, s)
  | some t =>
    match l.source with
    | .scratch => (s.teamRead t (l.va + off) n, s)
    | .konst => (s.konstRead l.thread.grid (l.va + off) n, s)
    | .memory fresh =>
      let key := l.place + off
      if isScratchKey key then (s.rd key n, s)
      else
        let core := t.lastCore
        let asid := ((s.grid? l.thread.grid).map (·.asid)).getD 0
        let p : Place := { key := key, home := l.home, host := isHostKey key, aperture := false }
        if fresh then
          let bs := s.freshRead core l.thread p n
          (bs, (s.noteRead key n).freshDrop core t.grid t.idx asid (l.va + off) p n)
        else
          let s1 := s.maybeGone core key
          (s1.coreRead core p n, ((s1.allocate core asid (l.va + off) p).noteRead key n).noteSeen core l.thread key n)

/-- The bytes a load has read so far, one part more: a 16-byte load reads two halves apart (R226). -/
def State.readPart (s : State) (l : Load) : Load × State :=
  let got := l.value.getD []
  if l.size ≤ 8 then
    let (bs, s1) := s.readFor l 0 l.size
    ({ l with value := some bs }, s1)
  else if got.length = 0 then
    let (bs, s1) := s.readFor l (if l.highFirst then 8 else 0) 8
    ({ l with value := some bs }, s1)
  else
    let (bs, s1) := s.readFor l (if l.highFirst then 0 else 8) 8
    ({ l with value := some (if l.highFirst then bs ++ got else got ++ bs) }, s1)

/-- The load has read all its bytes. -/
def Load.complete (l : Load) : Bool := (l.value.map (·.length)).getD 0 == l.size

/-- A load's record put in place. -/
def State.putLoad (s : State) (l : Load) : State := { s with loads := updWhere (fun m => m.op = l.op) (fun _ => l) s.loads }

/-- A load read in full. -/
def State.readWhole (s : State) (l : Load) : State :=
  if l.complete then s
  else
    let (l1, s1) := s.readPart l
    if l1.complete then s1.putLoad l1
    else
      let (l2, s2) := s1.readPart l1
      s2.putLoad l2

/-- The thread's loads in flight that can be read are read: every earlier load comes before a later store or atomic (R227). -/
def State.settleLoads (s : State) (r : TRef) : State :=
  (s.loads.filter fun l => l.thread = r).foldl (fun s l => if s.loadBlocked l then s else s.readWhole l) s

/-- A load of the thread cannot be read yet, or an ATOM or RATOM of it is not performed, so a later store or atomic waits at its stop (R114, R227). -/
def State.loadsHeld (s : State) (r : TRef) : Bool :=
  s.loads.any (fun l => l.thread = r && !l.complete && s.loadBlocked l)
    || s.atoms.any fun a => a.thread = r && a.returns && !a.performed && match a.req with | .atom _ => true | _ => false

/-- A store on its way to the same bytes, of the core or read by the thread, travels by another way, or an atomic of the thread to them is not performed and does
not come before the store on its own way; the later one waits, since a byte's own order is that of the core's buffer and the thread's program (R227, R230). -/
def State.pathClash (s : State) (core : Nat) (r : TRef) (key n : Nat) (chan : Option Nat) : Bool :=
  let sameWay (t : TRef) (ch : Option Nat) : Bool := ch == chan && (ch.isNone || (t.grid == r.grid && t.team == r.team))
  s.wtb.any (fun w => (w.core == core || w.knownTo r) && !sameWay w.thread w.chan && overlap w.place w.bytes.length key n)
    || s.atoms.any fun a => a.thread = r && !a.performed && (a.chan.isNone || !sameWay r a.chan) && overlap a.place 8 key n

/-- A store of the core, or one that the thread has read, is on its way to the same bytes: an atomic of the thread comes after it (R227, R230). -/
def State.storesBehind (s : State) (core : Nat) (r : TRef) (key n : Nat) : Bool :=
  s.wtb.any fun w => (w.core == core || w.knownTo r) && overlap w.place w.bytes.length key n

/-- Stores of the core, or atomics of a team's threads, to the same bytes are still on their way: a byte that comes to stay with its core waits for them
(R122, R126, R227). -/
def State.bytesBehind (s : State) (core g t key n : Nat) : Bool :=
  s.wtb.any (fun w => w.core = core && overlap w.place w.bytes.length key n)
    || s.atoms.any fun a => a.thread.grid = g && a.thread.team = t && !a.performed && overlap a.place 8 key n

/-! ## Loads -/

/-- A load starts: it is read and returns at LOAD_DATA_RETURN, or earlier where program order asks it. -/
def State.startLoad (s : State) (c : Ctx) (op : Nat) (src : LoadFrom) (p : Place) (va size : Nat) (w : Widen) (d : Reg) : State :=
  let (n, s1) := if size = 16 then s.choose else (0, s)
  { s1 with loads := s1.loads ++ [{ op := op, thread := c.t.ref, source := src, place := p.key, va := va, size := size, widen := w, d := d,
                                    wbase := c.t.wbase, remote := p.home ≠ c.die, home := p.home, highFirst := n % 2 = 1, value := none }] }

/-- LDG, LDGN and LDGB in one thread. -/
def loadWord (fresh : Bool) (size : Nat) (w : Widen) (d a : Reg) (off : BitVec 6) (c : Ctx) (_mark op : Nat) (s : State) : Lane :=
  let addr := c.t.formed a off size
  let x := s.access c addr size .read
  let va := addr.toNat
  let out := !inAperture va
  Lane.check (failsOf x
      ++ when (out && s.lockHit c.die (.global c.asid) va size true) (Cause.rangeLock.at_ va)
      ++ when (out && s.ownedElsewhere c.t.ref.grid c.t.ref.team c.asid va size false) (Cause.ownedElsewhere.at_ va)) <|
    .pass ((if out then s.cacheLeaf c.core c.asid va else s).startLoad c op (.memory fresh) (placeOf x) va size w d)

/-- LDG. -/
def execLdg (l : BitVec 4) (sz : Size) (d a : Reg) (off : BitVec 6) (s : State) : Host.Outcome State Fault Refusal :=
  s.long (.ldg l sz d a off) (loadWord false sz.bytes .plain d a off)

/-- LDGN: read at the home. -/
def execLdgn (l : BitVec 4) (sz : Size) (d a : Reg) (off : BitVec 6) (s : State) : Host.Outcome State Fault Refusal :=
  s.long (.ldgn l sz d a off) (loadWord true sz.bytes .plain d a off)

/-- The widening of LDGB. -/
def subWiden : SubLoad → Widen
  | .zx8 | .zx16 => .zero
  | .sx8 | .sx16 => .sign

/-- LDGB. -/
def execLdgb (l : BitVec 4) (sz : SubLoad) (d a : Reg) (off : BitVec 6) (s : State) : Host.Outcome State Fault Refusal :=
  s.long (.ldgb l sz d a off) (loadWord false sz.bytes (subWiden sz) d a off)

/-- LDS in one thread: a write lock on scratch is allowed, and the load parks on absent lines (R114). -/
def ldsWord (size : Nat) (d a : Reg) (off : BitVec 6) (c : Ctx) (_mark op : Nat) (s : State) : Lane :=
  let x := c.t.formedOffset a off size
  Lane.check (offsetFails x size c.scratchSize)
    (.pass (s.startLoad c op .scratch ⟨scratchKey c.core (c.team.scratch + x.toNat), c.die, false, false⟩ x.toNat size .plain d))

/-- LDS. -/
def execLds (l : BitVec 4) (sz : Size) (d a : Reg) (off : BitVec 6) (s : State) : Host.Outcome State Fault Refusal :=
  s.long (.lds l sz d a off) (ldsWord sz.bytes d a off)

/-- LDK in one thread: the grid's constant space of 65,536 bytes (R112). -/
def ldkWord (size : Nat) (d a : Reg) (off : BitVec 6) (c : Ctx) (_mark op : Nat) (s : State) : Lane :=
  let x := c.t.formedOffset a off size
  Lane.check (offsetFails x size 65536) (.pass (s.startLoad c op .konst ⟨0, c.die, false, false⟩ x.toNat size .plain d))

/-- LDK. -/
def execLdk (l : BitVec 4) (sz : Size) (d a : Reg) (off : BitVec 6) (s : State) : Host.Outcome State Fault Refusal :=
  s.long (.ldk l sz d a off) (ldkWord sz.bytes d a off)

/-- Bytes as 32-bit words, lowest address first. -/
def wordsOf (bs : List Byte) : List W32 := (List.range ((bs.length + 3) / 4)).map fun i => BitVec.ofNat 32 (fld bs (4 * i) 4)

/-- The words a load writes (R119). -/
def loaded (w : Widen) (bs : List Byte) : List W32 :=
  match w with
  | .plain => wordsOf bs
  | .zero => [BitVec.ofNat 32 (leNat bs)]
  | .sign => [if bs.length = 1 then (BitVec.ofNat 8 (leNat bs)).signExtend 32 else (BitVec.ofNat 16 (leNat bs)).signExtend 32]

/-- A complete load writes its destination and its pending set clears, also in the saved registers of an evicted team (R287). -/
def State.finishLoad (s : State) (l : Load) : State :=
  let s1 := s.modThread l.thread fun t => t.wrUnder l.wbase l.d (loaded l.widen (l.value.getD []))
  { s1 with loads := s1.loads.filter fun m => m.op ≠ l.op }.closeWindow l.thread l.op

/-- LOAD_DATA_RETURN (subject: operation): the load is read, a half at a time for 16 bytes, and returns once it is complete. A parked load stays. -/
def execLoadDataReturn (s : State) : Host.Outcome State Fault Refusal :=
  finish s (match s.loads.find? fun l => l.op = s.subj 0 with
    | none => s
    | some l =>
      if l.complete then s.finishLoad l
      else if s.loadBlocked l then s
      else
        let (l1, s1) := s.readPart l
        if l1.complete || l.size ≤ 8 then s1.finishLoad l1 else s1.putLoad l1)

/-! ## Stores -/

/-- The low n bytes of a register operand. -/
def Thread.dataBytes (t : Thread) (d : Reg) (n : Nat) : List Byte := leBytes (((t.rdN d 4).zipIdx.map fun x => x.1.toNat * 2 ^ (32 * x.2)).sum) n

/-- A store's bytes on their way to the home: a plain one to the L1 line at once when one is present, unless it streams (R113, R120); in the write-through buffer
until the home has them. -/
def State.pushStore (s : State) (op core : Nat) (r : TRef) (streaming : Bool) (key : Nat) (bs : List Byte) (chan : Option Nat) (explicit : Bool)
    (skip : List Nat := []) : State :=
  let l1 := if explicit then s.l1 else if streaming then dropLines s.l1 core key bs.length else updateLines s.l1 core key bs
  { s with l1 := l1, wtb := s.wtb ++ [{ op := op, core := core, thread := r, place := key, bytes := bs, chan := chan, explicit := explicit, seen := [], skip := skip }] }

/-- The single-copy atomic parts of a store: two for 16 bytes (R226). -/
def storeParts (bs : List Byte) : List (Nat × List Byte) := if bs.length = 16 then [(0, bs.take 8), (8, bs.drop 8)] else [(0, bs)]

/-- One part of a store goes to its home: at once into the buffer, and over ch0 to a home on another die (R229). kept: the bytes of it that the team owns. -/
def State.storePart (s : State) (c : Ctx) (op va : Nat) (p : Place) (streaming : Bool) (kept : List Nat) (x : Nat × List Byte) : State :=
  let skip := (kept.filter fun i => x.1 ≤ i && i < x.1 + x.2.length).map (· - x.1)
  if skip.length = x.2.length then s
  else
    let (n, s1) := if x.1 = 0 then (op, s) else s.fresh
    let remote := p.home ≠ c.die
    let s2 := s1.pushStore n c.core c.t.ref (streaming || p.aperture) (p.key + x.1) x.2 (if remote then some 0 else none) false skip
    if remote then s2.sendOp (c.chan 0) c.die c.asid n false [⟨s2.here p.home, .data, .write (.place (p.key + x.1) (va + x.1)) x.2⟩] else s2

/-- A store is performed in its thread's sight (R113, R116, R122): owned bytes stay in the core, the other bytes go to their home as one event, a 16-byte store to a
home of this die as two in no order (R226). -/
def State.store (s : State) (c : Ctx) (op va : Nat) (p : Place) (streaming : Bool) (bs : List Byte) : State :=
  let r := c.t.ref
  let kept := if p.aperture then [] else (List.range bs.length).filter fun i => s.ownsByte r.grid r.team c.asid (va + i)
  let s1 := kept.foldl (fun s i => s.storeOwned c.core c.asid (va + i) (p.key + i) [bs.getD i 0]) s
  (if p.home ≠ c.die then [(0, bs)] else storeParts bs).foldl (fun s x => s.storePart c op va p streaming kept x) s1

/-- The checks of a store on a place (R120, R130, R202). -/
def State.storeChecks (s : State) (c : Ctx) (va size : Nat) (x : Except (List Fail) Place) : List Fail :=
  failsOf x
    ++ when (match x with | .ok p => s.placeTagged p.key size | .error _ => false) (Cause.permission.at_ va)
    ++ when (s.lockHit c.die (.global c.asid) va size false) (Cause.rangeLock.at_ va)
    ++ when (!inAperture va && s.ownedElsewhere c.t.ref.grid c.t.ref.team c.asid va size true) (Cause.ownedElsewhere.at_ va)

/-- STG and STGB in one thread; bytes its team owns go on no channel (R122). -/
def storeWord (streaming : Bool) (size : Nat) (d a : Reg) (off : BitVec 6) (c : Ctx) (_mark op : Nat) (s : State) : Lane :=
  let addr := c.t.formed a off size
  let va := addr.toNat
  let x := s.access c addr size .write
  let p := placeOf x
  let owns (i : Nat) : Bool := !p.aperture && s.ownsByte c.t.ref.grid c.t.ref.team c.asid (va + i)
  let remote := p.home ≠ c.die && !(List.range size).all owns
  Lane.check (s.storeChecks c va size x ++ (if (failsOf x).isEmpty && remote then s.brokenFails c 0 else [])) <|
    if s.loadsHeld c.t.ref || (remote && !s.chanTakes (c.chan 0) (s.here p.home) op) || s.pathClash c.core c.t.ref p.key size (if remote then some 0 else none)
        || (List.range size).any (fun i => owns i && s.bytesBehind c.core c.t.ref.grid c.t.ref.team (p.key + i) 1) then
      .hold 0 (remote && !s.roomFor (c.chan 0) (s.here p.home))
    else .pass ((((if inAperture va then s else s.cacheLeaf c.core c.asid va).settleLoads c.t.ref).store c op va p streaming (c.t.dataBytes d size)))

/-- STG. -/
def execStg (streaming : Bool) (sz : Size) (d a : Reg) (off : BitVec 6) (s : State) : Host.Outcome State Fault Refusal :=
  s.long (.stg streaming sz d a off) (storeWord streaming sz.bytes d a off)

/-- STGB. -/
def execStgb (streaming : Bool) (sz : SubStore) (d a : Reg) (off : BitVec 6) (s : State) : Host.Outcome State Fault Refusal :=
  s.long (.stgb streaming sz d a off) (storeWord streaming sz.bytes d a off)

/-- STS in one thread: on its way to the scratch of its core, 16 bytes as two parts (R226). A store to an absent line leaves its presence bit. -/
def stsWord (size : Nat) (d a : Reg) (off : BitVec 6) (c : Ctx) (_mark op : Nat) (s : State) : Lane :=
  let x := c.t.formedOffset a off size
  let o := x.toNat
  let fs := offsetFails x size c.scratchSize
  Lane.check (fs ++ when (fs.isEmpty && s.tagHit c.t.ref.grid c.t.ref.team o size) (Cause.permission.at_ o)
      ++ when (fs.isEmpty && s.scratchLocked c o size) (Cause.rangeLock.at_ o)) <|
    let p : Place := ⟨scratchKey c.core (c.team.scratch + o), c.die, false, true⟩
    if s.loadsHeld c.t.ref || s.pathClash c.core c.t.ref p.key size none then .hold 0 false
    else .pass ((s.settleLoads c.t.ref).store c op 0 p false (c.t.dataBytes d size))

/-- STS. -/
def execSts (sz : Size) (d a : Reg) (off : BitVec 6) (s : State) : Host.Outcome State Fault Refusal := s.long (.sts sz d a off) (stsWord sz.bytes d a off)

/-- An earlier store of the core, or an earlier atomic of the thread, to the same bytes is not performed yet (R227, R230). -/
def State.storeBehind (s : State) (w : WriteThrough) : Bool :=
  s.wtb.any (fun v => v.core = w.core && v.op < w.op && overlap v.place v.bytes.length w.place w.bytes.length)
    || s.atoms.any fun a => a.thread = w.thread && a.op < w.op && !a.performed && overlap a.place 8 w.place w.bytes.length

/-- Bytes of a store that have reached their home, but for those of skip: the lines its core and its die keep show them (R113, R116, R122). -/
def State.showLanded (s : State) (core key : Nat) (bs : List Byte) (skip : List Nat) : State :=
  if skip.isEmpty then s.showStored core key bs
  else (List.range bs.length).foldl (fun s i => if skip.contains i then s else s.showStored core (key + i) [bs.getD i 0]) s

/-- A store of a core is over: the lines its core and its die keep show it, and it leaves the buffer (R113, R116). -/
def State.storeOver (s : State) (w : WriteThrough) : State :=
  let s1 := s.showLanded w.core w.place w.bytes w.skip
  { s1 with wtb := s1.wtb.filter fun v => v.op ≠ w.op }

/-- WRITE_THROUGH_ACK (subject: operation): the home on the issuing die has the bytes. A store for another die is acknowledged by its channel. -/
def execWriteThroughAck (s : State) : Host.Outcome State Fault Refusal :=
  finish s (match s.wtb.find? fun w => w.op = s.subj 0 with
    | none => s
    | some w =>
      if w.chan.isSome || s.storeBehind w then s
      else (s.landStore w.place w.bytes w.skip).storeOver w)

/-! ## PREF -/

/-- One line of a PREF: brought into the issuing die's remote-data cache when its home is another die; skipped where R119's PREF says so. -/
def State.prefLine (s : State) (c : Ctx) (va : Nat) : State :=
  if inAperture va || isFabric va || s.ownedByAny c.asid va 128 || s.lockHit c.die (.global c.asid) va 128 false then s
  else
    let s := s.noteWalk (s.walkKeys c.core c.asid va)
    match s.translate c.core c.asid c.system va .read with
    | .error _ => s
    | .ok p =>
      if p.host || p.home = c.die || (lineOf s.rdc c.die (p.key / 128)).isSome then s
      else
        let line : Line := ⟨c.die, p.key / 128, p.home, c.asid, va, s.homeRead (p.key / 128 * 128) 128⟩
        ({ s with rdc := makeRoom rdcLines c.die s.rdc ++ [line] } : State).noteRead (p.key / 128 * 128) 128

/-- PREF in one thread: no check of its own, no value a program sees. -/
def prefWord (a b : Reg) (c : Ctx) (_mark _op : Nat) (s : State) : Lane :=
  let va := (c.t.rd64 a).toNat
  let len := min (max (c.t.rd b).toNat 1) 0x100000
  let first := va / 128
  let lines := if validAddr (c.t.rd64 a) then (List.range ((va + len - 1) / 128 - first + 1)).map fun i => (first + i) * 128 else []
  .pass (lines.foldl (fun s v => s.prefLine c v) s)

/-- PREF. -/
def execPref (l : BitVec 4) (a b : Reg) (s : State) : Host.Outcome State Fault Refusal := s.long (.pref l a b) (prefWord a b)

end Sys2Proof.Machine
end

