-- ==== Sys2Proof/Machine/Atomics.lean ====
section
/-! DEFINITION. Atomics (R218 to R224): what an operation does at its serving unit, ATOM, RED, RATOM and RST, the waiter queues (R214 to R217), and the steps
ATOMIC_SERVICE and ATOMIC_RETURN. -/

namespace Sys2Proof.Machine

/-! ## Arithmetic (R220) -/

/-- Two 16-bit halves computed apart. -/
def halves (f : Nat → Nat → Nat) (x y : Nat) : Nat := f (x / 65536 % 65536) (y / 65536 % 65536) * 65536 + f (x % 65536) (y % 65536)

/-- Words read as signed compare. -/
def slt (bits x y : Nat) : Bool := decide ((BitVec.ofNat bits x).toInt < (BitVec.ofNat bits y).toInt)

/-- The new value of an atomic on old, both as numbers of the width. -/
def atomNew (q : AtomReq) (old : Nat) : Nat :=
  let bits := 8 * q.width.bytes
  let v := q.v.toNat % 2 ^ bits
  match q.op with
  | .add => (old + v) % 2 ^ bits
  | .min => if slt bits v old then v else old
  | .max => if slt bits old v then v else old
  | .minu => min old v
  | .maxu => max old v
  | .and => old &&& v
  | .or => old ||| v
  | .xor => old ^^^ v
  | .xchg => v
  | .cas => if old = q.expected.toNat % 2 ^ bits then v else old
  | .fadd =>
    match q.width with
    | .w32 => fp32.add old v
    | .w64 => fp64.add old v
    | .f16x2 => halves fp16.add old v
    | .bf16x2 => halves bf16.add old v
  | .fmin => fp32.min old v
  | .fmax => fp32.max old v
  | .inc => if v ≤ old then 0 else old + 1
  | .dec => if old = 0 || v < old then v else old - 1

/-! ## At the serving unit -/

/-- The team and scratch offset of a place. -/
def State.scratchOwner (s : State) (key n : Nat) : Option (Team × Nat) :=
  if isScratchKey key then (s.holderAt (scratchCore key) (scratchOff key) n).map fun t => (t, scratchOff key - t.scratch) else none

/-- R224 admits an operation on the bytes of a tagged hurdle: a 32-bit ADD to word 0 of an exported one, with a count of 16 bits. -/
def State.arrivalAdmitted (s : State) (t : Team) (off : Nat) (q : AtomReq) : Bool :=
  q.op == .add && q.width == .w32 && q.v.toNat % 2 ^ 32 < 65536 && (s.tag? t.grid t.idx off).isSome && (s.hurdle t off).flag 4

/-- R219: the operation names bytes of a tagged hurdle and R224 does not admit it. -/
def State.atomRefused (s : State) (key : Nat) (q : AtomReq) : Bool :=
  match s.scratchOwner key q.width.bytes with
  | some (t, off) => s.tagHit t.grid t.idx off q.width.bytes && !s.arrivalAdmitted t off q
  | none => false

/-- The operation performed indivisibly (R220), or an arrival (R224) with the scopes and channels given; the old value as stored. arrival: at issue it was one.
An arrival that finds its bytes untagged, or its team gone, is discarded (R202), and nothing but the events of R203 changes a tagged hurdle: what R224 does not admit there is
discarded too (log 50). -/
def State.performAtom (s : State) (key : Nat) (q : AtomReq) (scs : List Scope) (chs : List ChanKey) (arrival : Bool) : W64 × State :=
  let n := q.width.bytes
  match s.scratchOwner key n with
  | some (t, off) =>
    let old := leNat (s.teamRead t off n)
    let count := q.v.toNat % 65536
    (BitVec.ofNat 64 old,
      if s.tagHit t.grid t.idx off n then
        if s.arrivalAdmitted t off q && count ≠ 0 then s.arrive t.grid t.idx off count scs chs 0 else s
      else if arrival then s
      else s.teamWrite t off (leBytes (atomNew q old) n))
  | none =>
    let old := leNat (s.homeRead key n)
    (BitVec.ofNat 64 old, if arrival then s else (s.noteRead key n).homeWrite key (leBytes (atomNew q old) n))

/-- The scope an arrival by an atomic records (R205): team for the hurdle's own team, else the narrowest holding both cores; package over a channel word. -/
def State.arrivalScope (s : State) (r : TRef) (key : Nat) (explicit : Bool) : Scope :=
  if explicit then .package
  else match s.scratchOwner key 4, s.team? r.grid r.team with
    | some (t, _), some u => if t.grid = u.grid && t.idx = u.idx then .team else coreScope u.lastCore (scratchCore key)
    | _, _ => .package

/-- The copies the issuing core and die keep of the bytes leave: a later load of the thread returns the atomic's write or a later one (R230). -/
def State.forget (s : State) (core key n : Nat) : State :=
  { s with l1 := dropLines s.l1 core key n, rdc := dropLines s.rdc (dieOfCore core) key n }

/-! ## Waiter queues (R214 to R217) -/

/-- The node of a thread at a virtual address that stands linked on a queue (R215): its place. -/
def State.linkedAt (s : State) (queue va : Nat) : Option Nat :=
  s.atoms.findSome? fun a => match a.req with
    | .link node n => if a.performed && a.place == queue && n == va then some node else none
    | _ => none

/-- Some node linked, or to be linked, on another queue meets 16 bytes at a place. -/
def State.linkedElsewhere (s : State) (queue key : Nat) : Bool :=
  s.atoms.any fun a => a.place != queue && match a.req with
    | .link node _ => overlap node 16 key 16
    | _ => false

/-- The place of a node at a virtual address of a context, as the queue's gang reaches it from HEAD, TAIL or NEXT: a node that stands linked there, or, where
plain stores have put another address (a breach of R214), 16 aligned bytes of device memory that any team of the context may write: under no range lock, in no
interval and in no node of another queue (R1). -/
def State.gangPlace (s : State) (asid queue va : Nat) : Option Nat :=
  match s.linkedAt queue va with
  | some node => some node
  | none =>
    if va % 16 = 0 && validAddr (BitVec.ofNat 64 va) && !inAperture va && !isFabric va && !s.ownedByAny asid va 16
        && !(s.locks.any fun l => l.space == .global asid && overlap va 16 l.lo (l.hi - l.lo)) then
      match s.translate chipUnit asid false va .write with
      | .ok p => if p.host || s.linkedElsewhere queue p.key then none else some p.key
      | .error _ => none
    else none

/-- A 64-bit word at a place. -/
def State.word64 (s : State) (key : Nat) : Nat := leNat (s.homeRead key 8)

/-- QWAIT's link (R215): NEXT and WOKEN of the node 0; after the last node, or as the first. -/
def State.linkNode (s : State) (asid queue node nodeVa : Nat) : State :=
  let s1 := (s.homeWrite node (leBytes 0 8)).homeWrite (node + 8) (leBytes 0 4)
  let tail := s1.word64 (queue + 8)
  let s2 := if tail = 0 then s1.homeWrite queue (leBytes nodeVa 8)
            else match s1.gangPlace asid queue tail with
              | some p => s1.homeWrite p (leBytes nodeVa 8)
              | none => s1
  s2.homeWrite (queue + 8) (leBytes nodeVa 8)

/-- The thread that waits at a node goes on: the woken QWAIT acquires at package scope (R215). An evicted one is ready to resume. -/
def State.wakeAt (s : State) (node : Nat) : State :=
  match s.threads.find? fun t => t.status = .waitQueue node with
  | none => s
  | some t =>
    match s.ctx? t.ref with
    | none => s
    | some c => (s.acquire c.t.ref.grid c.core .package).modThread t.ref fun u => { u.step with status := .ready }

/-- WAKE at the gang (R216): up to k nodes released in order; how many were. -/
def State.wakeNodes (s : State) (asid queue : Nat) : Nat → Nat × State
  | 0 => (0, s)
  | k + 1 =>
    let head := s.word64 queue
    if head = 0 then (0, s)
    else match s.gangPlace asid queue head with
      | none => (0, s)
      | some node =>
        let next := s.word64 node
        let s1 := (s.noteRead node 8).homeWrite queue (leBytes next 8)
        let s2 := if next = 0 then s1.homeWrite (queue + 8) (leBytes 0 8) else s1
        let s3 := s2.homeWrite (node + 8) (leBytes 1 4)
        let linked (a : AtomOpRec) : Bool := a.performed && a.place == queue && match a.req with | .link n _ => n == node | _ => false
        let (c, s4) := ({ s3 with atoms := s3.atoms.filter fun a => !linked a } : State).wakeNodes asid queue k
        (c + 1, if s.atoms.any linked then s4.wakeAt node else s4)

/-- A node taken out of a queue, the order of the others kept (R217). prev: the place of the node before, none at the head. fuel: nodes looked at. -/
def State.unlinkFrom (s : State) (asid queue node : Nat) (prev : Option (Nat × Nat)) (at_ : Nat) : Nat → State
  | 0 => s
  | fuel + 1 =>
    if at_ = 0 then s
    else match s.gangPlace asid queue at_ with
      | none => s
      | some p =>
        let next := s.word64 p
        let s := s.noteRead p 8
        if p = node then
          let s1 := match prev with
            | none => s.homeWrite queue (leBytes next 8)
            | some (q, _) => s.homeWrite q (leBytes next 8)
          if next = 0 then s1.homeWrite (queue + 8) (leBytes ((prev.map (·.2)).getD 0) 8) else s1
        else s.unlinkFrom asid queue node (some (p, at_)) next fuel

/-! ## A request performed -/

/-- A request performed at its unit; its answer stands for ATOMIC_RETURN, a request without one leaves. -/
def State.performReq (s : State) (a : AtomOpRec) : State :=
  let asid := s.asidOf a.thread.grid
  let done (s : State) (v : W64) (keep : Bool) : State :=
    if keep then { s with atoms := updWhere (fun b => b.op = a.op) (fun b => { b with performed := true, answer := some v }) s.atoms }
    else { s with atoms := s.atoms.filter fun b => b.op ≠ a.op }
  match a.req with
  | .atom q =>
    let scs := [s.arrivalScope a.thread a.place a.explicit]
    let chs := match a.chan with | some ch => [ChanKey.team a.thread.grid a.thread.team ch] | none => []
    let (old, s1) := s.performAtom a.place q scs chs a.arrival
    done (s1.forget (s.coreOf a.thread) a.place q.width.bytes) old a.returns
  | .link node va =>
    let s1 := (s.noteRead a.place 16).linkNode asid a.place node va
    { s1 with atoms := updWhere (fun b => b.op = a.op) (fun b => { b with performed := true }) s1.atoms }
  | .wake k =>
    let (n, s1) := (s.noteRead a.place 16).wakeNodes asid a.place k
    done s1 (BitVec.ofNat 64 n) true
  | .unlink node =>
    let s1 := (s.noteRead a.place 16).unlinkFrom asid a.place node none (s.word64 a.place) 131072
    let mine (b : AtomOpRec) : Bool := b.thread = a.thread && b.performed && match b.req with | .link n _ => n == node | _ => false
    done { s1 with atoms := s1.atoms.filter fun b => !mine b } 0 false
  | .walk _ => s

/-- A store to the same bytes that its core had sent when the batch issued, or that its thread has read, or an earlier atomic of the thread to them, is not performed
yet (R221, R227, R230). -/
def State.atomBehind (s : State) (a : AtomOpRec) : Bool :=
  s.wtb.any (fun w => ((w.core == s.coreOf a.thread && w.op < a.batch) || w.knownTo a.thread) && overlap w.place w.bytes.length a.place 8)
    || s.atoms.any fun b => b.thread = a.thread && b.op < a.op && !b.performed && overlap b.place 8 a.place 8

/-- A word whose requests go to a serving unit in batches (R215, R221). -/
def isServed : Instr → Bool
  | .atom _ _ _ _ _ | .red _ _ _ _ | .ratom _ _ _ _ _ | .qwait _ _ | .wake _ _ _ => true
  | _ => false

/-- Threads of a batch, on their cores, are still at the word: its requests go to their units, and are performed, once every thread of it has passed its checks or failed. -/
def State.batchWaits (s : State) (batch : Nat) : Bool :=
  s.threads.any fun t => t.slot.1 == batch && (s.ctx? t.ref).isSome && match t.status with
    | .stopped (.again i _ _) | .draining i => isServed i
    | _ => false

/-- A request put in its place by lane. -/
def insertLane (a : AtomOpRec) : List AtomOpRec → List AtomOpRec
  | [] => [a]
  | b :: bs => if a.lane ≤ b.lane then a :: b :: bs else b :: insertLane a bs

/-- Requests in ascending lane order (R221). -/
def byLane : List AtomOpRec → List AtomOpRec
  | [] => []
  | a :: as => insertLane a (byLane as)

/-- The serving units of the issuing die (R218): a core's own scratch unit, a cluster's gang, the host agent. -/
inductive ServingUnit where
  | scratch (core : Nat)
  | gang (cluster : Nat)
  | host
  deriving DecidableEq, Repr

/-- The unit that serves a request on the issuing die (R218): the core's own unit for its own window, the gang of its cluster for another core's, the gang a granule
hashes to, the host agent. Which gang a granule hashes to is not in the spec (log 51). -/
def State.servedBy (s : State) (a : AtomOpRec) : ServingUnit :=
  if isScratchKey a.place then
    if scratchCore a.place = s.coreOf a.thread then .scratch (scratchCore a.place) else .gang (clusterOfCore (scratchCore a.place))
  else if isHostKey a.place then .host
  else .gang (12 * a.dst.die + Config.granuleGang (a.place / 256) % 12)

/-- The requests of a batch that wait at the unit which serves its request on a granule, in ascending lane order. -/
def State.batchAt (s : State) (batch granule : Nat) : List AtomOpRec :=
  let mine := s.atoms.filter fun a => a.batch = batch && a.chan.isNone && !a.performed
  byLane (mine.filter fun a => mine.any fun b => b.place / 256 = granule && s.servedBy b = s.servedBy a)

/-- What ATOMIC_RETURN writes to D: the old value, one or two words; for WAKE the count. -/
def AtomOpRec.words (a : AtomOpRec) (v : W64) : List W32 :=
  match a.req with
  | .atom q => if q.width = .w64 then [v.extractLsb' 0 32, v.extractLsb' 32 32] else [v.extractLsb' 0 32]
  | _ => [v.extractLsb' 0 32]

/-- An answer reaches D and the pending set clears; a thread that awaited WAKE's count by interlock goes on. -/
def State.deliverOld (s : State) (a : AtomOpRec) (v : W64) : State :=
  let s1 := s.modThread a.thread fun t =>
    let u := t.wrUnder a.wbase a.d (a.words v)
    if u.status = .interlock then { u.step with status := .ready } else u
  ({ s1 with atoms := s1.atoms.filter fun b => b.op ≠ a.op } : State).closeWindow a.thread a.op

/-- ATOMIC_RETURN (subject: operation): the answer of a unit of the issuing die comes back. -/
def execAtomicReturn (s : State) : Host.Outcome State Fault Refusal :=
  finish s (match s.atoms.find? fun a => a.op = s.subj 0 with
    | none => s
    | some a =>
      match a.answer with
      | none => s
      | some v => s.deliverOld a v)

/-! ## ATOM, RED, RATOM (R219) -/

/-- The operands of an atomic: for CAS the expected value, then the new one. -/
def Thread.atomReq (t : Thread) (op : AtomOp) (w : AtomWidth) (d : Reg) : AtomReq :=
  let one (k : Nat) : W64 := if w = .w64 then t.rdAt d (2 * k + 1) ++ t.rdAt d (2 * k) else (t.rdAt d k).zeroExtend 64
  if op = .cas then { op := op, width := w, v := one 1, expected := one 0 } else { op := op, width := w, v := one 0, expected := 0 }

/-- Operations that host memory does not support (R218, R219). -/
def floatOp (op : AtomOp) : Bool := op == .fadd || op == .fmin || op == .fmax

/-- The place of an arrival on an exported hurdle in the held range of an evicted team of a context (R204). -/
def State.heldArrival (s : State) (asid va : Nat) (q : AtomReq) : Option Place :=
  let core := (va - apertureBase) / 0x400000
  let off := (va - apertureBase) % 0x400000
  (s.holderAt core off q.width.bytes).bind fun t =>
    if t.held && s.asidOf t.grid = asid && s.arrivalAdmitted t (off - t.scratch) q then some ⟨scratchKey core off, dieOfCore core, false, true⟩ else none

/-- The place of an atomic: an arrival on an exported hurdle also reaches the held range of an evicted team (R204). -/
def State.atomAccess (s : State) (c : Ctx) (a : W64) (q : AtomReq) : Except (List Fail) Place :=
  match s.access c a q.width.bytes .atomic with
  | .ok p => .ok p
  | .error fs =>
    if (addrFails a q.width.bytes).isEmpty && inAperture a.toNat then
      match s.heldArrival c.asid a.toNat q with
      | some p => .ok p
      | none => .error fs
    else .error fs

/-- The checks of R219 on a place of this package. -/
def State.atomChecks (s : State) (c : Ctx) (a : W64) (q : AtomReq) (x : Except (List Fail) Place) : List Fail :=
  let va := a.toNat
  let p := placeOf x
  let found := (failsOf x).isEmpty
  failsOf x
    ++ when (found && p.host && floatOp q.op) (Cause.atomType.at_ va)
    ++ when (found && (!p.aperture || p.home = c.die) && s.atomRefused p.key q) (Cause.permission.at_ va)
    ++ when (s.lockHit c.die (.global c.asid) va q.width.bytes false) (Cause.rangeLock.at_ va)
    ++ when (!inAperture va && s.ownedElsewhere c.t.ref.grid c.t.ref.team c.asid va q.width.bytes true) (Cause.ownedElsewhere.at_ va)

/-- The holder's dirty bytes in the addressed granule are written back (R122). -/
def State.flushGranule (s : State) (core key : Nat) : State := s.writeBack fun d => d.core = core && d.place / 256 = key / 256

/-- The operation is an arrival on a hurdle that takes it (R224). -/
def State.isArrival (s : State) (key : Nat) (req : Request) : Bool :=
  match req with
  | .atom q => match s.scratchOwner key q.width.bytes with
    | some (t, off) => s.arrivalAdmitted t off q
    | none => false
  | _ => false

/-- A request of a thread entered for the unit of a place. A channel carries it once its batch is whole; sent: it is on the channel already. -/
def State.request (s : State) (c : Ctx) (op batch lane : Nat) (p : Place) (va : Nat) (req : Request) (returns : Bool) (d : Reg) (chan : Option Nat)
    (sent : Bool) (explicit : Bool := false) (dst : DieId := s.here p.home) : State :=
  { s with atoms := s.atoms ++ [{ op := op, batch := batch, lane := lane, thread := c.t.ref, place := p.key, va := va, dst := dst, req := req,
                                  returns := returns, d := d, wbase := c.t.wbase, chan := chan, sent := sent, explicit := explicit,
                                  arrival := s.isArrival p.key req, performed := false, answer := none }] }

/-- The lane of a thread at a word of its gang (R85, R221). -/
def State.laneOf (s : State) (c : Ctx) : Nat := if c.t.status = .ready then s.gang.idxOf c.t.ref else c.t.slot.2

/-- The packet that carries a request to its unit. -/
def AtomOpRec.part (a : AtomOpRec) : Part :=
  ⟨a.dst, .areq, match a.req with
    | .atom q => .atom (if isFabric a.va then .region (fabricRegion a.va) (fabricOff a.va) else .place a.place a.va) q
    | _ => .number a.op⟩

/-- The requests of a whole batch go to their channels in ascending lane order (R221, R256). -/
def State.sendBatch (s : State) (batch : Nat) : State :=
  if s.batchWaits batch then s
  else (byLane (s.atoms.filter fun a => a.batch = batch && !a.sent)).foldl (fun s a => match a.chan with
    | none => s
    | some ch =>
      let s1 : State := { s with atoms := updWhere (fun b => b.op = a.op) (fun b => { b with sent := true }) s.atoms }
      s1.sendOp (.team a.thread.grid a.thread.team ch) (dieOfCore (s.coreOf a.thread)) (s.asidOf a.thread.grid) a.op a.returns [a.part]) s

/-- A word of a batch: the threads of the gang in ascending lane order, then what the batch has for its channels. -/
def State.batch (s : State) (i : Instr) (drains : Bool) (word : Ctx → Nat → Nat → State → Lane) : Host.Outcome State Fault Refusal :=
  finish s (if s.refusesPrivilege i then s.takeAll (Cause.privilege.at_ 0)
    else (s.gang.foldl (fun t r => t.lane i drains s.nextOp word r) s).sendBatch s.nextOp)

/-- ATOM and RED in one thread: local units are reached directly, units of another die over ch0 (R218). -/
def atomWord (batch : Nat) (returns : Bool) (op : AtomOp) (w : AtomWidth) (d a : Reg) (c : Ctx) (_mark n : Nat) (s : State) : Lane :=
  let addr := c.t.rd64 a
  let va := addr.toNat
  let q := c.t.atomReq op w d
  let x := s.atomAccess c addr q
  let p := placeOf x
  let remote := p.home ≠ c.die
  Lane.check (s.atomChecks c addr q x ++ (if (failsOf x).isEmpty && remote then s.brokenFails c 0 else [])) <|
    if s.loadsHeld c.t.ref || (remote && (!s.chanTakes (c.chan 0) (s.here p.home) batch || s.storesBehind c.core c.t.ref p.key 8)) then
      .hold 0 (remote && !s.roomFor (c.chan 0) (s.here p.home))
    else
      let s1 := ((if inAperture va then s else s.cacheLeaf c.core c.asid va).settleLoads c.t.ref).flushGranule c.core p.key
      .pass (s1.request c n batch (s.laneOf c) p va (.atom q) returns d (if remote then some 0 else none) (!remote))

/-- ATOM. -/
def execAtom (op : AtomOp) (l : BitVec 4) (w : AtomWidth) (d a : Reg) (s : State) : Host.Outcome State Fault Refusal :=
  s.batch (.atom op l w d a) false (atomWord s.nextOp true op w d a)

/-- RED. -/
def execRed (op : AtomOp) (w : AtomWidth) (d a : Reg) (s : State) : Host.Outcome State Fault Refusal :=
  s.batch (.red op w d a) false (atomWord s.nextOp false op w d a)

/-- The operation and width of a RATOM code (R35, R267 of 12). -/
def ratomKind : RatomOp → AtomOp × AtomWidth
  | .add => (.add, .w32)
  | .min => (.min, .w32)
  | .max => (.max, .w32)
  | .and => (.and, .w32)
  | .or => (.or, .w32)
  | .xor => (.xor, .w32)
  | .xchg => (.xchg, .w32)
  | .cas => (.cas, .w32)
  | .fadd => (.fadd, .w32)
  | .fadd64 => (.fadd, .w64)
  | .faddF16x2 => (.fadd, .f16x2)
  | .faddBf16x2 => (.fadd, .bf16x2)
  | .minu => (.minu, .w32)
  | .maxu => (.maxu, .w32)
  | .add64 => (.add, .w64)

/-- The fabric check of R258 on an aligned valid address. -/
def State.fabricFails (s : State) (a : W64) (size : Nat) : List Fail :=
  addrFails a size ++ when (!s.fabricOk a.toNat) (Cause.permission.at_ a.toNat)

/-- RATOM in one thread: on the channel named, to a place of this package or a region of another device. -/
def ratomWord (batch : Nat) (op : RatomOp) (ch : BitVec 4) (d a : Reg) (c : Ctx) (_mark n : Nat) (s : State) : Lane :=
  let addr := c.t.rd64 a
  let va := addr.toNat
  let q := c.t.atomReq (ratomKind op).1 (ratomKind op).2 d
  let k := c.chan ch.toNat
  if isFabric va then
    Lane.check (s.fabricFails addr q.width.bytes ++ s.brokenFails c ch.toNat) <|
      if s.loadsHeld c.t.ref || !s.chanTakes k (fabricDst va) batch then .hold 0 (!s.roomFor k (fabricDst va))
      else
        .pass ((s.settleLoads c.t.ref).request c n batch (s.laneOf c) ⟨2 ^ 63 + va, 0, false, false⟩ va (.atom q) true d (some ch.toNat) false true
          (fabricDst va))
  else
    let x := s.atomAccess c addr q
    let p := placeOf x
    Lane.check (s.atomChecks c addr q x ++ s.brokenFails c ch.toNat) <|
      if s.loadsHeld c.t.ref || !s.chanTakes k (s.here p.home) batch || s.storesBehind c.core c.t.ref p.key 8 then .hold 0 (!s.roomFor k (s.here p.home))
      else
        let s1 := ((if inAperture va then s else s.cacheLeaf c.core c.asid va).settleLoads c.t.ref).flushGranule c.core p.key
        .pass (s1.request c n batch (s.laneOf c) p va (.atom q) true d (some ch.toNat) false true)

/-- RATOM. -/
def execRatom (op : RatomOp) (l ch : BitVec 4) (d a : Reg) (s : State) : Host.Outcome State Fault Refusal :=
  s.batch (.ratom op l ch d a) false (ratomWord s.nextOp op ch d a)

/-- RST in one thread (R266): the write on the channel, also to the issuing die; a store to a tagged hurdle takes PERMISSION wherever it lies (R202). -/
def rstWord (ch : BitVec 4) (size : Nat) (d a : Reg) (off : BitVec 6) (c : Ctx) (_mark n : Nat) (s : State) : Lane :=
  let addr := c.t.formed a off size
  let va := addr.toNat
  let k := c.chan ch.toNat
  let bs := c.t.dataBytes d size
  if isFabric va then
    Lane.check (s.fabricFails addr size ++ s.brokenFails c ch.toNat) <|
      if s.loadsHeld c.t.ref || !s.chanTakes k (fabricDst va) n then .hold 0 (!s.roomFor k (fabricDst va))
      else .pass ((s.settleLoads c.t.ref).sendOp k c.die c.asid n false [⟨fabricDst va, .data, .write (fabricTarget va) bs⟩])
  else
    let x := s.access c addr size .write
    let p := placeOf x
    Lane.check (failsOf x
        ++ when ((failsOf x).isEmpty && s.placeTagged p.key size) (Cause.permission.at_ va)
        ++ when ((failsOf x).isEmpty && p.home = c.die && s.lockHit c.die (.global c.asid) va size false) (Cause.rangeLock.at_ va)
        ++ when (!inAperture va && s.ownedElsewhere c.t.ref.grid c.t.ref.team c.asid va size true) (Cause.ownedElsewhere.at_ va)
        ++ s.brokenFails c ch.toNat) <|
      if s.loadsHeld c.t.ref || !s.chanTakes k (s.here p.home) n || s.pathClash c.core c.t.ref p.key size (some ch.toNat) then .hold 0 (!s.roomFor k (s.here p.home))
      else
        let s1 := (if inAperture va then s else s.cacheLeaf c.core c.asid va).settleLoads c.t.ref
        let s2 := s1.writeBack fun e => e.core = c.core && decide (p.key ≤ e.place ∧ e.place < p.key + size)
        let s3 := s2.pushStore n c.core c.t.ref p.aperture p.key bs (some ch.toNat) true
        .pass (s3.sendOp k c.die c.asid n false [⟨s3.here p.home, .data, .write (.place p.key va) bs⟩])

/-- RST. -/
def execRst (ch : BitVec 4) (sz : Size) (d a : Reg) (off : BitVec 6) (s : State) : Host.Outcome State Fault Refusal :=
  s.long (.rst ch sz d a off) (rstWord ch sz.bytes d a off)

/-! ## QWAIT, WAKE as words (R215, R216) -/

/-- The local bytes of a thread: its address and stack size S (R111). -/
def State.localBytes (s : State) (c : Ctx) : Nat × Nat :=
  match (s.context? c.asid).bind (·.window) with
  | some (_, _, stack) => (c.team.localSlot + c.t.ref.tid * stack, stack)
  | none => (c.team.localSlot, 0)

/-- The checks on a queue or node address that a translation makes. -/
def State.queueAccess (s : State) (c : Ctx) (va : Nat) : Except (List Fail) Place :=
  match s.translate c.core c.asid c.system va .write with
  | .ok p => .ok p
  | .error f => .error [f]

/-- The checks on the queue of QWAIT and WAKE. -/
def State.queueChecks (s : State) (c : Ctx) (q : W64) : List Fail × Place :=
  let va := q.toNat
  let bad := Cause.permission.at_ va
  let shape := when (va % 16 ≠ 0) (Cause.alignment.at_ va) ++ when (!validAddr q || inAperture va || isFabric va) bad
  let x := if shape.isEmpty then s.queueAccess c va else .error []
  (shape ++ failsOf x ++ when (placeOf x).host bad
    ++ when (s.lockHit c.die (.global c.asid) va 16 false) (Cause.rangeLock.at_ va)
    ++ when (s.ownedElsewhere c.t.ref.grid c.t.ref.team c.asid va 16 true) (Cause.ownedElsewhere.at_ va), placeOf x)

/-- QWAIT in one thread: the link is requested and the thread blocks. -/
def qwaitWord (batch : Nat) (a b : Reg) (c : Ctx) (_mark op : Nat) (s : State) : Lane :=
  let q := c.t.rd64 a
  let n := (c.t.rd b).toNat
  let (fs, p) := s.queueChecks c q
  let bytes := s.localBytes c
  let y := s.queueAccess c n
  let node := placeOf y
  let remote := p.home ≠ c.die
  Lane.check (fs ++ when (n % 16 ≠ 0) (Cause.alignment.at_ n)
      ++ when (n < bytes.1 || bytes.1 + bytes.2 < n + 16) (Cause.permission.at_ n) ++ failsOf y
      ++ when (s.lockHit c.die (.global c.asid) n 16 false) (Cause.rangeLock.at_ n)
      ++ when (s.ownedElsewhere c.t.ref.grid c.t.ref.team c.asid n 16 true) (Cause.ownedElsewhere.at_ n)
      ++ (if fs.isEmpty && remote then s.brokenFails c 0 else [])) <|
    if s.loadsHeld c.t.ref || s.seenPending c.t.ref || (remote && !s.chanTakes (c.chan 0) (s.here p.home) batch) then
      .hold 0 (remote && !s.roomFor (c.chan 0) (s.here p.home))
    else
      let s0 := (s.cacheLeaf c.core c.asid q.toNat).cacheLeaf c.core c.asid n
      let s1 := ((s0.settleLoads c.t.ref).flushGranule c.core p.key).flushGranule c.core node.key
      .done ((s1.forget c.core node.key 16).request c op batch (s.laneOf c) p q.toNat (.link node.key n) false 0 (if remote then some 0 else none) (!remote))
        (.waitQueue node.key)

/-- QWAIT: a blocking point; it first waits for the open pending sets (R33). -/
def execQwait (a b : Reg) (s : State) : Host.Outcome State Fault Refusal := s.batch (.qwait a b) true (qwaitWord s.nextOp a b)

/-- WAKE in one thread: a release at package scope, then the request to the queue's gang, with its batch (R221), on ch0 for another die; its count is awaited by
interlock. A channel that breaks while the word waits refuses it (R265). -/
def wakeWord (batch : Nat) (d a b : Reg) (c : Ctx) (mark op : Nat) (s : State) : Lane :=
  let q := c.t.rd64 a
  let (fs, p) := s.queueChecks c q
  let m := if mark = 0 then op else mark
  let remote := p.home ≠ c.die
  Lane.check ((if mark = 0 then fs else []) ++ (if fs.isEmpty && remote then s.brokenFails c 0 else [])) <|
    if !s.released c.t.ref c.core .package m || (remote && !s.chanTakes (c.chan 0) (s.here p.home) batch) then
      .hold m (remote && !s.roomFor (c.chan 0) (s.here p.home))
    else
      .done ((s.cacheLeaf c.core c.asid q.toNat).request c op batch (s.laneOf c) p q.toNat (.wake (c.t.rd b).toNat) true d (if remote then some 0 else none) (!remote)) .interlock

/-- WAKE. -/
def execWake (d a b : Reg) (s : State) : Host.Outcome State Fault Refusal := s.batch (.wake d a b) false (wakeWord s.nextOp d a b)

end Sys2Proof.Machine
end

