-- ==== Sys2Proof/Machine/EngineCore.lean ====
section
/-! DEFINITION. What copies and engine operations share (R128 to R132): ranges, their checks and locks, how bytes land, credits, completion and stops. -/

namespace Sys2Proof.Machine

/-! ## Ranges -/

/-- A range an operation names: n rows of row bytes, stride apart, from a side on. -/
structure Hull where
  side : Side
  n : Nat
  stride : Nat
  row : Nat
  write : Bool
  deriving DecidableEq, Repr

/-- Bytes from the first to the end of the last row. -/
def Hull.len (h : Hull) : Nat := if h.n = 0 then 0 else (h.n - 1) * h.stride + h.row

/-- Some row of n rows at base touches [b, b+l). -/
def rowsMeet (base n stride row b l : Nat) : Bool :=
  let i := if b < base + row then 0 else if stride = 0 then n else (b - base - row) / stride + 1
  i < n && overlap (base + i * stride) row b l

/-- The space and first address of a side as range locks name it: scratch at its aperture address (R130). -/
def Ctx.lockSide (c : Ctx) (x : Side) : Option (Space × Nat) :=
  match x with
  | .none | .fabric _ => none
  | .global va => some (.global c.asid, va)
  | .scratch off => some (.global c.asid, c.apertureOf off)
  | .obuf off => some (.obuf c.cluster, off)
  | .bstore off => some (.bstore c.cluster, off)

/-- The lock of a range. -/
def Ctx.lockOf (c : Ctx) (op : Nat) (h : Hull) : List Lock :=
  match c.lockSide h.side with
  | some (sp, a) => [{ op := op, cluster := c.cluster, write := h.write, space := sp, lo := a, hi := a + h.len }]
  | none => []

/-- Two ranges share a byte between their ends. -/
def Ctx.hullsMeet (c : Ctx) (x y : Hull) : Bool :=
  match c.lockSide x.side, c.lockSide y.side with
  | some (s1, a), some (s2, b) => s1 == s2 && overlap a x.len b y.len
  | _, _ => false

/-! ## Checks on a range -/

/-- [lo, hi) is covered by ranges; fuel: how many of them may be used. -/
def covered (rs : List (Nat × Nat)) (lo hi : Nat) : Nat → Bool
  | 0 => decide (hi ≤ lo)
  | fuel + 1 => if hi ≤ lo then true else match rs.find? fun r => r.1 ≤ lo && lo < r.2 with
    | some r => covered rs r.2 hi fuel
    | none => false

/-- The storage a team has reserved in a space of a cluster and has not given up. -/
def State.reservedRanges (s : State) (c : Ctx) (space : Nat) : List (Nat × Nat) :=
  (s.reservations.filter fun v => v.cluster = c.cluster && v.grid = c.t.ref.grid && v.team = c.t.ref.team && v.space = space && !v.releasing).map
    fun v => (v.base, v.base + v.len)

/-- Bytes of the operand buffer lie in reservations of the team. -/
def State.obufReserved (s : State) (c : Ctx) (off n : Nat) : Bool :=
  let rs := s.reservedRanges c 0
  covered rs off (off + n) (rs.length + 1)

/-- Bytes of the B store lie in reservations of the team, slice by slice (R143). -/
def State.bstoreReserved (s : State) (c : Ctx) (off n : Nat) : Bool :=
  let rs := s.reservedRanges c 1
  (List.range ((off + n - 1) / 0x40000 - off / 0x40000 + 1)).all fun k =>
    let slice := off / 0x40000 + k
    covered rs (max off (slice * 0x40000) - slice * 0x40000) (min (off + n) ((slice + 1) * 0x40000) - slice * 0x40000) (rs.length + 1)

/-- Rows of a buffer range to look at: with stride 0 they are one. -/
def Hull.rowStarts (h : Hull) (base : Nat) : List Nat :=
  if h.stride = 0 then [base] else (List.range h.n).map fun i => base + i * h.stride

/-- The checks of a range of global addresses: R109, R110, R258, R289 at its first and last byte. -/
def State.globalFails (s : State) (c : Ctx) (h : Hull) (va : Nat) (r : Right) : List Fail :=
  let last := va + h.len - 1
  let bad := Cause.permission.at_ va
  if 2 ^ 64 ≤ last || !validAddr (BitVec.ofNat 64 va) || !validAddr (BitVec.ofNat 64 last) || isFabric va || isFabric last then [bad]
  else
    let one (a : Nat) : List Fail := match s.resolve c.core c.asid c.system a 1 r with
      | .ok _ => []
      | .error f => [f]
    one va ++ one last
      ++ (match inAperture va, s.aperturePlace c.asid va 1 with
        | true, .ok p => when (h.write && s.placeTagged p.key h.len) bad
        | _, _ => [])

/-- The checks of a range: space bounds, reservations, R109, translation of its first and last byte, tagged hurdles (R131, R202). -/
def State.hullFails (s : State) (c : Ctx) (h : Hull) : List Fail :=
  match h.side with
  | .none => []
  | .fabric va => addrFails (BitVec.ofNat 64 va) 1 ++ when (!s.fabricOk va || !isFabric (va + h.len - 1)) (Cause.permission.at_ va)
  | .global va => s.globalFails c h va (if h.write then .write else .read)
  | .scratch off =>
    when (c.scratchSize < off + h.len || (h.write && s.tagHit c.t.ref.grid c.t.ref.team off h.len)) (Cause.permission.at_ off)
  | .obuf off => when (0x800000 < off + h.len || !(h.rowStarts off).all fun x => s.obufReserved c x h.row) (Cause.permission.at_ off)
  | .bstore off => when (0x2000000 < off + h.len || !(h.rowStarts off).all fun x => s.bstoreReserved c x h.row) (Cause.permission.at_ off)

/-- R122: an interval of another team that the rows may not touch. -/
def State.hullOwned (s : State) (c : Ctx) (h : Hull) : List Fail :=
  match h.side with
  | .global va =>
    when (s.intervals.any fun i => i.asid = c.asid && !i.heldBy c.t.ref.grid c.t.ref.team && (i.writable || h.write)
      && rowsMeet va h.n h.stride h.row i.base i.len) (Cause.ownedElsewhere.at_ va)
  | _ => []

/-- The checks on the scratch offset of a descriptor of n bytes aligned to align. -/
def Ctx.descFails (c : Ctx) (o align n : Nat) : List Fail :=
  when (o % align ≠ 0) (Cause.alignment.at_ o) ++ when (c.scratchSize < o + n) (Cause.permission.at_ o)

/-- The checks on a hurdle operand; field 0 names none. -/
def Ctx.hurdleOperand (c : Ctx) (b : Reg) : List Fail := if b = 0 then [] else c.hurdleChecks (c.t.rd b).toNat

/-- The checks on a progress record's offset (R128). -/
def Ctx.progFails (c : Ctx) (prog : Nat) : List Fail :=
  if prog = 0xFFFFFFFF then [] else when (prog % 32 ≠ 0) (Cause.alignment.at_ prog) ++ when (c.scratchSize < prog + 32) (Cause.permission.at_ prog)

/-! ## Registering -/

/-- The holder's own bytes and lines before its operation (R122): dirty bytes of a source written back, lines of a destination dropped after their dirty bytes. -/
def State.holderReady (s : State) (c : Ctx) (h : Hull) : State :=
  match h.side with
  | .global va =>
    if h.write then
      let mine (l : Line) : Bool := l.owner == c.core && l.asid == c.asid && overlap l.va 128 va h.len && s.lineOwned l c.core
      let s1 := s.writeBack fun d => d.core = c.core && d.asid = c.asid && decide (va / 128 ≤ d.va / 128 ∧ d.va / 128 ≤ (va + h.len - 1) / 128)
      { s1 with l1 := s1.l1.filter fun l => !mine l }
    else s.writeBack fun d => d.core = c.core && d.asid = c.asid && decide (va ≤ d.va ∧ d.va < va + h.len)
  | _ => s

/-- The place of a destination in scratch, the team's own or through the aperture. -/
def State.scratchPlace (s : State) (c : Ctx) (x : Side) : Option Nat :=
  match x with
  | .scratch off => some (scratchKey c.core (c.team.scratch + off))
  | .global va => if inAperture va then match s.aperturePlace c.asid va 1 with
      | .ok p => some p.key
      | .error _ => none else none
  | _ => none

/-- The scratch line of the team that holds 128 bytes of a core's pool, by their place (R114, R286). -/
def State.scratchLine (s : State) (line : Nat) : Option ScratchLine :=
  let off := scratchOff (line * 128)
  (s.holderAt (scratchCore (line * 128)) off 1).map fun t => ⟨t.grid, t.idx, (off - t.scratch) / 128⟩

/-- Where a scratch line stands, as a place / 128: on its team's core, or where the core of its team last had it. -/
def State.linePlace (s : State) (l : ScratchLine) : Option Nat := (s.team? l.grid l.team).map fun t => scratchKey t.lastCore t.scratch / 128 + l.line

/-- The scratch lines a destination range writes (R114). The indices of a CPYS are read later, row by row: every line that a row of any index below ILIMIT could write
is cleared, and set again at the end at the latest. DESIGN CHOICE (log 62). -/
def State.presenceLines (s : State) (c : Ctx) (h : Hull) : List ScratchLine :=
  match s.scratchPlace c h.side with
  | some key =>
    let lines := (List.range ((key + h.len - 1) / 128 - key / 128 + 1)).map (key / 128 + ·)
    (lines.filter fun l => rowsMeet key h.n h.stride h.row (l * 128) 128).filterMap s.scratchLine
  | none => []

/-- The table of the cluster has no room for these locks (R130). -/
def State.locksFull (s : State) (c : Ctx) (hs : List Hull) : Bool := 256 < s.lockCount c.cluster + hs.length

/-- The ranges an operation names: the first is the source when there is one. -/
def State.rangeChecks (s : State) (c : Ctx) (hs : List Hull) : List Fail :=
  hs.flatMap (s.hullFails c) ++ hs.flatMap (s.hullOwned c)

/-- The dies that byte ranges of a context are homed on, other than one die (R255). -/
def State.rowDies (s : State) (core asid : Nat) (system : Bool) (ranges : List (Nat × Nat)) (die : Nat) (r : Right) : List DieId :=
  ((ranges.flatMap fun x => pageStarts x.1 x.2).filterMap fun p => match s.resolve core asid system p 1 r with
    | .ok q => if q.home = die then none else some (s.here q.home)
    | .error _ => none).eraseDups

/-- The destination dies a range is homed on beside the issuing one: with any, the word issues on its channel (R255). -/
def State.hullDies (s : State) (c : Ctx) (h : Hull) : List DieId :=
  match h.side with
  | .fabric va => [{ dev := fabricDev va, die := fabricDie va }]
  | .global va => if h.n * h.row = 0 then [] else s.rowDies c.core c.asid c.system ((h.rowStarts va).map fun a => (a, h.row)) c.die (if h.write then .write else .read)
  | _ => []

/-- Bytes of the ranges are homed on another die. -/
def State.hullsRemote (s : State) (c : Ctx) (hs : List Hull) : Bool := hs.any fun h => !(s.hullDies c h).isEmpty

/-- The channel has no room for a packet to some destination of an operation: its thread stays at its stop (R259, R260). -/
def State.channelFull (s : State) (c : Ctx) (ch : Nat) (ds : List DieId) : Bool := ds.any fun d => !s.roomFor (c.chan ch) d

/-- An operation that goes to some dies can take its place on the channel now (R256, R259, R260). -/
def State.channelTakes (s : State) (c : Ctx) (ch op : Nat) (ds : List DieId) : Bool :=
  ds.isEmpty || (!s.unsentBefore (c.chan ch) op && !s.channelFull c ch ds)

/-- A side of memory, read or written by address. -/
def Side.travels (x : Side) : Bool :=
  match x with
  | .global _ | .fabric _ => true
  | _ => false

/-- An access that a thread made before an operation of it, or a store it has read on its way, is not performed (R227, R245). -/
def State.earlierPending (s : State) (r : TRef) (op : Nat) : Bool :=
  s.wtb.any (fun w => w.op < op && w.knownTo r) || s.atoms.any fun a => a.thread == r && a.op < op && !a.performed && match a.req with
    | .link _ _ | .unlink _ => false
    | _ => true

/-- The thread that issued the operation. -/
def EngineOp.thread (e : EngineOp) : TRef := ⟨e.grid, e.team, e.tid⟩

/-- The operation's accesses come after those its thread made before it (R245). -/
def State.engineWaits (s : State) (e : EngineOp) : Bool := s.earlierPending e.thread e.op

/-- An engine operation registered: earlier loads of its thread are read, its locks stand, presence bits are cleared, and its place in its channel's order is
taken when bytes of it are homed on another die (R131, R255, R256); sends: it sends packets whatever its sides are. -/
def State.register (s : State) (c : Ctx) (e : EngineOp) (hs : List Hull) (sends : Bool := false) : State :=
  let s1 := hs.foldl (fun s h => s.holderReady c h) (s.settleLoads c.t.ref)
  let s2 := { s1 with locks := s1.locks ++ hs.flatMap (c.lockOf e.op) }
  let lines := ((hs.filter (·.write)).flatMap (s.presenceLines c)).eraseDups
  let s3 := { s2 with absent := s2.absent ++ lines.filter fun l => !s2.absent.contains l }
  if sends || s.hullsRemote c hs then
    let (ord, s4) := s3.openOp (c.chan e.ch) e.op 1 false
    { s4 with engines := s4.engines ++ [{ e with ord := ord, cleared := lines }] }
  else { s3 with engines := s3.engines ++ [{ e with cleared := lines }] }

/-- The operation of a word before its kind is filled in. -/
def Ctx.engineOf (c : Ctx) (op : Nat) (kind : EngineKind) (ch : Nat) (src dst : Side) (rows rowBytes : Nat) (prog hurdle : Option Nat) : EngineOp :=
  { op := op, kind := kind, grid := c.t.ref.grid, team := c.t.ref.team, cluster := c.cluster, core := c.core, asid := c.asid, system := c.system, ch := ch,
    ord := 0, src := src, dst := dst, rows := rows, rowBytes := rowBytes, sstride := 0, dstride := 0, prog := prog, hurdle := hurdle, started := false,
    idx := [], frow := 0, pieces := [], landed := 0, homes := [], stopped := none, tid := c.t.ref.tid }

/-- The hurdle offset of an operand; field 0 names none. -/
def Ctx.hurdleOf (c : Ctx) (b : Reg) : Option Nat := if b = 0 then none else some (c.t.rd b).toNat

/-- The progress record of a descriptor field; all ones name none. -/
def progOf (x : Nat) : Option Nat := if x = 0xFFFFFFFF then none else some x

/-! ## Credits, completion, stops (R129, R132) -/

/-- An engine operation's record. -/
def State.engine? (s : State) (op : Nat) : Option EngineOp := s.engines.find? fun e => e.op = op

/-- An engine operation's record put in place. -/
def State.putEngine (s : State) (e : EngineOp) : State := { s with engines := updWhere (fun x => x.op = e.op) (fun _ => e) s.engines }

/-- The scope a credit records (R205): the widest of the homes written. -/
def EngineOp.scope (e : EngineOp) : Scope := rankScope (e.homes.foldl max 0)

/-! ## The order of operations on a tile (R153) -/

/-- The tile an engine operation works on. -/
def EngineOp.tile? (e : EngineOp) : Option Nat :=
  match e.kind with
  | .accrd tile _ _ _ _ _ _ _ | .accclr tile => some tile
  | _ => none

/-- No earlier registered operation on the tile is pending. -/
def State.tileFirst (s : State) (cluster tile op : Nat) : Bool :=
  !(s.mmas.any fun m => m.cluster = cluster && m.tile = tile && m.op < op)
    && !(s.engines.any fun e => e.cluster = cluster && e.tile? = some tile && e.op < op)

/-- A tile cleared (R149). -/
def State.clearTile (s : State) (cluster tile : Nat) : State := (s.zero (tileKey cluster tile 0) 0x20000).setTileKind cluster tile .cleared

/-- The clears of a tile whose turn has come are performed. fuel: operations looked at. -/
def State.settleTile (s : State) (cluster tile : Nat) : Nat → State
  | 0 => s
  | fuel + 1 =>
    match s.engines.find? fun e => e.cluster = cluster && e.kind = .accclr tile && s.tileFirst cluster tile e.op with
    | none => s
    | some e =>
      let s1 := s.clearTile cluster tile
      ({ s1 with engines := s1.engines.filter fun x => x.op ≠ e.op } : State).settleTile cluster tile fuel

/-- Every tile of a cluster looked at after an operation has ended. -/
def State.settleTiles (s : State) (cluster : Nat) : State := (List.range 4).foldl (fun s t => s.settleTile cluster t s.engines.length) s

/-- The engine leaves: locks, presence bits, its place on its channel; clears of its tile that waited for it;
reservations given up become free. -/
def State.retireEngine (s : State) (e : EngineOp) : State :=
  let s1 := (({ s with engines := s.engines.filter fun x => x.op ≠ e.op } : State).unlock e.op).present e.cleared
  let s2 := if e.ord = 0 then s1 else s1.modOp (.team e.grid e.team e.ch) e.op fun o => { o with left := o.left - 1 }
  (s2.settleTiles e.cluster).freeReservations.closeSlots

/-- The progress record written (R129). -/
def State.writeProgress (s : State) (e : EngineOp) (faddr frow status : Nat) : State :=
  match e.prog, s.team? e.grid e.team with
  | some p, some t => s.teamLand t p (leBytes e.landed 8 ++ leBytes faddr 8 ++ leBytes frow 4 ++ leBytes status 1 ++ leBytes 0 11)
  | _, _ => s

/-- An RRED is credited one arrival, a release at package scope, and no bytes (R267). -/
def EngineOp.isRred (e : EngineOp) : Bool :=
  match e.kind with
  | .rred _ => true
  | _ => false

/-- A byte credit of the operation. -/
def State.engineCredit (s : State) (e : EngineOp) (n flags : Nat) : State :=
  match e.hurdle with
  | some h => s.credit e.grid e.team h n [e.scope] flags
  | none => s

/-- What the hurdle gets with the operation's end. -/
def State.engineEnd (s : State) (e : EngineOp) (n flags : Nat) : State :=
  if e.isRred then
    match e.hurdle with
    | some h => s.arrive e.grid e.team h 1 [.package] [] flags
    | none => s
  else s.engineCredit e n flags

/-- The operation's channel looked at after a change. -/
def State.engineChan (s : State) (e : EngineOp) : State := if e.ord = 0 then s else s.settleChan (.team e.grid e.team e.ch)

/-- R132: the record, the locks, the final credit. -/
def State.completeEngine (s : State) (e : EngineOp) (last flags : Nat) : State :=
  ((((s.writeProgress e 0 e.rows 0).retireEngine e).engineEnd e last flags)).engineChan e

/-- A stopped operation ends once nothing it sent is on its way: its record with the status, the locks, ERR on its hurdle. -/
def State.settleStop (s : State) (op : Nat) : State :=
  match s.engine? op with
  | none => s
  | some e =>
    match e.stopped with
    | none => s
    | some (status, addr) =>
      if e.inFlight then s
      else (((s.writeProgress e addr e.frow status).retireEngine e).engineEnd e 0 2).engineChan e

/-! ## Rows and pieces -/

/-- The address a side is reported as: scratch at its aperture address. -/
def State.sideAddr (s : State) (e : EngineOp) (x : Side) : Nat :=
  match x with
  | .none => 0
  | .global va | .fabric va => va
  | .scratch off => match s.team? e.grid e.team with
    | some t => apertureAddr t.lastCore (t.scratch + off)
    | none => off
  | .obuf off | .bstore off => off

/-- The bytes of a row landed so far. -/
def EngineOp.rowLanded (e : EngineOp) (row : Nat) : Nat := ((e.pieces.filter fun p => p.row = row && p.landed).map (·.len)).sum

/-- Bytes [a, b) of a row are all landed. -/
def EngineOp.landedIn (e : EngineOp) (row a b : Nat) : Bool :=
  row < e.frow || decide (b - a ≤ ((e.pieces.filter fun p => p.row = row && p.landed).map fun p => min b (p.lo + p.len) - max a p.lo).sum)

/-- What reading a source comes to: its team is gone; a fault; a question to another die; the bytes and, for memory, their place. -/
inductive Fetched where
  | wait
  | fault (status addr : Nat)
  | ask (d : DieId) (t : Target)
  | bytes (bs : List Byte) (key : Nat)
  deriving DecidableEq, Repr

/-- n bytes of a side read by an operation, from the home and never from an L1 line (R132). -/
def State.readSide (s : State) (e : EngineOp) (x : Side) (n : Nat) : Fetched :=
  match x with
  | .none => .bytes (List.replicate n 0) 0
  | .scratch off => match s.team? e.grid e.team with
    | some t => .bytes (s.teamRead t off n) (scratchKey 0 0)
    | none => .wait
  | .obuf off => .bytes (s.rd (obufKey e.cluster off) n) (obufKey 0 0)
  | .bstore off => .bytes (s.rd (bstoreKey e.cluster off) n) (bstoreKey 0 0)
  | .fabric va => .ask (fabricDst va) (fabricTarget va)
  | .global va =>
    match s.resolve e.core e.asid e.system va n .read with
    | .error f => .fault f.cause.code va
    | .ok p =>
      if !p.aperture && s.ownedElsewhere e.grid e.team e.asid va n false then .fault 0x08 va
      else if p.home = dieOfCluster e.cluster then .bytes (s.homeRead p.key n) p.key
      else .ask (s.here p.home) (.place p.key va)

/-- A byte of a row as the copy would write it: read at its home, on whichever die of the device; a byte of another device is free (log 10). -/
def State.strayByte (s : State) (e : EngineOp) (row i : Nat) : Option (Byte × State) :=
  let read : Option (Byte × State) := match s.readSide e ((e.srcRow row).plus i) 1 with
    | .bytes bs _ => bs.head?.map fun b => (b, s)
    | .ask _ (.place key _) => (s.homeRead key 1).head?.map fun b => (b, s)
    | .ask _ _ => some (Config.poison s.draw, { s with draw := s.draw + 1 })
    | _ => none
  match e.kind with
  | .cpy | .rcpy => read
  | .cpyg _ _ | .cpys _ _ => if e.idx.any fun p => p.1 = row then read else none
  | .cpyf pattern => (leBytes pattern.toNat 4)[i % 4]?.map fun b => (b, s)
  | _ => none

/-- The place of a byte of a row in scratch, wherever its team's stands, and the line that holds it. -/
def State.strayPlace (s : State) (e : EngineOp) (row i : Nat) : Option (Team × Nat) :=
  match (e.dstRow row).plus i with
  | .scratch off => (s.team? e.grid e.team).map fun t => (t, off)
  | .global va => if inAperture va then match s.aperturePlace e.asid va 1 with
      | .ok p => (s.holderAt (scratchCore p.key) (scratchOff p.key) 1).map fun t => (t, scratchOff p.key - t.scratch)
      | .error _ => none else none
  | _ => none

/-- R132: as a copy stops, each byte of a scratch line that had not landed holds its old value or the copy's: by a draw, in the rows that may have landed in part
(log 10). -/
def State.strayRow (s : State) (e : EngineOp) (row : Nat) : State :=
  (List.range e.rowBytes).foldl (fun s i =>
    match s.strayPlace e row i with
    | none => s
    | some (t, off) =>
      if e.landedIn row i (i + 1) || !e.cleared.contains ⟨t.grid, t.idx, off / 128⟩ then s
      else match s.strayByte e row i with
        | none => s
        | some (b, s0) =>
          let (n, s1) := s0.choose
          if n % 2 = 0 then s1 else s1.teamLand t off [b]) s

/-- The operation stops at a fault: nothing more is read or sent. -/
def State.stopEngine (s : State) (op status addr : Nat) : State :=
  match s.engine? op with
  | none => s
  | some e =>
    let rows := (List.range (min 8 (e.rows - e.frow))).map (e.frow + ·)
    let s1 := if e.stopped.isNone && e.started then rows.foldl (fun s r => s.strayRow e r) s else s
    (s1.putEngine { e with stopped := e.stopped <|> some (status, addr), pieces := e.pieces.filter (·.sent), asks := [] }).settleStop op

/-- Rows fully landed from FROW on are passed. fuel: rows looked at. -/
def EngineOp.advance (e : EngineOp) : Nat → EngineOp
  | 0 => e
  | fuel + 1 =>
    if e.frow < e.rows && e.rowLanded e.frow = e.rowBytes then
      ({ e with frow := e.frow + 1, pieces := e.pieces.filter fun p => p.row ≠ e.frow } : EngineOp).advance fuel
    else e

/-- A scratch line still misses bytes of the operation. A row of CPYS that has no index yet may go anywhere. -/
def EngineOp.lineMissing (e : EngineOp) (key : Nat) (line : Nat) : Bool :=
  (List.range (e.rows - e.frow)).any fun k =>
    let row := e.frow + k
    match e.kind with
    | .cpys _ _ =>
      if e.idx.any fun p => p.1 = row then
        let a := key + e.index row * e.dstride
        overlap a e.rowBytes (line * 128) 128 && !e.landedIn row (line * 128 - a) (min e.rowBytes (line * 128 + 128 - a))
      else true
    | _ =>
      let a := key + row * e.dstride
      overlap a e.rowBytes (line * 128) 128 && !e.landedIn row (line * 128 - a) (min e.rowBytes (line * 128 + 128 - a))

/-- The place of an operation's destination in scratch. -/
def State.engineScratch (s : State) (e : EngineOp) : Option Nat :=
  match e.dst with
  | .scratch off => (s.team? e.grid e.team).map fun t => scratchKey t.lastCore (t.scratch + off)
  | .global va => if inAperture va then match s.aperturePlace e.asid va 1 with
      | .ok p => some p.key
      | .error _ => none else none
  | _ => none

/-- A line is one of the operation's destination rows, not of its tags or flags, which are present at the end. -/
def EngineOp.rowLine (e : EngineOp) (key line : Nat) : Bool :=
  match e.kind with
  | .cpys _ _ => true
  | _ => rowsMeet key e.rows e.dstride e.rowBytes (line * 128) 128

/-- Presence bits of lines that have every byte of the operation are set (R114). -/
def State.setPresence (s : State) (e : EngineOp) : State :=
  match s.engineScratch e with
  | some key =>
    let done := e.cleared.filter fun l => (s.linePlace l).any fun n => e.rowLine key n && !e.lineMissing key n
    if done.isEmpty then s
    else (s.present done).putEngine { e with cleared := e.cleared.filter fun l => !done.contains l }
  | none => s

/-- Bytes [lo, lo+n) of a row have landed: presence bits, the credit, and with the last byte the end (R132). -/
def State.pieceLanded (s : State) (op row lo n rank : Nat) : State :=
  match s.engine? op with
  | none => s
  | some e =>
    let e1 := { e with pieces := updWhere (fun p => p.row = row && p.lo = lo) (fun p => { p with sent := true, landed := true }) e.pieces,
                       landed := e.landed + n, homes := if e.homes.contains rank then e.homes else e.homes ++ [rank] }
    let e2 := e1.advance 9
    let s1 := (s.putEngine e2).setPresence e2
    if e2.frow = e2.rows && e2.stopped.isNone then s1.completeEngine ((s1.engine? op).getD e2) n 0
    else ((if e2.isRred then s1 else s1.engineCredit e2 n 0)).settleStop op

/-- The core of an operation's hurdle: where its team stands or last stood. -/
def State.hurdleCore (s : State) (e : EngineOp) : Nat := ((s.team? e.grid e.team).map (·.lastCore)).getD e.core

/-- How far a home die is from the core of an operation's hurdle, as a scope rank (R205). -/
def State.rankOfDie (s : State) (e : EngineOp) (die : Nat) : Nat := if dieOfCore (s.hurdleCore e) = die then 2 else 3

/-- How far a cluster is from it. -/
def State.rankOfCluster (s : State) (e : EngineOp) (cluster : Nat) : Nat :=
  if clusterOfCore (s.hurdleCore e) = cluster then 1 else s.rankOfDie e (dieOfCluster cluster)

/-- The entries of tables that translating a side of an operation reads (R17). -/
def State.noteSide (s : State) (e : EngineOp) (x : Side) : State :=
  match x with
  | .global va => if inAperture va || isFabric va then s else s.noteWalk (s.walkKeys e.core e.asid va)
  | _ => s

/-- The part number of a piece. -/
def partOf (row lo : Nat) : Nat := row * 2 ^ 25 + lo

/-- A piece marked as sent. -/
def State.pieceSent (s : State) (op row lo : Nat) : State :=
  let mark (e : EngineOp) : EngineOp := { e with pieces := updWhere (fun p => p.row = row && p.lo = lo) (fun p => { p with sent := true }) e.pieces }
  { s with engines := updWhere (fun e => e.op = op) mark s.engines }

/-- A write of an operation sent to a die on its channel. An operation that had no place in the channel's order takes one. -/
def State.engineSend (s : State) (e : EngineOp) (row lo : Nat) (d : DieId) (t : Target) (bs : List Byte) : State :=
  let k := ChanKey.team e.grid e.team e.ch
  (s.pieceSent e.op row lo).sendParts k (dieOfCluster e.cluster) e.asid e.op e.ord (partOf row lo) [⟨d, .data, .write t bs⟩]

/-- The operation has a place on its channel, taken now if it had none (R256). -/
def State.engineOrd (s : State) (e : EngineOp) : EngineOp × State :=
  if e.ord ≠ 0 then (e, s)
  else
    let (ord, s1) := s.openOp (.team e.grid e.team e.ch) e.op 1 false
    ({ e with ord := ord }, s1.putEngine { e with ord := ord })

/-- The channel can take a packet of the operation to a die; a broken one stops it with 0x15 (R265). -/
def State.engineRoom (s : State) (e : EngineOp) (d : DieId) : Bool := s.roomFor (.team e.grid e.team e.ch) d

/-- Bytes of a contribution read in order; the whole one is sent on the channel to its switch die (R255, R267). -/
def State.gather (s : State) (e : EngineOp) (c : Contribution) (bs : List Byte) : State :=
  let c1 := { c with data := c.data ++ bs }
  let k := ChanKey.team e.grid e.team e.ch
  if c1.data.length < e.rowBytes then s.putEngine { e with kind := .rred c1, pieces := [] }
  else if s.chanBroken k then s.stopEngine e.op 0x15 (s.sideAddr e e.dst)
  else (s.putEngine { e with kind := .rred c1, pieces := [] }).sendParts k (dieOfCluster e.cluster) e.asid e.op e.ord 0
    (rowPackets (s.switchDie c1) c1.data (.contrib c1))

/-- Bytes [lo, lo + bs.length) of a row written where they belong. A piece that cannot be sent yet stays as it is. -/
def State.writeRow (s0 : State) (op row lo : Nat) (bs : List Byte) : State :=
  match s0.engine? op with
  | none => s0
  | some e =>
    let s := s0.noteSide e ((e.dstRow row).plus lo)
    let n := bs.length
    let die := dieOfCluster e.cluster
    let k := ChanKey.team e.grid e.team e.ch
    let remote (d : DieId) (t : Target) (addr : Nat) : State :=
      if s.chanBroken k then s.stopEngine op 0x15 addr
      else
        let (e1, s1) := s.engineOrd e
        s1.engineSend e1 row lo d t bs
    match (e.dstRow row).plus lo with
    | .none => s.pieceLanded op row lo n 0
    | .scratch off => match s.team? e.grid e.team with
      | some t => (s.teamLand t off bs).pieceLanded op row lo n 0
      | none => s
    | .obuf off => (s.wr (obufKey e.cluster off) bs).pieceLanded op row lo n (s.rankOfCluster e e.cluster)
    | .bstore off => (s.wr (bstoreKey e.cluster off) bs).pieceLanded op row lo n (s.rankOfCluster e e.cluster)
    | .fabric va => remote (e.fabricTo row lo va).1 (e.fabricTo row lo va).2 va
    | .global va =>
      match s.resolve e.core e.asid e.system va n .write with
      | .error f => s.stopEngine op f.cause.code va
      | .ok p =>
        if !p.aperture && s.ownedElsewhere e.grid e.team e.asid va n true then s.stopEngine op 0x08 va
        else
          let own : State :=
            if p.home ≠ die then remote (s.here p.home) (.place p.key va) va
            else if !p.aperture then (s.homeWrite p.key bs).pieceLanded op row lo n (s.rankOfDie e die)
            else if s.placeTagged p.key n then s.stopEngine op 0x07 va
            else (s.wr p.key bs).pieceLanded op row lo n (s.rankOfCluster e (clusterOfCore (scratchCore p.key)))
          match e.kind with
          | .rmc slots _ => remote (((slots[row]?).map (·.1)).getD (s.here p.home)) (.place p.key va) va
          | .rred _ => remote (s.here p.home) (.place p.key va) va
          | _ => own

/-- Bytes read for a row: an RRED still gathers its contribution, the other kinds write them. -/
def State.landBytes (s : State) (op row lo : Nat) (bs : List Byte) : State :=
  match s.engine? op with
  | none => s
  | some e =>
    match e.kind with
    | .rred c => if c.data.length < e.rowBytes then s.gather e c bs else s.writeRow op row lo bs
    | _ => s.writeRow op row lo bs

/-- Bytes from an address to the end of its 256-byte granule. -/
def Side.toGranule (x : Side) : Nat :=
  match x with
  | .none => 256
  | .global a | .fabric a | .scratch a | .obuf a | .bstore a => 256 - a % 256

/-- A piece a landing names, cut at the row's end and at the granules of its source and destination; none where it is empty or meets a piece under way. -/
def EngineOp.pieceAt (e : EngineOp) (row lo len : Nat) : Option Piece :=
  let n := min (min len (e.rowBytes - lo)) (min ((e.dstRow row).plus lo).toGranule ((e.srcRow row).plus lo).toGranule)
  if n = 0 || e.pieces.any (fun p => p.row = row && overlap p.lo p.len lo n) then none
  else some { row := row, lo := lo, len := n, sent := false, landed := false }

/-- A row is in the window FROW to FROW + 7 (R129). -/
def EngineOp.inWindow (e : EngineOp) (row : Nat) : Bool := e.frow ≤ row && row < e.frow + 8 && row < e.rows

/-- Of two rows of a CPYS that write the same byte the higher one's value stands (R131): its bytes wait for those of each lower row not known to go elsewhere. -/
def EngineOp.behindLower (e : EngineOp) (row lo n : Nat) : Bool :=
  match e.kind with
  | .cpys _ _ => (List.range (row - e.frow)).any fun k =>
      let r := e.frow + k
      !(e.idx.any fun p => p.1 = r && p.2 ≠ e.index row) && !e.sentIn r lo (lo + n)
  | _ => false

/-- A piece taken up. -/
def State.addPiece (s : State) (op : Nat) (p : Piece) : State :=
  { s with engines := updWhere (fun e => e.op = op) (fun e => { e with pieces := e.pieces ++ [p] }) s.engines }

/-- A remote source asked for a piece, on the operation's channel in its order (R132). -/
def State.engineAsk (s : State) (e : EngineOp) (p : Piece) (d : DieId) (t : Target) : State :=
  if s.chanBroken (.team e.grid e.team e.ch) then s.stopEngine e.op 0x15 (s.sideAddr e ((e.srcRow p.row).plus p.lo))
  else if !s.engineRoom e d then s
  else
    let (e1, s1) := (s.addPiece e.op p).engineOrd { e with pieces := e.pieces ++ [p] }
    s1.sendParts (.team e.grid e.team e.ch) (dieOfCluster e.cluster) e.asid e.op e1.ord (partOf p.row p.lo) [⟨d, .areq, .get t p.len⟩]

/-- The room a landing needs at a remote destination. -/
def State.dstRoom (s : State) (e : EngineOp) (row lo : Nat) : Bool :=
  match (e.dstRow row).plus lo with
  | .fabric va => s.engineRoom e (e.fabricTo row lo va).1
  | .global va => match s.resolve e.core e.asid e.system va 1 .write with
    | .ok p => p.home = dieOfCluster e.cluster || s.engineRoom e (s.here p.home)
    | .error _ => true
  | _ => true

/-- One piece of a copying kind is read and written. -/
def State.copyPiece (s0 : State) (e : EngineOp) (p : Piece) : State :=
  let s := s0.noteSide e ((e.srcRow p.row).plus p.lo)
  let bs : Fetched := match e.kind with
    | .cpyf pattern => .bytes ((List.range p.len).map fun k => (leBytes pattern.toNat 4).getD ((p.lo + k) % 4) 0) 0
    | _ => s.readSide e ((e.srcRow p.row).plus p.lo) p.len
  if !s.dstRoom e p.row p.lo || e.behindLower p.row p.lo p.len then s0
  else match bs with
    | .wait => s0
    | .fault status addr => s.stopEngine e.op status addr
    | .ask d t => s.engineAsk e p d t
    | .bytes bs key => (((if e.src.travels then s.noteRead key p.len else s).addPiece e.op p).landBytes e.op p.row p.lo bs)

/-- The index of a row of CPYG or CPYS is read, once, when the engine reaches the row (R129); a bad one stops the copy at its row. -/
def State.readIndex (s : State) (e : EngineOp) (row : Nat) : Option (EngineOp × State) :=
  match e.kind, s.team? e.grid e.team with
  | .cpyg idx limit, some t | .cpys idx limit, some t =>
    if e.idx.any fun p => p.1 = row then some (e, s)
    else
      let v := leNat (s.teamRead t (idx + 4 * row) 4)
      if v < limit then
        let e1 := { e with idx := e.idx.filter (fun p => e.frow ≤ p.1) ++ [(row, v)] }
        some (e1, s.putEngine e1)
      else if row = e.frow then some (e, s.stopEngine e.op 0x07 (apertureAddr t.lastCore (t.scratch + idx + 4 * row)))
      else none
  | _, _ => some (e, s)

/-! ## What comes back on the channel -/

/-- Bytes of a remote source have come: they are written where they belong. -/
def State.engineAnswer (s : State) (op part : Nat) (bs : List Byte) : State :=
  let row := part / 2 ^ 25
  let lo := part % 2 ^ 25
  match s.engine? op with
  | none => s
  | some e => if e.stopped.isNone && e.pieces.any (fun p => p.row = row && p.lo = lo && !p.sent) then s.landBytes op row lo bs else s

/-- A write of the operation is acknowledged: its bytes have landed. -/
def State.engineAcked (s : State) (op part die : Nat) (own : Bool) : State :=
  let row := part / 2 ^ 25
  let lo := part % 2 ^ 25
  match s.engine? op with
  | none => s
  | some e =>
    match e.pieces.find? fun p => p.row = row && p.lo = lo && p.sent && !p.landed with
    | some p => s.pieceLanded op row lo p.len (if own then s.rankOfDie e die else 3)
    | none => s

/-- A packet of the operation was refused at its target: the copy stops with 0x16 (R268). -/
def State.engineRefused (s : State) (op part addr : Nat) : State :=
  let row := part / 2 ^ 25
  let lo := part % 2 ^ 25
  match s.engine? op with
  | none => s
  | some e => (s.putEngine { e with pieces := e.pieces.filter fun p => !(p.row = row && p.lo = lo) }).stopEngine op 0x16 addr

/-- The operation's channel broke: what it had sent is lost in part or whole, and it stops with 0x15 (R265). -/
def State.engineBroken (s : State) (op : Nat) : State :=
  match s.engine? op with
  | none => s
  | some e =>
    (s.putEngine { e with pieces := e.pieces.filter (·.landed), asks := [] }).stopEngine op 0x15 (s.sideAddr e (e.dstRow e.frow))

end Sys2Proof.Machine
end

