-- ==== Sys2Proof/Machine/Copies.lean ====
section
/-! DEFINITION. The copy words CPY, CPYG, CPYS, CPYF (R128, R131), RCPY, RMC (R266, R268) and RRED (R267) at issue. -/

namespace Sys2Proof.Machine

/-! ## Descriptors -/

/-- The copy descriptor's fields (R128). -/
structure CopyDesc where
  src : Nat
  dst : Nat
  rowBytes : Nat
  rows : Nat
  sstride : Nat
  dstride : Nat
  sspace : Nat
  dspace : Nat
  flags : Nat
  idx : Nat
  limit : Nat
  pattern : Nat
  prog : Nat
  rest : Nat
  deriving DecidableEq, Repr

/-- The fields in 64 bytes. -/
def copyDesc (bs : List Byte) : CopyDesc :=
  { src := fld bs 0 8, dst := fld bs 8 8, rowBytes := fld bs 0x10 4, rows := fld bs 0x14 4, sstride := fld bs 0x18 4, dstride := fld bs 0x1C 4,
    sspace := fld bs 0x20 1, dspace := fld bs 0x21 1, flags := fld bs 0x22 2, idx := fld bs 0x24 4, limit := fld bs 0x28 4,
    pattern := fld bs 0x2C 4, prog := fld bs 0x30 4, rest := fld bs 0x34 12 }

/-- Sizes within their ranges. -/
def CopyDesc.sized (f : CopyDesc) : Bool := 1 ≤ f.rowBytes && f.rowBytes ≤ 16777216 && 1 ≤ f.rows && f.rows ≤ 65536

/-- A side of a space code 0 to 3; a reserved code names none. -/
def sideOf (space addr : Nat) : Side :=
  match space with
  | 0 => .global addr
  | 1 => .scratch addr
  | 2 => .obuf addr
  | 3 => .bstore addr
  | _ => .none

/-- An address field fits its space. -/
def sideFits (space addr : Nat) : Bool := space ≤ 3 && (space = 0 || addr < 2 ^ 32)

/-- The four kinds of R131. -/
inductive CopyFn where
  | cpy | cpyg | cpys | cpyf
  deriving DecidableEq, Repr

/-- The kind reads an index list. -/
def CopyFn.listed (k : CopyFn) : Bool := k == .cpyg || k == .cpys

/-- Every field's rule holds (R128, R131). -/
def CopyDesc.ok (f : CopyDesc) (k : CopyFn) (scratch : Nat) : Bool :=
  f.sized && f.flags ≤ 1 && f.rest == 0 && sideFits f.sspace f.src && sideFits f.dspace f.dst && (f.rows = 1 || f.rowBytes ≤ f.dstride)
    && (if k = .cpyf then f.src == 0 && f.sspace == 0 && f.sstride == 0 else f.pattern == 0)
    && (if k.listed then 1 ≤ f.limit && f.idx % 4 == 0 && f.idx + 4 * f.rows ≤ scratch else f.idx == 0 && f.limit == 0)

/-- The source range; none for a fill. -/
def CopyDesc.source (f : CopyDesc) (k : CopyFn) : List Hull :=
  if k = .cpyf then []
  else [{ side := sideOf f.sspace f.src, n := if k = .cpyg then f.limit else f.rows, stride := f.sstride, row := f.rowBytes, write := false }]

/-- The destination range. -/
def CopyDesc.dest (f : CopyDesc) (k : CopyFn) : Hull :=
  { side := sideOf f.dspace f.dst, n := if k = .cpys then f.limit else f.rows, stride := f.dstride, row := f.rowBytes, write := true }

/-- The index list's range. -/
def CopyDesc.list (f : CopyDesc) (k : CopyFn) : List Hull :=
  if k.listed then [{ side := .scratch f.idx, n := f.rows, stride := 4, row := 4, write := false }] else []

/-- The kind of the engine operation. -/
def CopyDesc.kind (f : CopyDesc) (k : CopyFn) : EngineKind :=
  match k with
  | .cpy => .cpy
  | .cpyg => .cpyg f.idx f.limit
  | .cpys => .cpys f.idx f.limit
  | .cpyf => .cpyf (BitVec.ofNat 32 f.pattern)

/-- Source and destination share a byte. -/
def Ctx.selfOverlap (c : Ctx) (src : List Hull) (dst : Hull) (at_ : Nat) : List Fail := when (src.any fun h => c.hullsMeet h dst) (Cause.permission.at_ at_)

/-! ## CPY, CPYG, CPYS, CPYF -/

/-- A copy in one thread (R131). -/
def copyWord (k : CopyFn) (ch : BitVec 4) (a b : Reg) (c : Ctx) (_mark op : Nat) (s : State) : Lane :=
  let o := (c.t.rd a).toNat
  let base := c.descFails o 64 64 ++ c.hurdleOperand b
  if (c.descFails o 64 64).isEmpty then
    let f := copyDesc (s.teamRead c.team o 64)
    let hs := f.source k ++ [f.dest k]
    let formed := f.sized && (!k.listed || 1 ≤ f.limit)
    let all := hs ++ f.list k
    Lane.check (base ++ when (!f.ok k c.scratchSize) (Cause.permission.at_ o) ++ c.progFails f.prog
        ++ (if formed then s.rangeChecks c hs ++ c.selfOverlap (f.source k) (f.dest k) o
              ++ (if s.hullsRemote c hs then s.brokenFails c ch.toNat else []) else [])) <|
      if s.loadsHeld c.t.ref || s.locksFull c all || !s.channelTakes c ch.toNat op (hs.flatMap (s.hullDies c)) then .hold 0 (s.channelFull c ch.toNat (hs.flatMap (s.hullDies c)))
      else
        let e := c.engineOf op (f.kind k) ch.toNat (if k = .cpyf then .none else sideOf f.sspace f.src) (sideOf f.dspace f.dst) f.rows f.rowBytes
          (progOf f.prog) (c.hurdleOf b)
        .pass (s.register c { e with sstride := f.sstride, dstride := f.dstride } all)
  else .fail base

/-- CPY. -/
def execCpy (l ch : BitVec 4) (a b : Reg) (s : State) : Host.Outcome State Fault Refusal := s.long (.cpy l ch a b) (copyWord .cpy ch a b)

/-- CPYG: rows gathered by index. -/
def execCpyg (l ch : BitVec 4) (a b : Reg) (s : State) : Host.Outcome State Fault Refusal := s.long (.cpyg l ch a b) (copyWord .cpyg ch a b)

/-- CPYS: rows scattered by index. -/
def execCpys (l ch : BitVec 4) (a b : Reg) (s : State) : Host.Outcome State Fault Refusal := s.long (.cpys l ch a b) (copyWord .cpys ch a b)

/-- CPYF: a pattern. -/
def execCpyf (l ch : BitVec 4) (a b : Reg) (s : State) : Host.Outcome State Fault Refusal := s.long (.cpyf l ch a b) (copyWord .cpyf ch a b)

/-! ## RCPY (R268) -/

/-- A field names the fabric with its space 0. -/
def fabricSide (space addr : Nat) : Bool := space == 0 && isFabric addr

/-- A side of RCPY. -/
def remoteSide (space addr : Nat) : Side := if fabricSide space addr then .fabric addr else sideOf space addr

/-- RCPY in one thread: a put or a get; only the local side is checked and locked. -/
def rcpyWord (ch : BitVec 4) (a b : Reg) (c : Ctx) (_mark op : Nat) (s : State) : Lane :=
  let o := (c.t.rd a).toNat
  let base := c.descFails o 64 64 ++ c.hurdleOperand b
  if (c.descFails o 64 64).isEmpty then
    let f := copyDesc (s.teamRead c.team o 64)
    let src : Hull := { side := if f.sspace ≤ 1 then remoteSide f.sspace f.src else .none, n := f.rows, stride := f.sstride, row := f.rowBytes, write := false }
    let dst : Hull := { side := if f.dspace ≤ 1 then remoteSide f.dspace f.dst else .none, n := f.rows, stride := f.dstride, row := f.rowBytes, write := true }
    let shape := f.ok .cpy c.scratchSize && f.sspace ≤ 1 && f.dspace ≤ 1 && (fabricSide f.sspace f.src != fabricSide f.dspace f.dst)
    Lane.check (base ++ when (!shape) (Cause.permission.at_ o) ++ c.progFails f.prog
        ++ (if f.sized then s.rangeChecks c [src, dst] else []) ++ s.brokenFails c ch.toNat) <|
      if s.loadsHeld c.t.ref || s.locksFull c [src] || !s.channelTakes c ch.toNat op ([src, dst].flatMap (s.hullDies c)) then .hold 0 (s.channelFull c ch.toNat ([src, dst].flatMap (s.hullDies c)))
      else
        let e := c.engineOf op .rcpy ch.toNat src.side dst.side f.rows f.rowBytes (progOf f.prog) (c.hurdleOf b)
        .pass (s.register c { e with sstride := f.sstride, dstride := f.dstride } [src, dst])
  else .fail base

/-- RCPY. -/
def execRcpy (l ch : BitVec 4) (a b : Reg) (s : State) : Host.Outcome State Fault Refusal := s.long (.rcpy l ch a b) (rcpyWord ch a b)

/-! ## RMC (R266) -/

/-- The slots a mask names that the context's die map does not hold, and those it holds. -/
def State.mapSlots (s : State) (asid mask : Nat) : List Nat × List (DieId × Nat) :=
  let named := (List.range 64).filter mask.testBit
  let find (i : Nat) := s.dieMap.find? fun x => x.asid = asid && x.slot = i
  (named.filter fun i => (find i).isNone, named.filterMap fun i => (find i).map fun x => (x.at_, x.base))

/-- RMC in one thread. -/
def rmcWord (ch : BitVec 4) (a b : Reg) (c : Ctx) (_mark op : Nat) (s : State) : Lane :=
  let o := (c.t.rd a).toNat
  let base := c.descFails o 64 64 ++ c.hurdleOperand b ++ s.brokenFails c ch.toNat
  if (c.descFails o 64 64).isEmpty then
    let bs := s.teamRead c.team o 64
    let src := fld bs 0 8
    let n := fld bs 0x18 4
    let space := fld bs 0x1C 1
    let prog := fld bs 0x20 4
    let slots := s.mapSlots c.asid (fld bs 8 8)
    let h : Hull := { side := if space ≤ 1 then sideOf space src else .none, n := 1, stride := 0, row := n, write := false }
    let sized := 1 ≤ n && n ≤ 1048576
    Lane.check (base ++ when (!(sized && space ≤ 1 && sideFits space src && zeroField bs 0x1D 3 && zeroField bs 0x24 28)) (Cause.permission.at_ o)
        ++ c.progFails prog ++ (if sized then s.rangeChecks c [h] else [])
        ++ (match slots.1 with | i :: _ => [Cause.multicastMask.at_ i] | [] => [])) <|
      if s.loadsHeld c.t.ref || s.locksFull c [h] || !s.channelTakes c ch.toNat op (s.hullDies c h ++ slots.2.map (·.1)) then .hold 0 (s.channelFull c ch.toNat (s.hullDies c h ++ slots.2.map (·.1)))
      else
        let e := c.engineOf op (.rmc slots.2 (fld bs 0x10 8)) ch.toNat h.side .none slots.2.length n (progOf prog) (c.hurdleOf b)
        if slots.2.isEmpty then .pass ((s.settleLoads c.t.ref).writeProgress e 0 0 0) else .pass (s.register c e [h] true)
  else .fail base

/-- RMC. -/
def execRmc (l ch : BitVec 4) (a b : Reg) (s : State) : Host.Outcome State Fault Refusal := s.long (.rmc l ch a b) (rmcWord ch a b)

/-! ## RRED (R267) -/

/-- Bytes of an element of a reduction operation. -/
def rredElem (rop : Nat) : Nat := if rop = 1 then 8 else 4

/-- RRED in one thread. -/
def rredWord (ch : BitVec 4) (a b : Reg) (c : Ctx) (_mark op : Nat) (s : State) : Lane :=
  let o := (c.t.rd a).toNat
  let base := c.descFails o 64 64 ++ c.hurdleOperand b ++ s.brokenFails c ch.toNat
  if (c.descFails o 64 64).isEmpty then
    let bs := s.teamRead c.team o 64
    let ncon := fld bs 8 2
    let index := fld bs 0xA 2
    let rop := fld bs 0xC 1
    let space := fld bs 0xD 1
    let elems := fld bs 0xE 2
    let timeout := fld bs 0x20 4
    let prog := fld bs 0x28 4
    let n := elems * rredElem rop
    let src : Hull := { side := if space ≤ 1 then sideOf space (fld bs 0x10 8) else .none, n := 1, stride := 0, row := n, write := false }
    let dst : Hull := { side := .global (fld bs 0x18 8), n := 1, stride := 0, row := n, write := true }
    let sized := rop ≤ 9 && 1 ≤ elems && n ≤ 4096
    let shape := sized && space ≤ 1 && sideFits space (fld bs 0x10 8) && 1 ≤ ncon && ncon ≤ 4096 && index < ncon && 1 ≤ timeout && timeout ≤ 1000000
      && zeroField bs 0x24 4 && zeroField bs 0x2C 20
    Lane.check (base ++ when (!shape) (Cause.permission.at_ o) ++ c.progFails prog
        ++ (if sized then s.rangeChecks c [src, dst] ++ c.selfOverlap [src] dst o else [])) <|
      let con : Contribution := { asid := c.asid, coll := BitVec.ofNat 32 (fld bs 0 4), gen := BitVec.ofNat 32 (fld bs 4 4), ncon := ncon, index := index,
                                    rop := rop, elems := elems, timeout := timeout, dev := s.boot.device, op := op, data := [] }
      if s.loadsHeld c.t.ref || s.locksFull c [src, dst] || !s.channelTakes c ch.toNat op (s.switchDie con :: [src, dst].flatMap (s.hullDies c)) then .hold 0 (s.channelFull c ch.toNat (s.switchDie con :: [src, dst].flatMap (s.hullDies c)))
      else
        .pass (s.register c (c.engineOf op (.rred con) ch.toNat src.side dst.side 1 n (progOf prog) (c.hurdleOf b)) [src, dst] true)
  else .fail base

/-- RRED. -/
def execRred (l ch : BitVec 4) (a b : Reg) (s : State) : Host.Outcome State Fault Refusal := s.long (.rred l ch a b) (rredWord ch a b)

end Sys2Proof.Machine
end

