-- ==== Sys2Proof/Machine/Flags.lean ====
section
/-! DEFINITION. The conditions of the compares and how a compare meets the old predicate (06, ICMP, ICMPI, FCMP, DCMP). -/

namespace Sys2Proof.Machine

/-- Integer conditions, codes 0 to 9 (06, Conditions). -/
def intCond (c : IntCond) (a b : W32) : Bool :=
  match c with
  | .eq => a == b
  | .ne => a != b
  | .lt => a.slt b
  | .le => a.sle b
  | .gt => b.slt a
  | .ge => b.sle a
  | .ltu => a.ult b
  | .leu => a.ule b
  | .gtu => b.ult a
  | .geu => b.ule a

/-- FP conditions, codes 0 to 7, on words of a format (06, FP compare conditions): −0 equals +0. -/
def fpCond (f : Fmt) (c : FpCond) (a b : Nat) : Bool :=
  match c with
  | .eq => f.ordered a b && f.cmpKey a == f.cmpKey b
  | .ne => !f.ordered a b || f.cmpKey a != f.cmpKey b
  | .lt => f.ordered a b && decide (f.cmpKey a < f.cmpKey b)
  | .le => f.ordered a b && decide (f.cmpKey a ≤ f.cmpKey b)
  | .gt => f.ordered a b && decide (f.cmpKey b < f.cmpKey a)
  | .ge => f.ordered a b && decide (f.cmpKey b ≤ f.cmpKey a)
  | .unord => !f.ordered a b
  | .ord => f.ordered a b

/-- Combine 0 to 3: the new predicate from the compare and the old one. -/
def combine (m : Combine) (c old : Bool) : Bool :=
  match m with
  | .set => c
  | .and => old && c
  | .or => old || c
  | .xor => old ^^ c

end Sys2Proof.Machine
end

