-- ==== Sys2Proof/Machine/Integer.lean ====
section
/-! DEFINITION. The integer and predicate words and the special registers (06, R95 to R99, R30, R31). Every word reads its sources before it writes (R96);
wrapping is modulo 2^32. -/

namespace Sys2Proof.Machine

/-! ## Shared shapes -/

/-- A word that writes one register. -/
def State.write1 (s : State) (i : Instr) (d : Reg) (v : Thread → W32) : Host.Outcome State Fault Refusal :=
  s.plain i fun _ t => t.wr d (v t)

/-- A word that writes a pair. -/
def State.write2 (s : State) (i : Instr) (d : Reg) (v : Thread → W64) : Host.Outcome State Fault Refusal :=
  s.plain i fun _ t => t.wr64 d (v t)

/-- A word that writes a predicate. -/
def State.writeP (s : State) (i : Instr) (p : BitVec 3) (v : Thread → Bool) : Host.Outcome State Fault Refusal :=
  s.plain i fun _ t => t.setPred p (v t)

/-- Bits [63:32] of a product of two words, both signed or both unsigned (IMULH, IMULHU). -/
def mulHigh (signed : Bool) (x y : W32) : W32 :=
  let wide (v : W32) : W64 := if signed then v.signExtend 64 else v.zeroExtend 64
  (wide x * wide y).extractLsb' 32 32

/-- Position and used width of a bit field (R99). -/
def fieldPos (b : W32) : Nat := b.toNat % 32
/-- The width used: the requested width, at most 32, cut at bit 31 (R99). -/
def fieldWidth (b : W32) : Nat := min (min (b.toNat / 256 % 64) 32) (32 - fieldPos b)

/-- BFX and BFXS (R99). -/
def fieldOf (signed : Bool) (a b : W32) : W32 :=
  let w := fieldWidth b
  let f := a.toNat / 2 ^ fieldPos b % 2 ^ w
  if w = 0 then 0
  else if signed && f.testBit (w - 1) then BitVec.ofNat 32 (f + 2 ^ 32 - 2 ^ w)
  else BitVec.ofNat 32 f

/-- BFI (R99): the field of d replaced by the low bits of a. -/
def insertField (a b d : W32) : W32 :=
  let w := fieldWidth b
  let p := fieldPos b
  if w = 0 then d
  else BitVec.ofNat 32 (d.toNat / 2 ^ (p + w) * 2 ^ (p + w) + a.toNat % 2 ^ w * 2 ^ p + d.toNat % 2 ^ p)

/-- Leading zero bits of a word, 32 for zero (CLZ). -/
def leadingZeros (x : W32) : Nat := if x = 0 then 32 else 31 - Nat.log2 x.toNat

/-- Set bits among the lowest n. -/
def popCount (x : Nat) : Nat → Nat
  | 0 => 0
  | n + 1 => (if x.testBit n then 1 else 0) + popCount x n

/-! ## INTA (R98) -/

/-- IADD. -/
def execIadd (d a b : Reg) (s : State) : Host.Outcome State Fault Refusal :=
  s.write1 (.iadd d a b) d fun t => let x := t.rd a; let y := t.rd b; x + y

/-- ISUB. -/
def execIsub (d a b : Reg) (s : State) : Host.Outcome State Fault Refusal :=
  s.write1 (.isub d a b) d fun t => let x := t.rd a; let y := t.rd b; x - y

/-- IMUL: the low word of the product. -/
def execImul (d a b : Reg) (s : State) : Host.Outcome State Fault Refusal :=
  s.write1 (.imul d a b) d fun t => let x := t.rd a; let y := t.rd b; x * y

/-- IMULH. -/
def execImulh (d a b : Reg) (s : State) : Host.Outcome State Fault Refusal :=
  s.write1 (.imulh d a b) d fun t => let x := t.rd a; let y := t.rd b; mulHigh true x y

/-- IMULHU. -/
def execImulhu (d a b : Reg) (s : State) : Host.Outcome State Fault Refusal :=
  s.write1 (.imulhu d a b) d fun t => let x := t.rd a; let y := t.rd b; mulHigh false x y

/-- IMIN. -/
def execImin (d a b : Reg) (s : State) : Host.Outcome State Fault Refusal :=
  s.write1 (.imin d a b) d fun t => let x := t.rd a; let y := t.rd b; if x.slt y then x else y

/-- IMAX. -/
def execImax (d a b : Reg) (s : State) : Host.Outcome State Fault Refusal :=
  s.write1 (.imax d a b) d fun t => let x := t.rd a; let y := t.rd b; if x.slt y then y else x

/-- UMIN. -/
def execUmin (d a b : Reg) (s : State) : Host.Outcome State Fault Refusal :=
  s.write1 (.umin d a b) d fun t => let x := t.rd a; let y := t.rd b; if x.ult y then x else y

/-- UMAX. -/
def execUmax (d a b : Reg) (s : State) : Host.Outcome State Fault Refusal :=
  s.write1 (.umax d a b) d fun t => let x := t.rd a; let y := t.rd b; if x.ult y then y else x

/-- AND. -/
def execAnd (d a b : Reg) (s : State) : Host.Outcome State Fault Refusal :=
  s.write1 (.and d a b) d fun t => let x := t.rd a; let y := t.rd b; x &&& y

/-- OR. -/
def execOr (d a b : Reg) (s : State) : Host.Outcome State Fault Refusal :=
  s.write1 (.or d a b) d fun t => let x := t.rd a; let y := t.rd b; x ||| y

/-- XOR. -/
def execXor (d a b : Reg) (s : State) : Host.Outcome State Fault Refusal :=
  s.write1 (.xor d a b) d fun t => let x := t.rd a; let y := t.rd b; x ^^^ y

/-- ANDN. -/
def execAndn (d a b : Reg) (s : State) : Host.Outcome State Fault Refusal :=
  s.write1 (.andn d a b) d fun t => let x := t.rd a; let y := t.rd b; x &&& ~~~y

/-- SHL: an amount of 32 or more gives 0. -/
def execShl (d a b : Reg) (s : State) : Host.Outcome State Fault Refusal :=
  s.write1 (.shl d a b) d fun t => let x := t.rd a; let y := t.rd b; if 32 ≤ y.toNat then 0 else x <<< y.toNat

/-- SHR. -/
def execShr (d a b : Reg) (s : State) : Host.Outcome State Fault Refusal :=
  s.write1 (.shr d a b) d fun t => let x := t.rd a; let y := t.rd b; x >>> y.toNat

/-- SAR: copies of bit 31 come in. -/
def execSar (d a b : Reg) (s : State) : Host.Outcome State Fault Refusal :=
  s.write1 (.sar d a b) d fun t => let x := t.rd a; let y := t.rd b; x.sshiftRight y.toNat

/-- ROTL. -/
def execRotl (d a b : Reg) (s : State) : Host.Outcome State Fault Refusal :=
  s.write1 (.rotl d a b) d fun t => let x := t.rd a; let y := t.rd b; x.rotateLeft (y.toNat % 32)

/-- BFX (R99). -/
def execBfx (d a b : Reg) (s : State) : Host.Outcome State Fault Refusal :=
  s.write1 (.bfx d a b) d fun t => let x := t.rd a; let y := t.rd b; fieldOf false x y

/-- BFXS (R99). -/
def execBfxs (d a b : Reg) (s : State) : Host.Outcome State Fault Refusal :=
  s.write1 (.bfxs d a b) d fun t => let x := t.rd a; let y := t.rd b; fieldOf true x y

/-- LEA.1. -/
def execLea1 (d a b : Reg) (s : State) : Host.Outcome State Fault Refusal :=
  s.write1 (.lea1 d a b) d fun t => let x := t.rd a; let y := t.rd b; x + (y <<< 1)

/-- LEA.2. -/
def execLea2 (d a b : Reg) (s : State) : Host.Outcome State Fault Refusal :=
  s.write1 (.lea2 d a b) d fun t => let x := t.rd a; let y := t.rd b; x + (y <<< 2)

/-- LEA.3. -/
def execLea3 (d a b : Reg) (s : State) : Host.Outcome State Fault Refusal :=
  s.write1 (.lea3 d a b) d fun t => let x := t.rd a; let y := t.rd b; x + (y <<< 3)

/-- IMAC. -/
def execImac (d a b : Reg) (s : State) : Host.Outcome State Fault Refusal :=
  s.write1 (.imac d a b) d fun t => let x := t.rd a; let y := t.rd b; let z := t.rd d; x * y + z

/-- BFI (R99). -/
def execBfi (d a b : Reg) (s : State) : Host.Outcome State Fault Refusal :=
  s.write1 (.bfi d a b) d fun t => let x := t.rd a; let y := t.rd b; let z := t.rd d; insertField x y z

/-- MULW: the 64-bit unsigned product. -/
def execMulw (d a b : Reg) (s : State) : Host.Outcome State Fault Refusal :=
  s.write2 (.mulw d a b) d fun t => (t.rd a).zeroExtend 64 * (t.rd b).zeroExtend 64

/-- ADD64. -/
def execAdd64 (d a b : Reg) (s : State) : Host.Outcome State Fault Refusal := s.write2 (.add64 d a b) d fun t => t.rd64 a + t.rd64 b

/-- SUB64. -/
def execSub64 (d a b : Reg) (s : State) : Host.Outcome State Fault Refusal := s.write2 (.sub64 d a b) d fun t => t.rd64 a - t.rd64 b

/-- SHL64: an amount of 64 or more gives 0. -/
def execShl64 (d a b : Reg) (s : State) : Host.Outcome State Fault Refusal := s.write2 (.shl64 d a b) d fun t => if 64 ≤ (t.rd b).toNat then 0 else t.rd64 a <<< (t.rd b).toNat

/-- SHR64. -/
def execShr64 (d a b : Reg) (s : State) : Host.Outcome State Fault Refusal := s.write2 (.shr64 d a b) d fun t => t.rd64 a >>> (t.rd b).toNat

/-! ## INTU -/

/-- MOV. -/
def execMov (d a : Reg) (s : State) : Host.Outcome State Fault Refusal := s.write1 (.mov d a) d fun t => let x := t.rd a; x

/-- NOT. -/
def execNot (d a : Reg) (s : State) : Host.Outcome State Fault Refusal := s.write1 (.not d a) d fun t => let x := t.rd a; ~~~x

/-- INEG. -/
def execIneg (d a : Reg) (s : State) : Host.Outcome State Fault Refusal := s.write1 (.ineg d a) d fun t => let x := t.rd a; 0 - x

/-- IABS, wrapping. -/
def execIabs (d a : Reg) (s : State) : Host.Outcome State Fault Refusal := s.write1 (.iabs d a) d fun t => let x := t.rd a; if x.slt 0 then 0 - x else x

/-- CLZ. -/
def execClz (d a : Reg) (s : State) : Host.Outcome State Fault Refusal := s.write1 (.clz d a) d fun t => let x := t.rd a; BitVec.ofNat 32 (leadingZeros x)

/-- POPC. -/
def execPopc (d a : Reg) (s : State) : Host.Outcome State Fault Refusal := s.write1 (.popc d a) d fun t => let x := t.rd a; BitVec.ofNat 32 (popCount x.toNat 32)

/-- BREV. -/
def execBrev (d a : Reg) (s : State) : Host.Outcome State Fault Refusal := s.write1 (.brev d a) d fun t => let x := t.rd a; x.reverse

/-- PTOV: p0 to p6 in bits 0 to 6, p7 reads 1. -/
def execPtov (d : Reg) (s : State) : Host.Outcome State Fault Refusal := s.write1 (.ptov d) d fun t => (1#1 ++ t.preds).zeroExtend 32

/-- VTOP: bits 0 to 6 into p0 to p6. -/
def execVtop (a : Reg) (s : State) : Host.Outcome State Fault Refusal :=
  s.plain (.vtop a) fun _ t => { t with preds := (t.rd a).extractLsb' 0 7 }

/-! ## Compares, selection, predicates -/

/-- ICMP. -/
def execIcmp (c : IntCond) (m : Combine) (p : BitVec 3) (a b : Reg) (s : State) : Host.Outcome State Fault Refusal :=
  s.writeP (.icmp c m p a b) p fun t => combine m (intCond c (t.rd a) (t.rd b)) (t.pred p)

/-- ICMPI: it always sets the predicate. -/
def execIcmpi (c : IntCond) (p : BitVec 3) (a : Reg) (imm : BitVec 12) (s : State) : Host.Outcome State Fault Refusal :=
  s.writeP (.icmpi c p a imm) p fun t => intCond c (t.rd a) (imm.signExtend 32)

/-- SEL. -/
def execSel (p : BitVec 3) (neg : Bool) (d a b : Reg) (s : State) : Host.Outcome State Fault Refusal :=
  s.write1 (.sel p neg d a b) d fun t => if t.predN p neg then t.rd a else t.rd b

/-- PAND. -/
def execPand (d a b : BitVec 3) (s : State) : Host.Outcome State Fault Refusal := s.writeP (.pand d a b) d fun t => t.pred a && t.pred b

/-- POR. -/
def execPor (d a b : BitVec 3) (s : State) : Host.Outcome State Fault Refusal := s.writeP (.por d a b) d fun t => t.pred a || t.pred b

/-- PXOR. -/
def execPxor (d a b : BitVec 3) (s : State) : Host.Outcome State Fault Refusal := s.writeP (.pxor d a b) d fun t => t.pred a ^^ t.pred b

/-- PNOT. -/
def execPnot (d a : BitVec 3) (s : State) : Host.Outcome State Fault Refusal := s.writeP (.pnot d a) d fun t => !t.pred a

/-! ## Immediate forms and constants -/

/-- IADDI. -/
def execIaddi (d a : Reg) (imm : BitVec 12) (s : State) : Host.Outcome State Fault Refusal :=
  s.write1 (.iaddi d a imm) d fun t => let x := t.rd a; x + imm.signExtend 32

/-- ANDI. -/
def execAndi (d a : Reg) (imm : BitVec 12) (s : State) : Host.Outcome State Fault Refusal :=
  s.write1 (.andi d a imm) d fun t => let x := t.rd a; x &&& imm.zeroExtend 32

/-- ORI. -/
def execOri (d a : Reg) (imm : BitVec 12) (s : State) : Host.Outcome State Fault Refusal :=
  s.write1 (.ori d a imm) d fun t => let x := t.rd a; x ||| imm.zeroExtend 32

/-- XORI. -/
def execXori (d a : Reg) (imm : BitVec 12) (s : State) : Host.Outcome State Fault Refusal :=
  s.write1 (.xori d a imm) d fun t => let x := t.rd a; x ^^^ imm.zeroExtend 32

/-- SHLI. -/
def execShli (d a : Reg) (n : BitVec 5) (s : State) : Host.Outcome State Fault Refusal :=
  s.write1 (.shli d a n) d fun t => let x := t.rd a; x <<< n.toNat

/-- SHRI. -/
def execShri (d a : Reg) (n : BitVec 5) (s : State) : Host.Outcome State Fault Refusal :=
  s.write1 (.shri d a n) d fun t => let x := t.rd a; x >>> n.toNat

/-- SARI. -/
def execSari (d a : Reg) (n : BitVec 5) (s : State) : Host.Outcome State Fault Refusal :=
  s.write1 (.sari d a n) d fun t => let x := t.rd a; x.sshiftRight n.toNat

/-- ROTLI. -/
def execRotli (d a : Reg) (n : BitVec 5) (s : State) : Host.Outcome State Fault Refusal :=
  s.write1 (.rotli d a n) d fun t => let x := t.rd a; x.rotateLeft n.toNat

/-- MOVI. -/
def execMovi (d : Reg) (imm : BitVec 19) (s : State) : Host.Outcome State Fault Refusal := s.write1 (.movi d imm) d fun _ => imm.signExtend 32

/-- MOVHI: bits [31:13] replaced, [12:0] kept. -/
def execMovhi (d : Reg) (imm : BitVec 19) (s : State) : Host.Outcome State Fault Refusal :=
  s.write1 (.movhi d imm) d fun t => imm ++ (t.rd d).extractLsb' 0 13

/-! ## Special registers (R30, R31) and kernel parameters (R29, R52) -/

/-- The value of a special register. -/
def specialValue (s : State) (c : Ctx) (r : SReg) : W32 :=
  let trap (f : TrapState → Nat) : W32 := match c.t.trap with | some m => BitVec.ofNat 32 (f m) | none => 0
  match r with
  | .tid => BitVec.ofNat 32 c.t.ref.tid
  | .team => BitVec.ofNat 32 c.t.ref.team
  | .teamsize => BitVec.ofNat 32 c.kernel.teamSize
  | .grid => BitVec.ofNat 32 c.t.ref.grid
  | .depth => BitVec.ofNat 32 c.grid.depth
  | .cohort => BitVec.ofNat 32 c.t.cohort
  | .clane => BitVec.ofNat 32 c.t.lane
  | .core => BitVec.ofNat 32 c.core
  | .cluster => BitVec.ofNat 32 c.cluster
  | .die => BitVec.ofNat 32 c.die
  | .device => BitVec.ofNat 32 s.boot.device
  | .attempt => BitVec.ofNat 32 c.team.attempt
  | .lastcause => BitVec.ofNat 32 c.team.lastCause
  | .cycleLo => BitVec.ofNat 32 (s.clockOf c.die)
  | .cycleHi => c.t.latch
  | .wbase => BitVec.ofNat 32 c.t.wbase
  | .calldepth => BitVec.ofNat 32 c.t.stack.length
  | .tcause => trap (·.cause)
  | .tpc => trap (·.tpc)
  | .taddrLo => trap (·.taddr)
  | .taddrHi => trap fun m => m.taddr / 2 ^ 32
  | .tinfo => trap fun m => if m.tinfo then 1 else 0
  | .scratch => BitVec.ofNat 32 c.team.scratch
  | .partition => BitVec.ofNat 32 (c.t.cohort % 8)

/-- SRD: reading sr.cycle.lo latches the high word. -/
def execSrd (d : Reg) (r : SReg) (s : State) : Host.Outcome State Fault Refusal :=
  s.plain (.srd d r) fun c t =>
    let t1 := t.wr d (specialValue s c r)
    if r = .cycleLo then { t1 with latch := BitVec.ofNat 32 (s.clockOf c.die / 2 ^ 32) } else t1

/-- SWR to sr.tinfo; outside trap mode it is discarded. -/
def execSwr (a : Reg) (s : State) : Host.Outcome State Fault Refusal :=
  s.plain (.swr a) fun _ t => { t with trap := t.trap.map fun m => { m with tinfo := (t.rd a).getLsbD 0 } }

/-- MOVK: the parameter store, 0 beyond its size. -/
def execMovk (d : Reg) (k : BitVec 6) (s : State) : Host.Outcome State Fault Refusal :=
  s.plain (.movk d k) fun c t => t.wr d (BitVec.ofNat 32 (fld c.grid.params (4 * k.toNat) 4))

end Sys2Proof.Machine
end

