-- ==== Sys2Proof/Machine/Narrow.lean ====
section
/-! DEFINITION. The element formats (R133 to R137) and the NARROW words (R138 to R142). -/

namespace Sys2Proof.Machine

/-! ## Formats -/

/-- E4M3 (R134): the fields of a format, whose top exponent holds numbers but for one NaN code. -/
def e4m3 : Fmt := ⟨4, 3⟩
/-- E5M2 (R134). -/
def e5m2 : Fmt := ⟨5, 2⟩

/-- The value of an E4M3 code. -/
def e4m3Val (w : Nat) : FVal :=
  let g := w % 128
  if g = 0x7F then .nan
  else if g < 8 then .num (w.testBit 7) g (-9)
  else .num (w.testBit 7) (g % 8 + 8) ((g / 8 : Nat) - 1 + e4m3.qmin)

/-- The E4M3 code nearest to a value (R139): beyond 448 it saturates. -/
def toE4m3 : FVal → Nat
  | .nan => 0x7F
  | .inf neg => e4m3.signed neg 0x7E
  | .num neg m e => e4m3.signed neg (min (e4m3.roundWide m e) 0x7E)

/-- The magnitudes of E2M1 codes 0 to 7, in halves (R135). -/
def e2m1Half (c : Nat) : Nat := [0, 1, 2, 3, 4, 6, 8, 12].getD c 0

/-- The value of an E2M1 code that is no escape. -/
def e2m1Val (c : Nat) : FVal := .num (c.testBit 3) (e2m1Half (c % 8)) (-1)

/-- The E2M1 code of a magnitude m · 2^e in quarters, by the table of R140. -/
def e2m1Code (x : Nat) (exact : Bool) : Nat :=
  let beyond (k : Nat) : Bool := k < x || (x = k && !exact)
  if !beyond 1 then 0
  else if x < 3 then 1
  else if !beyond 5 then 2
  else if x < 7 then 3
  else if !beyond 10 then 4
  else if x < 14 then 5
  else if !beyond 20 then 6
  else 7

/-- PACK4 of one FP32 word (R140). -/
def toE2m1 (w : Nat) : Nat :=
  if fp32.isSub w then 0
  else match fp32.val w with
    | .nan => 0
    | .inf neg => if neg then 15 else 7
    | .num neg m e =>
      let q : Nat := if -2 ≤ e then m * 2 ^ (e + 2).toNat else m / 2 ^ (-2 - e).toNat
      let exact : Bool := -2 ≤ e || m % 2 ^ (-2 - e).toNat = 0
      let c := e2m1Code q exact
      if c = 0 then 0 else if neg then 8 + c else c

/-- The residues of an integer as a RES16 element (R137). -/
def resEncode (x : Int) : Nat := (x % 31).toNat + 32 * (x % 32).toNat + 1024 * (x % 33).toNat

/-- A RES16 element is poison (R137). -/
def resPoison (w : Nat) : Bool := w % 32 == 31 || decide (33 ≤ w / 1024 % 64)

/-- The integer a RES16 element holds (R137). -/
def resDecode (w : Nat) : Int :=
  let x := (16896 * (w % 32) + 31713 * (w / 32 % 32) + 16864 * (w / 1024 % 64)) % 32736
  if 16368 ≤ x then (x : Int) - 32736 else x

/-- The value of an E8M0 scale (R136). -/
def e8m0Val (e : Nat) : FVal := if e = 0xFF then .nan else .num false 1 ((e : Int) - 127)

/-! ## NARROW words -/

/-- Four FP32 registers packed into the bytes of a word. -/
def Thread.pack8 (t : Thread) (f : FVal → Nat) (a b : Reg) : W32 :=
  let c (r : Reg) (k : Nat) : Nat := f (fp32.val (t.rdAt r k).toNat)
  BitVec.ofNat 32 (c a 0 + 256 * c a 1 + 65536 * c b 0 + 16777216 * c b 1)

/-- The bytes of a word as four FP32 words. -/
def unpack8 (f : Nat → FVal) (w : W32) : List W32 := (List.range 4).map fun k => BitVec.ofNat 32 (fp32.round (f (w.toNat / 256 ^ k % 256)))

/-- PACK8.E4M3. -/
def execPack8E4m3 (d a b : Reg) (s : State) : Host.Outcome State Fault Refusal := s.write1 (.pack8E4m3 d a b) d fun t => t.pack8 toE4m3 a b

/-- PACK8.E5M2. -/
def execPack8E5m2 (d a b : Reg) (s : State) : Host.Outcome State Fault Refusal := s.write1 (.pack8E5m2 d a b) d fun t => t.pack8 e5m2.round a b

/-- UNPK8.E4M3. -/
def execUnpk8E4m3 (d a : Reg) (s : State) : Host.Outcome State Fault Refusal :=
  s.plain (.unpk8E4m3 d a) fun _ t => t.wrList d 0 (unpack8 e4m3Val (t.rd a))

/-- UNPK8.E5M2. -/
def execUnpk8E5m2 (d a : Reg) (s : State) : Host.Outcome State Fault Refusal :=
  s.plain (.unpk8E5m2 d a) fun _ t => t.wrList d 0 (unpack8 e5m2.val (t.rd a))

/-- PACK4 (R140). -/
def execPack4 (d a b : Reg) (s : State) : Host.Outcome State Fault Refusal :=
  s.write1 (.pack4 d a b) d fun t =>
    BitVec.ofNat 32 (((List.range 8).map fun k => toE2m1 (if k < 4 then t.rdAt a k else t.rdAt b (k - 4)).toNat * 16 ^ k).sum)

/-- UNPK4 (R140): an escape gives the escape NaN. -/
def execUnpk4 (d a b : Reg) (s : State) : Host.Outcome State Fault Refusal :=
  s.plain (.unpk4 d a b) fun _ t =>
    let low := if (t.rd b).getLsbD 0 then 4 else 0
    t.wrList d 0 ((List.range 4).map fun k =>
      let c := (t.rd a).toNat / 16 ^ (low + k) % 16
      BitVec.ofNat 32 (if c = 8 then 0x7FD00000 else fp32.round (e2m1Val c)))

/-- RESENC (R141). -/
def execResenc (d a : Reg) (s : State) : Host.Outcome State Fault Refusal :=
  s.write1 (.resenc d a) d fun t => BitVec.ofNat 32 (resEncode (t.rd a).toInt)

/-- RESDEC (R141). -/
def execResdec (d a : Reg) (s : State) : Host.Outcome State Fault Refusal :=
  s.write1 (.resdec d a) d fun t =>
    let w := (t.rd a).toNat % 65536
    if resPoison w then 0x80000000 else BitVec.ofInt 32 (resDecode w)

/-- The scale exponent and its inverse of SCALE8 (R142). -/
def scale8Of (sel m : Nat) : Nat × Nat :=
  if sel = 3 then (0xFF, 0x7FC00000)
  else match fp32.val (fp32.mag m) with
    | .nan | .inf _ => (0xFF, 0x7FC00000)
    | .num _ k e =>
      let emax : Int := [8, 15, 2].getD sel 0
      let x : Int := if k = 0 then 0 else (Nat.log2 k : Int) + e - emax + 127
      let c : Nat := (if x < 0 then 0 else if 254 < x then 254 else x).toNat
      (c, fp32.round (.num false 1 (127 - (c : Int))))

/-- SCALE8. -/
def execScale8 (d a b : Reg) (s : State) : Host.Outcome State Fault Refusal :=
  s.plain (.scale8 d a b) fun _ t =>
    let r := scale8Of ((t.rd b).toNat % 4) (t.rd a).toNat
    t.wr64 d (BitVec.ofNat 32 r.2 ++ BitVec.ofNat 32 r.1)

end Sys2Proof.Machine
end

