-- ==== Sys2Proof/Machine/Buffers.lean ====
section
/-! DEFINITION. Reservations and tiles (R143 to R149) and the OBUF words OBRES, OBREL, ACCCLR, ACCRD (R145 to R149, R163, R164). -/

namespace Sys2Proof.Machine

/-! ## Reservations (R144, R146) -/

/-- The fields of a reservation record as a reservation of a team with a handle to come. -/
def reservationOf (c : Ctx) (handle : Nat) (bs : List Byte) : Reservation :=
  let opt (x : Nat) : Option Nat := if x = 0xFFFFFFFF then none else some x
  { cluster := c.cluster, handle := handle, grid := c.t.ref.grid, team := c.t.ref.team, space := fld bs 0x18 1, base := fld bs 8 8, len := fld bs 0x10 4,
    stride := fld bs 0x14 4, format := fld bs 0x19 1, block := fld bs 0x1A 1, sstride := fld bs 0x1C 4, scaleOff := opt (fld bs 0x20 4),
    oidxOff := opt (fld bs 0x24 4), ovalOff := opt (fld bs 0x28 4), ovalCount := fld bs 0x2C 4, releasing := false }

/-- The range rules of R144. -/
def Reservation.ranged (v : Reservation) : Bool :=
  match v.space with
  | 0 => v.base % 128 = 0 && v.len % 128 = 0 && v.base + v.len ≤ 0x800000
  | 1 => v.base % 64 = 0 && v.len % 64 = 0 && v.base + v.len ≤ 0x40000 && v.stride = 0 && v.sstride = 0
  | 2 => true
  | 3 => v.base < 4 && 1 ≤ v.len && v.base + v.len ≤ 4 && v.stride = 0 && v.sstride = 0 && v.format = 0
  | _ => false

/-- The field rules of R144. -/
def Reservation.ok (v : Reservation) : Bool :=
  let below (x : Option Nat) : Bool := match x with | some o => o < v.len | none => true
  v.ranged && v.format ≤ 7 && (v.block = 0 || v.block = 16 || v.block = 32) && (v.space = 2 || v.base < 2 ^ 32)
    && below v.scaleOff && below v.oidxOff && below v.ovalOff && (match v.ovalOff with | some o => o + 2 * v.ovalCount ≤ v.len | none => true)

/-- Two reservations of a cluster share storage. -/
def Reservation.meets (v w : Reservation) : Bool := v.cluster == w.cluster && v.space == w.space && overlap v.base v.len w.base w.len

/-- The checks of a SPACE 2 range: R109, and each page's translation, or R110 in the aperture (R146). -/
def State.streamFails (s : State) (c : Ctx) (base len : Nat) : List Fail :=
  let bad := Cause.permission.at_ base
  let last := base + (max len 1) - 1
  if 2 ^ 64 ≤ last || !validAddr (BitVec.ofNat 64 base) || !validAddr (BitVec.ofNat 64 last) || isFabric base || isFabric last then [bad]
  else (pageChunks base len).filterMap fun x => match s.resolve c.core c.asid c.system x.1 x.2 .read with
    | .ok _ => none
    | .error f => some f.claiming

/-- The lowest handle of a cluster that is free. -/
def State.freeHandle (s : State) (cluster : Nat) : Option Nat :=
  lowestFree 64 fun h => !(s.reservations.any fun v => v.cluster = cluster && v.handle = h)

/-- OBRES in one thread. -/
def obresWord (a : Reg) (c : Ctx) (_mark _op : Nat) (s : State) : Lane :=
  let o := (c.t.rd a).toNat
  if (c.descFails o 64 64).isEmpty then
    let bs := s.teamRead c.team o 64
    let h := s.freeHandle c.cluster
    let v := reservationOf c (h.getD 0) bs
    let ok := v.ok && zeroField bs 0x1B 1 && zeroField bs 0x34 12
    Lane.check (when (!ok || h.isNone) (Cause.mmaParam.at_ o) ++ (if v.space = 2 then s.streamFails c v.base v.len else [])
        ++ when (v.space ≠ 2 && s.reservations.any v.meets) (Cause.obufOverlap.at_ o)) <|
      if s.loadsHeld c.t.ref then .hold 0 false
      else
        let s1 := ({ s.settleLoads c.t.ref with reservations := s.reservations ++ [v] } : State).zeroReservation v
        .pass ((s1.teamLand c.team o (leBytes v.grid 4 ++ leBytes v.team 4)).teamLand c.team (o + 0x30) (leBytes (2 ^ 31 + v.handle) 4))
  else .fail (c.descFails o 64 64)

/-- OBRES. -/
def execObres (l : BitVec 4) (a : Reg) (s : State) : Host.Outcome State Fault Refusal := s.long (.obres l a) (obresWord a)

/-- A reservation held by the team: its handle on the cluster, not given up. -/
def State.heldReservation (s : State) (c : Ctx) (h : Nat) : Option Reservation :=
  s.reservations.find? fun v => v.cluster = c.cluster && v.handle = h && v.grid = c.t.ref.grid && v.team = c.t.ref.team && !v.releasing

/-- OBREL in one thread (R147). -/
def obrelWord (a : Reg) (c : Ctx) (_mark _op : Nat) (s : State) : Lane :=
  let h := (c.t.rd a).toNat
  match s.heldReservation c h with
  | some v => .pass ({ s with reservations := updWhere (fun w => w = v) (fun w => { w with releasing := true }) s.reservations } : State).freeReservations
  | none => .fail [Cause.mmaParam.at_ h]

/-- OBREL. -/
def execObrel (l : BitVec 4) (a : Reg) (s : State) : Host.Outcome State Fault Refusal := s.long (.obrel l a) (obrelWord a)

/-! ## The order of operations on a tile (R153) -/

/-- A tile inside a SPACE 3 reservation the team holds. -/
def State.tileHeld (s : State) (c : Ctx) (tile : Nat) : Bool :=
  tile ≤ 3 && s.reservations.any fun v => v.cluster = c.cluster && v.space = 3 && v.grid = c.t.ref.grid && v.team = c.t.ref.team && !v.releasing
    && v.base ≤ tile && tile < v.base + v.len

/-- ACCCLR in one thread: registered, and performed at its turn. -/
def accclrWord (a : Reg) (c : Ctx) (_mark op : Nat) (s : State) : Lane :=
  let tile := (c.t.rd a).toNat
  Lane.check (when (!s.tileHeld c tile) (Cause.mmaParam.at_ tile)) <|
    .pass (({ s with engines := s.engines ++ [c.engineOf op (.accclr tile) 0 .none .none 0 0 none none] } : State).settleTiles c.cluster)

/-- ACCCLR. -/
def execAccclr (l : BitVec 4) (a : Reg) (s : State) : Host.Outcome State Fault Refusal := s.long (.accclr l a) (accclrWord a)

/-! ## Reading out (R163, R164) -/

/-- The kind of a format's tiles (R149). -/
def kindOfFormat (f : Nat) : TileKind :=
  match f with
  | 5 => .res16
  | 6 => .int32
  | 7 => .fp64
  | _ => .fp32

/-- The kind a tile is expected to have once every operation registered so far has run (R164). -/
def State.expectedKind (s : State) (cluster tile : Nat) : TileKind :=
  let ms := (s.mmas.filter fun m => m.cluster = cluster && m.tile = tile).map fun m => (m.op, kindOfFormat m.aFmt)
  let cs := (s.engines.filter fun e => e.cluster = cluster && e.kind = .accclr tile).map fun e => (e.op, TileKind.cleared)
  ((ms ++ cs).foldl (fun (best : Option (Nat × TileKind)) x => match best with
    | some y => if y.1 < x.1 then some x else best
    | none => some x) none).elim (s.tileKind cluster tile) (·.2)

/-- Bytes of an output element. -/
def readoutSize (mode : Nat) (k : TileKind) : Nat :=
  match mode with
  | 0 => if k = .fp64 then 8 else 4
  | 1 | 2 => 2
  | 3 | 4 => 1
  | _ => 4

/-- ACCRD in one thread. -/
def accrdWord (ch : BitVec 4) (a b : Reg) (c : Ctx) (_mark op : Nat) (s : State) : Lane :=
  let o := (c.t.rd a).toNat
  let base := c.descFails o 32 32 ++ c.hurdleOperand b
  if (c.descFails o 32 32).isEmpty then
    let bs := s.teamRead c.team o 32
    let dst := fld bs 0 8
    let stride := fld bs 8 4
    let tile := fld bs 0xC 1
    let space := fld bs 0xD 1
    let mode := fld bs 0xE 1
    let shift := fld bs 0xF 1
    let scale := fld bs 0x10 4
    let row0 := fld bs 0x14 2
    let rows := fld bs 0x16 2
    let col0 := fld bs 0x18 2
    let cols := fld bs 0x1A 2
    let k := s.expectedKind c.cluster tile
    let n := cols * readoutSize mode k
    let sized := space ≤ 1 && sideFits space dst && mode ≤ 5 && tile ≤ 3 && 1 ≤ rows && row0 + rows ≤ 256 && 1 ≤ cols
      && col0 + cols ≤ (if k = .fp64 then 64 else 128)
    let ok := sized && (rows = 1 || n ≤ stride) && (if mode = 5 then shift ≤ 15 else shift = 0)
      && (1 ≤ mode && mode ≤ 4 || scale = 0) && zeroField bs 0x1C 4 && s.tileHeld c tile
    let h : Hull := { side := sideOf space dst, n := rows, stride := stride, row := n, write := true }
    let first : Hull := { side := sideOf space dst, n := 1, stride := 0, row := 1, write := true }
    Lane.check (base ++ when (!ok) (Cause.mmaParam.at_ o) ++ (if !sized && space ≤ 1 && sideFits space dst then s.rangeChecks c [first] else [])
        ++ (if sized then s.rangeChecks c [h] ++ (if s.hullsRemote c [h] then s.brokenFails c ch.toNat else []) else [])) <|
      if s.loadsHeld c.t.ref || s.locksFull c [h] || !s.channelTakes c ch.toNat op (s.hullDies c h) then .hold 0 (s.channelFull c ch.toNat (s.hullDies c h))
      else
        let e := c.engineOf op (.accrd tile mode shift row0 col0 cols (BitVec.ofNat 32 scale) k) ch.toNat .none h.side rows n none (c.hurdleOf b)
        .pass (s.register c { e with dstride := stride } [h])
  else .fail base

/-- ACCRD. -/
def execAccrd (l ch : BitVec 4) (a b : Reg) (s : State) : Host.Outcome State Fault Refusal := s.long (.accrd l ch a b) (accrdWord ch a b)

/-- A kind a mode can read. -/
def modeReads (mode : Nat) (k : TileKind) : Bool :=
  match mode with
  | 0 => true
  | 5 => k = .res16 || k = .cleared
  | _ => k = .fp32 || k = .cleared

/-- ACCRD_READOUT (subject: operation): at its turn the readout begins, or it is a kind mismatch: nothing written, ERR on its hurdle. -/
def execAccrdReadout (s : State) : Host.Outcome State Fault Refusal :=
  finish s (match s.engine? (s.subj 0) with
    | none => s
    | some e =>
      match e.kind with
      | .accrd tile mode _ _ _ _ _ expect =>
        if e.started || !s.granted e.op || !s.tileFirst e.cluster tile e.op then s
        else
          let k := s.tileKind e.cluster tile
          if k = expect && modeReads mode k then s.putEngine { e with started := true }
          else ((s.retireEngine e).engineCredit e 0 2).engineChan e
      | _ => s)

/-- A 32-bit word of a tile. -/
def State.tileWord (s : State) (cluster tile i w : Nat) : Nat := leNat (s.rd (tileKey cluster tile (i * 512 + 4 * w)) 4)

/-- An element of a tile converted (R164). -/
def readoutElement (mode shift : Nat) (scale : W32) (w : Nat) : List Byte :=
  let y := (fp32.val w).mul (fp32.val scale.toNat)
  match mode with
  | 1 => leBytes (bf16.round y) 2
  | 2 => leBytes (fp16.round y) 2
  | 3 => leBytes (toE4m3 y) 1
  | 4 => leBytes (e5m2.round y) 1
  | 5 => leBytes (if w.testBit 31 || resPoison (w % 65536) then 0x80000000 else ((resDecode (w % 65536) * 2 ^ shift) % 2 ^ 32).toNat) 4
  | _ => leBytes w 4

/-- Row r of a readout's output. -/
def State.readoutRow (s : State) (e : EngineOp) (r : Nat) : List Byte :=
  match e.kind with
  | .accrd tile mode shift row0 col0 cols scale expect =>
    if mode = 0 && expect = .fp64 then s.rd (tileKey e.cluster tile ((row0 + r) * 512 + 8 * col0)) (8 * cols)
    else (List.range cols).flatMap fun j => readoutElement mode shift scale (s.tileWord e.cluster tile (row0 + r) (col0 + j))
  | _ => []

end Sys2Proof.Machine
end

