-- ==== Sys2Proof/Machine/Ragged.lean ====
section
/-! DEFINITION. Shape records (R167, R168), ragged slots (R169 to R173), sequence masks (R174), and RGLD (R175, R176). -/

namespace Sys2Proof.Machine

/-! ## Reading virtual memory -/

/-- n bytes of a context read at their homes, under the core's own stores; what cannot be translated reads as nothing. -/
def State.readVa (s : State) (core asid : Nat) (system : Bool) (va n : Nat) : List Byte :=
  (pageChunks va n).flatMap fun x => match s.translate core asid system x.1 .read with
    | .ok p => s.overlay core p.key (fun _ => true) (s.homeRead p.key x.2)
    | .error _ => []

/-- The lists f gives for i, i + 1, …, n of them, joined; or the first failure. -/
def gatherFrom {α : Type} (f : Nat → Except (Nat × Nat) (List α)) (i : Nat) : Nat → Except (Nat × Nat) (List α)
  | 0 => .ok []
  | n + 1 =>
    match f i with
    | .error x => .error x
    | .ok xs => match gatherFrom f (i + 1) n with
      | .error x => .error x
      | .ok ys => .ok (xs ++ ys)

/-- n bytes read at their homes by an engine operation, or the status and address at which it stops. -/
def State.engineRead (s : State) (e : EngineOp) (va n : Nat) : Except (Nat × Nat) (List Byte) :=
  (pageChunks va n).foldl (fun acc x => match acc with
    | .error f => .error f
    | .ok bs => match s.resolve e.core e.asid e.system x.1 x.2 .read with
      | .error f => .error (f.cause.code, x.1)
      | .ok p => if !p.aperture && s.ownedElsewhere e.grid e.team e.asid x.1 x.2 false then .error (0x08, x.1) else .ok (bs ++ s.homeRead p.key x.2)) (.ok [])

/-! ## Shape records (R167, R168) -/

/-- The header's fields at an address; the tables are not read yet. -/
def shapeHeader (bound va : Nat) (h : List Byte) : Shape :=
  let s := fld h 0x14 4
  let boff := fld h 0x20 4
  let poff := fld h 0x24 4
  { bound := bound, rank := fld h 0 1, format := fld h 1 1, heads := fld h 2 2, t := fld h 4 4, width := fld h 8 4, rstride := fld h 0xC 4,
    hstride := fld h 0x10 4, s := s, dataVa := fld h 0x18 8, recordVa := va,
    extent := max 64 (max (boff + 4 * (s + 1)) (if poff = 0xFFFFFFFF then 0 else poff + 4 * s)), boff := boff, poff := poff, bounds := [], posBase := [] }

/-- The header keeps R167. -/
def headerOk (x : Shape) (h : List Byte) : Bool :=
  let boff := fld h 0x20 4
  let poff := fld h 0x24 4
  (x.rank = 2 || x.rank = 3) && [0, 1, 2, 3, 5, 7, 16, 17].contains x.format && (if x.rank = 2 then x.heads = 1 && x.hstride = 0 else 1 ≤ x.heads && x.heads ≤ 256)
    && x.t ≤ 0x7FFFFFFF && 1 ≤ x.width && x.width ≤ 65536 && x.s ≤ 16777215 && 64 ≤ boff && boff % 4 = 0 && (poff = 0xFFFFFFFF || poff % 4 = 0)
    && zeroField h 0x28 24

/-- 32-bit words of a byte list. -/
def words32 (bs : List Byte) (n : Nat) : List Nat := (List.range n).map fun i => fld bs (4 * i) 4

/-- The record's tables beside its header, read from the extent's bytes. -/
def withTables (x : Shape) (bs : List Byte) : Shape :=
  { x with bounds := words32 (bs.drop x.boff) (x.s + 1), posBase := if x.poff = 0xFFFFFFFF then [] else words32 (bs.drop x.poff) x.s }

/-- A list never falls. -/
def rising : List Nat → Bool
  | a :: b :: r => decide (a ≤ b) && rising (b :: r)
  | _ => true

/-- The tables keep R168. -/
def Shape.tablesOk (x : Shape) : Bool := x.bounds.head? == some 0 && x.bounds.getLast? == some x.t && rising x.bounds

/-- pos(t), modulo 2^32 (R168). -/
def Shape.pos (x : Shape) (t : Nat) : Nat :=
  match x.seq t with
  | some i => (t - x.bounds.getD i 0 + x.posBase.getD i 0) % 2 ^ 32
  | none => 0

/-- R174: the element of rows r and c is selected for a mask mode. -/
def selected (row col : Option Shape) (mode r c : Nat) : Bool :=
  match mode, row, col with
  | 0, _, _ => false
  | m, some x, some y =>
    match x.seq r, y.seq c with
    | some i, some j => i != j || (m == 2 && decide (x.pos r < y.pos c))
    | _, _ => true
  | _, _, _ => true

/-! ## Slots (R169, R171) -/

/-- The binding of a slot number of a core. -/
def State.slotAt (s : State) (core n : Nat) : Option RaggedSlot := s.ragged.find? fun r => r.core = some core && r.slot = n

/-- The binding a team may name. -/
def State.slotOf (s : State) (c : Ctx) (n : Nat) : Option RaggedSlot :=
  (s.slotAt c.core n).filter fun r => r.grid = c.t.ref.grid && r.team = c.t.ref.team && !r.closing

/-- A record read afresh; none where it cannot be read or breaks its rules. -/
def State.readShape (s : State) (core asid : Nat) (system : Bool) (bound va : Nat) : Option Shape :=
  let h := s.readVa core asid system va 64
  let x := shapeHeader bound va h
  if h.length = 64 && headerOk x h then
    let y := withTables x (s.readVa core asid system va x.extent)
    if y.tablesOk then some y else none
  else none

/-- Words of a table as the snapshot has them or, where memory has another and a draw says so, as memory has them: n is the number of the first draw. -/
def mixWords (n : Nat) : List Nat → List Nat → List Nat
  | x :: xs, y :: ys => (if x = y || Config.choose n % 2 = 0 then x else y) :: mixWords (n + 1) xs ys
  | xs, _ => xs

/-- The tables of a snapshot as a lookup finds them (R171): each word the snapshot's or the one written to the record meanwhile from another die (log 10). -/
def State.lookTables (s : State) (core asid : Nat) (system : Bool) (x : Shape) : Shape × State :=
  let bs := s.readVa core asid system x.recordVa x.extent
  let y := withTables x bs
  if bs.length < x.extent || (y.bounds = x.bounds && y.posBase = x.posBase) then (x, s)
  else
    let n := s.draw + x.bounds.length
    ({ x with bounds := mixWords s.draw x.bounds y.bounds, posBase := mixWords n x.posBase y.posBase }, ({ s with draw := n + x.posBase.length } : State).noteVa core asid system x.recordVa x.extent)

/-- The tables an operation may look things up in, one of its shapes or none. -/
def State.lookOption (s : State) (core asid : Nat) (system : Bool) (x : Option Shape) : Option Shape × State :=
  match x with
  | none => (none, s)
  | some y =>
    let (z, s1) := s.lookTables core asid system y
    (some z, s1)

/-- An engine operation with the tables as its lookups find them now. -/
def State.lookUp (s : State) (e : EngineOp) : EngineOp × State :=
  match e.kind with
  | .rgld x row0 head col0 cols tags =>
    let (y, s1) := s.lookTables e.core e.asid e.system x
    ({ e with kind := .rgld y row0 head col0 cols tags }, s1)
  | .segred x op first count col0 cols head flags =>
    let (y, s1) := s.lookTables e.core e.asid e.system x
    ({ e with kind := .segred y op first count col0 cols head flags }, s1)
  | .segscan x inclusive first count col0 cols head =>
    let (y, s1) := s.lookTables e.core e.asid e.system x
    ({ e with kind := .segscan y inclusive first count col0 cols head }, s1)
  | .segnorm r c mode rowOrg colOrg cols scale =>
    let (x, s1) := s.lookOption e.core e.asid e.system r
    let (y, s2) := s1.lookOption e.core e.asid e.system c
    ({ e with kind := .segnorm x y mode rowOrg colOrg cols scale }, s2)
  | _ => (e, s)

/-- RAGGED_SLOT for a slot the team may not name. -/
def State.slotFails (s : State) (c : Ctx) (n : Nat) : List Fail := when (15 < n || (s.slotOf c n).isNone) (Cause.raggedSlot.at_ n)

/-! ## RBIND, RUNBIND (R170, R172) -/

/-- The checks of RBIND in the order R170 gives; a check that cannot be made is not made. -/
def State.bindChecks (s : State) (c : Ctx) (n : Nat) (a : W64) : List Fail :=
  let va := a.toNat
  let bad := Cause.permission.at_ va
  let shape := addrFails a 64 ++ when (inAperture va || isFabric va) bad
  let slot := when (15 < n || (s.slotAt c.core n).isSome) (Cause.raggedSlot.at_ n)
  if !shape.isEmpty then slot ++ shape
  else match s.translate c.core c.asid c.system va .read with
    | .error f => slot ++ [f.claiming]
    | .ok _ =>
      let h := s.readVa c.core c.asid c.system va 64
      let x := shapeHeader 0 va h
      if !headerOk x h then slot ++ [Cause.raggedSlot.at_ va]
      else
        let pages := when (touchesAperture va x.extent || !validAddr (a + BitVec.ofNat 64 (x.extent - 1))) bad
          ++ (s.rangeFails c.core c.asid c.system va x.extent .read).map Fail.claiming
        slot ++ pages ++ when (s.ownedElsewhere c.t.ref.grid c.t.ref.team c.asid va x.extent false) (Cause.ownedElsewhere.at_ va)
          ++ (if pages.isEmpty then when (!(withTables x (s.readVa c.core c.asid c.system va x.extent)).tablesOk) (Cause.raggedSlot.at_ va) else [])

/-- The sides of what RBIND's checks read of a record: its header, and its tables where the header tells them (R17). -/
def State.noteRecord (s : State) (c : Ctx) (va : Nat) : State :=
  let h := s.readVa c.core c.asid c.system va 64
  s.noteVa c.core c.asid c.system va (if headerOk (shapeHeader 0 va h) h then (shapeHeader 0 va h).extent else 64)

/-- RBIND in one thread: the read lock is registered, waits behind write locks, then the record is read and the slot bound. -/
def rbindWord (a b : Reg) (c : Ctx) (mark op : Nat) (s : State) : Lane :=
  let n := (c.t.rd b).toNat
  let va := (c.t.rd64 a).toNat
  let x := shapeHeader 0 va (s.readVa c.core c.asid c.system va 64)
  let bind (s : State) (lock : Nat) : Lane :=
    match s.slotAt c.core n, s.readShape c.core c.asid c.system lock va with
    | none, some y =>
      let s := s.noteVa c.core c.asid c.system va y.extent
      .pass { s with ragged := s.ragged ++ [({ core := some c.core, slot := n, grid := c.t.ref.grid, team := c.t.ref.team, va := va, lock := lock, shape := y,
                                               closing := false } : RaggedSlot)] }
    | some _, _ => .refuse (s.noteRecord c va) [Cause.raggedSlot.at_ n]
    | none, none => .refuse (s.noteRecord c va) [Cause.raggedSlot.at_ va]
  if mark = 0 then
    let fs := s.bindChecks c n (c.t.rd64 a)
    if !fs.isEmpty then .refuse (if va % 64 = 0 && validAddr (c.t.rd64 a) && !inAperture va && !isFabric va then s.noteRecord c va else s) fs
    else if 256 ≤ s.lockCount c.cluster then .hold 0 false
    else
      let s1 := { s with locks := s.locks ++ [({ op := op, cluster := c.cluster, write := false, space := .global c.asid, lo := va, hi := va + x.extent } : Lock)] }
      if s1.granted op then bind s1 op else .keep s1 op
  else if s.granted mark then bind s mark
  else .hold mark false

/-- RBIND. -/
def execRbind (l : BitVec 4) (a b : Reg) (s : State) : Host.Outcome State Fault Refusal := s.long (.rbind l a b) (rbindWord a b)

/-- The shapes an engine operation works from. -/
def EngineOp.shapes (e : EngineOp) : List Shape :=
  match e.kind with
  | .rgld x _ _ _ _ _ | .segred x _ _ _ _ _ _ _ | .segscan x _ _ _ _ _ _ => [x]
  | .segnorm r c _ _ _ _ _ => r.toList ++ c.toList
  | _ => []

/-- An operation that names the binding is in progress (R172). -/
def State.slotBusy (s : State) (lock : Nat) : Bool :=
  (s.engines.any fun e => e.shapes.any fun x => x.bound == lock)
    || s.mmas.any fun m => (m.rowShape.toList ++ m.colShape.toList).any fun x => x.bound == lock

/-- RUNBIND in one thread: it waits for the operations that name the slot, and no new one may. -/
def runbindWord (a : Reg) (c : Ctx) (mark op : Nat) (s : State) : Lane :=
  let n := (c.t.rd a).toNat
  match if mark = 0 then s.slotOf c n else (s.slotAt c.core n).filter fun r => r.grid = c.t.ref.grid && r.team = c.t.ref.team with
  | none => .fail [Cause.raggedSlot.at_ n]
  | some r =>
    if s.slotBusy r.lock then
      .keep { s with ragged := updWhere (fun x => x.lock = r.lock) (fun x => { x with closing := true }) s.ragged } (if mark = 0 then op else mark)
    else .pass (({ s with ragged := s.ragged.filter fun x => x.lock ≠ r.lock } : State).unlock r.lock)

/-- RUNBIND. -/
def execRunbind (l : BitVec 4) (a : Reg) (s : State) : Host.Outcome State Fault Refusal := s.long (.runbind l a) (runbindWord a)

/-! ## RGLD (R175, R176) -/

/-- The rows of a tile below T do not all belong to one sequence. -/
def Shape.crosses (x : Shape) (row0 rows : Nat) : Bool :=
  row0 < x.t && 0 < rows && x.seq row0 != x.seq (min (row0 + rows) x.t - 1)

/-- RGLD in one thread. -/
def rgldWord (ch : BitVec 4) (a b : Reg) (c : Ctx) (_mark op : Nat) (s : State) : Lane :=
  let o := (c.t.rd a).toNat
  let base := c.descFails o 64 64 ++ c.hurdleOperand b
  if (c.descFails o 64 64).isEmpty then
    let bs := s.teamRead c.team o 64
    let slot := fld bs 0 1
    let space := fld bs 1 1
    let flags := fld bs 2 1
    let row0 := fld bs 4 4
    let rows := fld bs 8 2
    let head := fld bs 0xA 2
    let col0 := fld bs 0xC 4
    let cols := fld bs 0x10 4
    let stride := fld bs 0x18 4
    let tags := fld bs 0x1C 4
    let prog := fld bs 0x20 4
    let bad := Cause.permission.at_ o
    let shape := (space = 1 || space = 2) && flags ≤ 1 && zeroField bs 3 1 && 1 ≤ rows && rows ≤ 256 && (tags = 0xFFFFFFFF || tags % 8 = 0) && zeroField bs 0x24 28
    let dstAt : Side := if space = 1 || space = 2 then sideOf space (fld bs 0x14 4) else .none
    let tagHull : List Hull := if tags = 0xFFFFFFFF then [] else [{ side := .scratch tags, n := 1, stride := 0, row := 8 * rows, write := true }]
    let known := 1 ≤ rows && rows ≤ 256
    match s.slotOf c slot with
    | none =>
      let first : Hull := { side := dstAt, n := 1, stride := 0, row := 1, write := true }
      .fail (base ++ s.slotFails c slot ++ when (!shape) bad ++ c.progFails prog ++ (if known then s.rangeChecks c (first :: tagHull) else []))
    | some r =>
      let x := r.shape
      let n := cols * shapeSize x.format
      let ok := shape && head < x.heads && col0 + cols ≤ x.width && (rows = 1 || n ≤ stride)
      let below := min (row0 + rows) x.t - row0
      let src : List Hull := if below = 0 || n = 0 then []
        else [{ side := .global (x.at_ row0 head col0), n := below, stride := x.rstride, row := n, write := false }]
      let dst : Hull := { side := dstAt, n := rows, stride := stride, row := n, write := true }
      let hs := src ++ [dst] ++ tagHull
      Lane.check (base ++ when (!ok) bad ++ c.progFails prog
          ++ (if known then s.rangeChecks c hs ++ c.selfOverlap src dst o ++ (if s.hullsRemote c src then s.brokenFails c ch.toNat else [])
                ++ when (flags % 2 = 1 && x.crosses row0 rows) (Cause.raggedCross.at_ o) else [])) <|
        if s.loadsHeld c.t.ref || s.locksFull c hs || !s.channelTakes c ch.toNat op (src.flatMap (s.hullDies c)) then .hold 0 (s.channelFull c ch.toNat (src.flatMap (s.hullDies c)))
        else
          let e := c.engineOf op (.rgld x row0 head col0 cols (progOf tags)) ch.toNat .none dst.side rows n (progOf prog) (c.hurdleOf b)
          .pass (s.register c { e with dstride := stride } hs)
  else .fail base

/-- RGLD. -/
def execRgld (l ch : BitVec 4) (a b : Reg) (s : State) : Host.Outcome State Fault Refusal := s.long (.rgld l ch a b) (rgldWord ch a b)

/-- n bytes of row r of RGLD from byte lo on: the packed row's, zeros for a padding row. -/
def State.rgldBytes (s : State) (e : EngineOp) (x : Shape) (row0 head col0 r lo n : Nat) : Except (Nat × Nat) (List Byte) :=
  if row0 + r < x.t then s.engineRead e (x.at_ (row0 + r) head col0 + lo) n else .ok (List.replicate n 0)

/-- The tag words of a row (R176). -/
def Shape.tagBytes (x : Shape) (t : Nat) : List Byte :=
  match x.seq t with
  | some i => leBytes i 4 ++ leBytes (x.pos t) 4
  | none => leBytes 0xFFFFFFFF 4 ++ leBytes 0 4

/-- The tags of a row written, where they are given. -/
def State.writeTags (s : State) (e : EngineOp) (x : Shape) (row0 r : Nat) (tags : Option Nat) : State :=
  match tags, s.team? e.grid e.team with
  | some o, some t => s.teamLand t (o + 8 * r) (x.tagBytes (row0 + r))
  | _, _ => s

end Sys2Proof.Machine
end

