-- ==== Sys2Proof/Machine/Segments.lean ====
section
/-! DEFINITION. SEGRED, SEGSCAN and SEGNORM (R175 to R179): their issue, and the output bytes of a row. -/

namespace Sys2Proof.Machine

/-! ## Elements -/

/-- An input element in its computing type: formats 0 to 3 are widened exactly. -/
def segElement (format : Nat) (bs : List Byte) : Nat :=
  let w := leNat bs
  match format with
  | 0 => fp32.round (bf16.val w)
  | 1 => fp32.round (fp16.val w)
  | 2 => fp32.round (e4m3Val w)
  | 3 => fp32.round (e5m2.val w)
  | _ => w

/-- ADD of R177. -/
def SegType.add (k : SegType) (x y : Nat) : Nat :=
  match k with
  | .f32 => fp32.add x y
  | .f64 => fp64.add x y
  | .i32 => (x + y) % 2 ^ 32

/-- MAX of R177. -/
def SegType.max (k : SegType) (x y : Nat) : Nat :=
  match k with
  | .f32 => fp32.max x y
  | .f64 => fp64.max x y
  | .i32 => if slt 32 x y then y else x

/-- MIN of R177. -/
def SegType.min (k : SegType) (x y : Nat) : Nat :=
  match k with
  | .f32 => fp32.min x y
  | .f64 => fp64.min x y
  | .i32 => if slt 32 y x then y else x

/-- The identity of an empty sequence: operation 0 ADD, 1 MAX, 2 MIN (R177). -/
def SegType.identity (k : SegType) (op : Nat) : Nat :=
  match op, k with
  | 1, .f32 => fp32.signed true fp32.inf
  | 1, .f64 => fp64.signed true fp64.inf
  | 1, .i32 => 0x80000000
  | 2, .f32 => fp32.inf
  | 2, .f64 => fp64.inf
  | 2, .i32 => 0x7FFFFFFF
  | _, _ => 0

/-- The operation on two elements. -/
def SegType.apply (k : SegType) (op x y : Nat) : Nat :=
  match op with
  | 1 => k.max x y
  | 2 => k.min x y
  | _ => k.add x y

/-- The elements of a column in packed rows t to t + n − 1, ascending. -/
def State.segColumn (s : State) (e : EngineOp) (x : Shape) (head c t n : Nat) : Except (Nat × Nat) (List Nat) :=
  gatherFrom (fun r => match s.engineRead e (x.at_ r head c) (shapeSize x.format) with
    | .error f => .error f
    | .ok bs => .ok [segElement x.format bs]) t n

/-- Bytes lo to lo + n of a row of elements of size bytes, each got by its number. -/
def rowBytes (size lo n : Nat) (f : Nat → Except (Nat × Nat) Nat) : Except (Nat × Nat) (List Byte) :=
  let first := lo / size
  match gatherFrom (fun i => match f i with
    | .error x => .error x
    | .ok v => .ok (leBytes v size)) first ((lo + n - 1) / size - first + 1) with
  | .error x => .error x
  | .ok bs => .ok ((bs.drop (lo - first * size)).take n)

/-! ## Rows (R177, R178) -/

/-- Output of SEGRED for sequence number q of its range and a column. -/
def State.segredElement (s : State) (e : EngineOp) (x : Shape) (op sq head c : Nat) : Except (Nat × Nat) Nat :=
  let a := x.bounds.getD sq 0
  let b := x.bounds.getD (sq + 1) 0
  let k := segType x.format
  match s.segColumn e x head c a (b - a) with
  | .error f => .error f
  | .ok [] => .ok (k.identity op)
  | .ok (y :: ys) => .ok (ys.foldl (fun acc z => k.apply op acc z) y)

/-- Output of SEGSCAN for a packed row and a column. -/
def State.segscanElement (s : State) (e : EngineOp) (x : Shape) (inclusive : Bool) (t head c : Nat) : Except (Nat × Nat) Nat :=
  let a := x.bounds.getD ((x.seq t).getD 0) 0
  match s.segColumn e x head c a (t - a + (if inclusive then 1 else 0)) with
  | .error f => .error f
  | .ok [] => .ok 0
  | .ok (y :: ys) => .ok (ys.foldl (fun acc z => (segType x.format).add acc z) y)

/-- The empty-sequence bit of an output row written, where a bitmap is given; bits beyond the last row are written as 0 (R177). -/
def State.writeFlag (s : State) (e : EngineOp) (x : Shape) (first count q : Nat) (flags : Option Nat) : State :=
  match flags, s.team? e.grid e.team with
  | some o, some t =>
    let old := leNat (s.teamRead t (o + q / 8) 1)
    let empty := x.bounds.getD (first + q) 0 == x.bounds.getD (first + q + 1) 0
    let cleared := if old.testBit (q % 8) then old - 2 ^ (q % 8) else old
    let new := if empty then cleared + 2 ^ (q % 8) else cleared
    s.teamLand t (o + q / 8) (leBytes (if q + 1 = count then new % 2 ^ (q % 8 + 1) else new) 1)
  | _, _ => s

/-! ## SEGNORM (R179) -/

/-- The 4-byte element of an input row of SEGNORM. -/
def State.normInput (s : State) (e : EngineOp) (row j : Nat) : Except (Nat × Nat) Nat :=
  match (e.src.plus (row * e.sstride)).plus (4 * j) with
  | .global va => match s.engineRead e va 4 with
    | .error f => .error f
    | .ok bs => .ok (leNat bs)
  | .scratch off => match s.team? e.grid e.team with
    | some t => .ok (leNat (s.teamRead t off 4))
    | none => .ok 0
  | _ => .ok 0

/-- A row of FP32 scores normalised; valid says which columns count. -/
def softmaxRow (scale : W32) (xs : List Nat) (valid : List Bool) : List Nat :=
  match (xs.zip valid).filterMap fun p => if p.2 then some p.1 else none with
  | [] => xs.map fun _ => 0
  | v :: vs =>
    let m := vs.foldl fp32.max v
    if m = fp32.signed true fp32.inf then xs.map fun _ => 0
    else
      let ex (x : Nat) : Nat := fex2Word (BitVec.ofNat 32 (fp32.mul (fp32.sub x m) scale.toNat))
      let sum := vs.foldl (fun acc x => fp32.add acc (ex x)) (ex v)
      let r := fp32.round (fp32.val sum).recip
      (xs.zip valid).map fun p => if p.2 then fp32.mul (ex p.1) r else 0

/-- An output row of SEGNORM. -/
def State.normRow (s : State) (e : EngineOp) (rs cs : Option Shape) (mode rowOrg colOrg cols : Nat) (scale : W32) (i : Nat) : Except (Nat × Nat) (List Nat) :=
  match gatherFrom (fun j => match s.normInput e i j with
    | .error f => .error f
    | .ok v => .ok [v]) 0 cols with
  | .error f => .error f
  | .ok ys => .ok (softmaxRow scale ys ((List.range cols).map fun j => !selected rs cs mode (rowOrg + i) (colOrg + j)))

/-! ## Issue -/

/-- The segment descriptor's fields (R176). -/
structure SegDesc where
  dst : Nat
  dstride : Nat
  slot : Nat
  cslot : Nat
  dspace : Nat
  op : Nat
  first : Nat
  count : Nat
  col0 : Nat
  cols : Nat
  head : Nat
  mode : Nat
  scale : Nat
  src : Nat
  sstride : Nat
  sspace : Nat
  flags : Nat
  prog : Nat
  rest : Bool
  deriving DecidableEq, Repr

/-- The fields in 64 bytes. -/
def segDesc (bs : List Byte) : SegDesc :=
  { dst := fld bs 0 8, dstride := fld bs 8 4, slot := fld bs 0xC 1, cslot := fld bs 0xD 1, dspace := fld bs 0xE 1, op := fld bs 0xF 1, first := fld bs 0x10 4,
    count := fld bs 0x14 4, col0 := fld bs 0x18 4, cols := fld bs 0x1C 4, head := fld bs 0x20 2, mode := fld bs 0x22 1, scale := fld bs 0x24 4,
    src := fld bs 0x28 8, sstride := fld bs 0x30 4, sspace := fld bs 0x34 1, flags := fld bs 0x38 4, prog := fld bs 0x3C 4,
    rest := zeroField bs 0x23 1 && zeroField bs 0x35 3 }

/-- The fields of SEGRED and SEGSCAN apart from what the slot decides. -/
def SegDesc.okSeg (f : SegDesc) (maxOp : Nat) (bitmap : Bool) : Bool :=
  f.rest && f.dspace ≤ 1 && sideFits f.dspace f.dst && f.op ≤ maxOp && 1 ≤ f.count && f.count ≤ 65536 && 1 ≤ f.cols && f.cols ≤ 65536 && f.mode == 0
    && f.scale == 0 && f.src == 0 && f.sstride == 0 && f.sspace == 0 && f.cslot == 0xFF && (bitmap || f.flags == 0xFFFFFFFF)

/-- What the shape decides: sequences, columns, head and format. -/
def SegDesc.fits (f : SegDesc) (x : Shape) : Bool :=
  f.first + f.count ≤ x.s && f.col0 + f.cols ≤ x.width && f.head < x.heads && [0, 1, 2, 3, 7, 16, 17].contains x.format

/-- SEGRED (scan false) and SEGSCAN (scan true) in one thread. -/
def segWord (scan : Bool) (ch : BitVec 4) (a b : Reg) (c : Ctx) (_mark op : Nat) (s : State) : Lane :=
  let o := (c.t.rd a).toNat
  let base := c.descFails o 64 64 ++ c.hurdleOperand b
  if (c.descFails o 64 64).isEmpty then
    let f := segDesc (s.teamRead c.team o 64)
    let shape := f.okSeg (if scan then 1 else 2) (!scan)
    let bad := Cause.permission.at_ o
    let dstAt : Side := if f.dspace ≤ 1 then sideOf f.dspace f.dst else .none
    let bits : List Hull := if f.flags = 0xFFFFFFFF || 65536 < f.count then []
      else [{ side := .scratch f.flags, n := 1, stride := 0, row := (f.count + 7) / 8, write := true }]
    match s.slotOf c f.slot with
    | none =>
      let first : Hull := { side := dstAt, n := 1, stride := 0, row := 1, write := true }
      .fail (base ++ s.slotFails c f.slot ++ when (!shape) bad ++ c.progFails f.prog ++ s.rangeChecks c (first :: bits))
    | some r =>
      let x := r.shape
      let n := f.cols * (segType x.format).size
      let lo := x.bounds.getD f.first 0
      let hi := x.bounds.getD (f.first + f.count) 0
      let rows := if scan then hi - lo else f.count
      let ok := shape && f.fits x
      let formed := f.first + f.count ≤ x.s && f.cols ≤ 65536
      let src : List Hull := if hi ≤ lo then []
        else [{ side := .global (x.at_ lo f.head f.col0), n := hi - lo, stride := x.rstride, row := f.cols * shapeSize x.format, write := false }]
      let dst : List Hull := if rows = 0 then [] else [{ side := dstAt, n := rows, stride := f.dstride, row := n, write := true }]
      let hs := src ++ dst ++ bits
      Lane.check (base ++ when (!ok) bad ++ c.progFails f.prog
          ++ (if formed then s.rangeChecks c hs ++ dst.flatMap (fun d => c.selfOverlap src d o)
                ++ (if s.hullsRemote c hs then s.brokenFails c ch.toNat else []) else [])) <|
        if s.loadsHeld c.t.ref || s.locksFull c hs || !s.channelTakes c ch.toNat op (hs.flatMap (s.hullDies c)) then .hold 0 (s.channelFull c ch.toNat (hs.flatMap (s.hullDies c)))
        else
          let kind : EngineKind := if scan then .segscan x (f.op == 1) f.first f.count f.col0 f.cols f.head
                                   else .segred x f.op f.first f.count f.col0 f.cols f.head (progOf f.flags)
          let e := c.engineOf op kind ch.toNat .none (sideOf f.dspace f.dst) rows n (progOf f.prog) (c.hurdleOf b)
          .pass (s.register c { e with dstride := f.dstride } hs)
  else .fail base

/-- SEGRED. -/
def execSegred (l ch : BitVec 4) (a b : Reg) (s : State) : Host.Outcome State Fault Refusal := s.long (.segred l ch a b) (segWord false ch a b)

/-- SEGSCAN. -/
def execSegscan (l ch : BitVec 4) (a b : Reg) (s : State) : Host.Outcome State Fault Refusal := s.long (.segscan l ch a b) (segWord true ch a b)

/-- The snapshot a team takes of a slot it may name: an operation keeps it as it stands when it registers (R173). -/
def State.takeShape (s : State) (c : Ctx) (n : Nat) : Option Shape := (s.slotOf c n).map (·.shape)

/-- SEGNORM in one thread. -/
def segnormWord (ch : BitVec 4) (a b : Reg) (c : Ctx) (_mark op : Nat) (s : State) : Lane :=
  let o := (c.t.rd a).toNat
  let base := c.descFails o 64 64 ++ c.hurdleOperand b
  if (c.descFails o 64 64).isEmpty then
    let f := segDesc (s.teamRead c.team o 64)
    let bad := Cause.permission.at_ o
    let n := 4 * f.cols
    let sized := 1 ≤ f.count && f.count ≤ 256 && 1 ≤ f.cols && f.cols ≤ 65536
    let ok := sized && f.dspace ≤ 1 && f.sspace ≤ 1 && f.rest && sideFits f.dspace f.dst && sideFits f.sspace f.src && f.op == 0 && f.mode ≤ 2 && f.head == 0 && f.flags == 0xFFFFFFFF
      && (f.mode != 0 || (f.slot == 0xFF && f.cslot == 0xFF))
    let slots := if f.mode = 1 || f.mode = 2 then s.slotFails c f.slot ++ s.slotFails c f.cslot else []
    let src : Hull := { side := if f.sspace ≤ 1 then sideOf f.sspace f.src else .none, n := f.count, stride := f.sstride, row := n, write := false }
    let dst : Hull := { side := if f.dspace ≤ 1 then sideOf f.dspace f.dst else .none, n := f.count, stride := f.dstride, row := n, write := true }
    Lane.check (base ++ when (!ok) bad ++ slots ++ c.progFails f.prog
        ++ (if sized then s.rangeChecks c [src, dst] ++ c.selfOverlap [src] dst o
              ++ (if s.hullsRemote c [src, dst] then s.brokenFails c ch.toNat else []) else [])) <|
      if s.loadsHeld c.t.ref || s.locksFull c [src, dst] || !s.channelTakes c ch.toNat op ([src, dst].flatMap (s.hullDies c)) then .hold 0 (s.channelFull c ch.toNat ([src, dst].flatMap (s.hullDies c)))
      else
        let x := if f.mode = 0 then none else s.takeShape c f.slot
        let y := if f.mode = 0 then none else s.takeShape c f.cslot
        let e := c.engineOf op (.segnorm x y f.mode f.first f.col0 f.cols (BitVec.ofNat 32 f.scale)) ch.toNat src.side dst.side f.count n (progOf f.prog)
          (c.hurdleOf b)
        .pass (s.register c { e with sstride := f.sstride, dstride := f.dstride } [src, dst])
  else .fail base

/-- SEGNORM. -/
def execSegnorm (l ch : BitVec 4) (a b : Reg) (s : State) : Host.Outcome State Fault Refusal := s.long (.segnorm l ch a b) (segnormWord ch a b)

end Sys2Proof.Machine
end

