-- ==== Sys2Proof/Machine/Engines.lean ====
section
/-! DEFINITION. The steps of copies and engine operations: ENGINE_OP_START (R131) and COPY_BYTES_LAND (R132). -/

namespace Sys2Proof.Machine

/-- The operation counts among the 64 copies a copy engine has in progress (R128, R175). -/
def EngineOp.isCopy (e : EngineOp) : Bool :=
  match e.kind with
  | .accrd _ _ _ _ _ _ _ _ | .accclr _ | .route _ _ _ _ _ _ _ _ _ _ => false
  | _ => true

/-- Copies in progress on a cluster's engine. -/
def State.copiesRunning (s : State) (cluster : Nat) : Nat := (s.engines.filter fun e => e.cluster = cluster && e.isCopy && e.started).length

/-- Bytes beside its output that a row completes: its tags of RGLD, a byte of the bitmap of SEGRED. -/
def EngineOp.sideBytes (e : EngineOp) (row : Nat) : Nat :=
  match e.kind with
  | .rgld _ _ _ _ _ (some _) => 8
  | .segred _ _ _ count _ _ _ (some _) => if row % 8 = 7 || row + 1 = count then 1 else 0
  | _ => 0

/-- The side outputs of a row: tags of RGLD, the empty-sequence bit of SEGRED; they are bytes the word writes, landed and credited (R175; log 68). -/
def State.rowSides (s : State) (e : EngineOp) (row : Nat) : State :=
  let s1 := match e.kind with
    | .rgld x row0 _ _ _ tags => s.writeTags e x row0 row tags
    | .segred x _ first count _ _ _ flags => s.writeFlag e x first count row flags
    | _ => s
  let n := e.sideBytes row
  match s1.engine? e.op with
  | some e1 => if n = 0 then s1
    else
      let e2 := { e1 with landed := e1.landed + n, homes := if e1.homes.contains 0 then e1.homes else e1.homes ++ [0] }
      (s1.putEngine e2).engineCredit e2 n 0
  | none => s1

/-- What a row asks of other dies: a read of each 256-byte granule of its sources that is homed there (R132, R175, R262). -/
def State.asksOf (s : State) (e : EngineOp) (row lo n : Nat) : List Part :=
  ((e.sources row lo n).flatMap fun x => granuleChunks x.1 x.2).filterMap fun x => match s.resolve e.core e.asid e.system x.1 x.2 .read with
    | .ok p => if p.home = dieOfCluster e.cluster then none else some ⟨s.here p.home, .areq, .get (.place p.key x.1) x.2⟩
    | .error _ => none

/-- The sides of reading the sources of a row: the events of holes (R17). -/
def State.noteSources (s : State) (e : EngineOp) (row lo n : Nat) : State :=
  (e.sources row lo n).foldl (fun s x => s.noteVa e.core e.asid e.system x.1 x.2) s

/-- Bytes lo to lo + n of an output row of a readout or ragged word. -/
def State.outputBytes (s : State) (e : EngineOp) (row lo n : Nat) : Except (Nat × Nat) (List Byte) :=
  match e.kind with
  | .rgld x row0 head col0 _ _ => s.rgldBytes e x row0 head col0 row lo n
  | .segred x op first _ col0 _ head _ => rowBytes (segType x.format).size lo n fun j => s.segredElement e x op (first + row) head (col0 + j)
  | .segscan x inclusive first _ col0 _ head =>
    rowBytes (segType x.format).size lo n fun j => s.segscanElement e x inclusive (x.bounds.getD first 0 + row) head (col0 + j)
  | .segnorm rs cs mode rowOrg colOrg cols scale =>
    match s.normRow e rs cs mode rowOrg colOrg cols scale row with
    | .error f => .error f
    | .ok ys => .ok (((ys.flatMap fun y => leBytes y 4).drop lo).take n)
  | _ => .ok (((s.readoutRow e row).drop lo).take n)

/-- One piece of a readout or ragged word, already taken up, is computed and written: the lookups in its tables are made now (R171). -/
def State.outputNow (s : State) (e : EngineOp) (p : Piece) : State :=
  let (e1, s1) := s.lookUp e
  match s1.outputBytes e1 p.row p.lo p.len with
  | .error f => s1.stopEngine e.op f.1 f.2
  | .ok bs =>
    let s2 := s1.noteSources e1 p.row p.lo p.len
    (if p.lo = 0 then s2.rowSides e1 p.row else s2).landBytes e.op p.row p.lo bs

/-- One piece of a readout or ragged word: what other dies hold of its sources is asked for on the operation's channel; then it is computed and written. -/
def State.outputPiece (s : State) (e : EngineOp) (p : Piece) : State :=
  let ps := s.asksOf e p.row p.lo p.len
  let k := ChanKey.team e.grid e.team e.ch
  if !s.dstRoom e p.row p.lo || ps.any (fun x => !s.engineRoom e x.dst) then s
  else if ps.isEmpty then (s.addPiece e.op p).outputNow { e with pieces := e.pieces ++ [p] } p
  else if s.chanBroken k then s.stopEngine e.op 0x15 (s.sideAddr e (e.dstRow p.row))
  else
    let (e1, s1) := (s.addPiece e.op p).engineOrd { e with pieces := e.pieces ++ [p] }
    let s2 := s1.putEngine { e1 with asks := e1.asks ++ [(p.row, p.lo, ps.length)] }
    ps.foldl (fun s x => s.sendParts k (dieOfCluster e.cluster) e.asid e.op e1.ord (partOf p.row p.lo) [x]) s2

/-- Bytes of a remote source have come: a copy writes them, a ragged word goes on once all of a piece's are there. -/
def State.engineReply (s : State) (op part : Nat) (bs : List Byte) : State :=
  match s.engine? op with
  | none => s
  | some e => match e.asks.find? fun a => partOf a.1 a.2.1 = part with
    | none => s.engineAnswer op part bs
    | some a =>
      if 1 < a.2.2 then s.putEngine { e with asks := updWhere (fun x => x = a) (fun x => (x.1, x.2.1, x.2.2 - 1)) e.asks }
      else
        let e1 := { e with asks := e.asks.erase a }
        match e.pieces.find? fun p => p.row = a.1 && p.lo = a.2.1 && !p.sent with
        | some p => (s.putEngine e1).outputNow e1 p
        | none => s.putEngine e1

/-- The next bytes of an RRED's contribution are read, in order. -/
def State.gatherPiece (s : State) (e : EngineOp) (c : Contribution) (len : Nat) : State :=
  let lo := c.data.length
  let x := e.src.plus lo
  let n := min (min len (e.rowBytes - lo)) x.toGranule
  if n = 0 || !e.pieces.isEmpty || !s.engineRoom e (s.switchDie c) then s
  else match s.readSide e x n with
    | .wait => s
    | .fault status addr => s.stopEngine e.op status addr
    | .ask d t => s.engineAsk e { row := 0, lo := lo, len := n, sent := false, landed := false } d t
    | .bytes bs key => (if x.travels then s.noteRead key n else s).landBytes e.op 0 lo bs

/-- A landing on a row in the window. -/
def State.landRow (s : State) (e : EngineOp) (row lo len : Nat) : State :=
  if !e.inWindow row then s
  else match s.readIndex e row with
    | none => s
    | some (e0, s1) => match s1.engine? e.op with
      | none => s1
      | some e1 => if e1.stopped.isSome then s1 else match e0.pieceAt row lo len with
        | none => s1
        | some p => match e0.kind with
          | .accrd _ _ _ _ _ _ _ _ | .rgld _ _ _ _ _ _ | .segred _ _ _ _ _ _ _ _ | .segscan _ _ _ _ _ _ _ | .segnorm _ _ _ _ _ _ _ => s1.outputPiece e0 p
          | _ => s1.copyPiece e0 p

/-- COPY_BYTES_LAND (subject: operation, row, first byte, bytes): bytes of a row in the window are read and written, cut at the row's end and at 256-byte granules. -/
def execCopyBytesLand (s : State) : Host.Outcome State Fault Refusal :=
  finish s (match s.engine? (s.subj 0) with
    | none => s
    | some e =>
      if !e.started || e.stopped.isSome || s.engineWaits e then s
      else match e.kind with
        | .rred c => if c.data.length < e.rowBytes then s.gatherPiece e c (s.subj 3) else s
        | _ => s.landRow e (s.subj 1) (s.subj 2) (s.subj 3))

end Sys2Proof.Machine
end

