-- ==== Sys2Proof/Machine/Relay.lean ====
section
/-! DEFINITION. The Relay unit (R187 to R200): EPDEF, RASM, ROUTE, RRET, delivery of rows, drop notices, returns, deadlines. -/

namespace Sys2Proof.Machine

/-! ## Checks (R187) -/

/-- A scratch offset with its alignment and the bytes it must reach. -/
def Ctx.relayOffset (c : Ctx) (off align n : Nat) : List Fail :=
  when (off % align ≠ 0) (Cause.alignment.at_ off) ++ when (c.scratchSize < off + n) (Cause.permission.at_ off)

/-- RELAY_PARAM naming a record or block. -/
def relayParam (b : Bool) (o : Nat) : List Fail := when b (Cause.relayParam.at_ o)

/-! ## Endpoints (R188, R189) -/

/-- An endpoint's record put in place. -/
def State.putEndpoint (s : State) (e : Endpoint) : State := { s with endpoints := updWhere (fun x => x.asid = e.asid && x.id = e.id) (fun _ => e) s.endpoints }

/-- Bytes of an inbox slot: tag and row. -/
def Endpoint.slotBytes (e : Endpoint) : Nat := e.rowBytes + 16

/-- The checks of a SPILL region: device memory, translated for writing. -/
def State.spillFails (s : State) (c : Ctx) (o va n : Nat) : List Fail :=
  if va = 0 then []
  else if isFabric va || isFabric (va + n - 1) then Cause.permission.at_ va :: relayParam (va % 128 ≠ 0) o
  else if va % 128 ≠ 0 || !validAddr (BitVec.ofNat 64 va) || touchesAperture va (max n 1) then relayParam true o
  else (s.rangeFails c.core c.asid c.system va n .write).map Fail.claiming
    ++ relayParam ((pageStarts va n).any fun p => match s.translate c.core c.asid c.system p .write with | .ok q => q.host | .error _ => false) o

/-- EPDEF in one thread. -/
def epdefWord (a : Reg) (c : Ctx) (_mark _op : Nat) (s : State) : Lane :=
  let o := (c.t.rd a).toNat
  let base := c.relayOffset o 64 64
  if base.isEmpty then
    let bs := s.teamRead c.team o 64
    let id := fld bs 0 4
    let inbox := fld bs 4 4
    let cap := fld bs 8 2
    let row := fld bs 0xA 2
    let hurdle := fld bs 0xC 4
    let spill := fld bs 0x10 8
    let spillCap := fld bs 0x18 4
    let known := s.endpoint? c.asid id
    if cap = 0 then
      match known with
      | some e => if e.grid = c.t.ref.grid && e.team = c.t.ref.team then .pass { s with endpoints := s.endpoints.filter fun x => !(x.asid = c.asid && x.id = id) }
                  else .fail [Cause.relayParam.at_ o]
      | none => .fail [Cause.relayParam.at_ o]
    else
      let fields := id ≤ 4095 && cap ≤ 4096 && 16 ≤ row && row ≤ 4096 && row % 16 = 0 && zeroField bs 0x28 24
      Lane.check (c.relayOffset inbox 128 (cap * (row + 16)) ++ c.relayOffset hurdle 16 16
          ++ relayParam (!fields || known.isSome || 16 ≤ (s.endpoints.filter fun e => e.core = c.core && !e.away).length) o
          ++ s.spillFails c o spill (spillCap * (row + 16))) <|
        if s.loadsHeld c.t.ref then .hold 0 false
        else
          let e : Endpoint := { asid := c.asid, id := id, grid := c.t.ref.grid, team := c.t.ref.team, core := c.core, away := false, recordOff := o, inbox := inbox,
                                cap := cap, rowBytes := row, hurdle := hurdle, spill := spill, spillCap := spillCap, fallback := BitVec.ofNat 32 (fld bs 0x1C 4),
                                full := [], spillRoom := 0, spilled := 0, seq := 0, freeing := [] }
          .pass (({ s.settleLoads c.t.ref with endpoints := s.endpoints ++ [e] } : State).teamLand c.team (o + 0x20)
            (leBytes (c.core + 256 * c.die + 65536 * s.boot.device) 4 ++ leBytes (2 ^ 31) 4))
  else .fail base

/-- EPDEF. -/
def execEpdef (l : BitVec 4) (a : Reg) (s : State) : Host.Outcome State Fault Refusal := s.long (.epdef l a) (epdefWord a)

/-! ## Reassembly tables (R191, R192, R200) -/

/-- A table of a core; one never armed has epoch 0. -/
def State.table? (s : State) (core n : Nat) : Option Reassembly := s.tables.find? fun t => t.core = core && t.table = n

/-- A table's record put in place. -/
def State.putTable (s : State) (t : Reassembly) : State := { s with tables := s.tables.filter (fun x => !(x.core = t.core && x.table = t.table)) ++ [t] }

/-- Bytes of a returned row. -/
def Reassembly.rowBytes (t : Reassembly) : Nat := t.elems * (if t.format = 16 then 4 else 2)

/-- The status area's bytes (R191). -/
def Reassembly.status (t : Reassembly) : List Byte :=
  let mask (r : Nat) (st : SlotState) : Nat := ((List.range t.k).map fun i => if t.slots.getD (r * t.k + i) .waiting = st then 2 ^ i else 0).sum
  leBytes t.late 4 ++ leBytes t.timeouts 4 ++ leBytes t.drops 4 ++ leBytes t.wfaults 4
    ++ ((List.range t.rows).flatMap fun r => leBytes (mask r .dropped) 1) ++ ((List.range t.rows).flatMap fun r => leBytes (mask r .timedOut) 1)

/-- The status area written. -/
def State.writeStatus (s : State) (t : Reassembly) : State :=
  match s.team? t.grid t.team with
  | some u => s.teamLand u t.stats t.status
  | none => s

/-- The output of a row: the returned slots folded in slot order (R198). -/
def State.foldRow (s : State) (t : Reassembly) (r : Nat) : List Byte :=
  match s.team? t.grid t.team with
  | none => []
  | some u =>
    let f := match t.format with
      | 0 => bf16
      | 1 => fp16
      | _ => fp32
    let size := if t.format = 16 then 4 else 2
    (List.range t.elems).flatMap fun e =>
      let acc := (List.range t.k).foldl (fun acc i =>
        if t.slots.getD (r * t.k + i) .waiting = .returned then
          let x := leNat (s.teamRead u (t.slotBuf + (r * t.k + i) * t.rowBytes + e * size) size)
          fp32.round (((fp32.val (t.weights.getD (r * t.k + i) 0).toNat).mul (f.val x)).add (fp32.val acc))
        else acc) 0
      leBytes (f.round (fp32.val acc)) size

/-- Bytes written one after another through the table's context until one cannot be: whether all were. -/
def State.writeOut (s : State) (t : Reassembly) (va : Nat) : List Byte → Bool × State
  | [] => (true, s)
  | b :: bs =>
    match s.resolve t.core t.asid t.system va 1 .write with
    | .error _ => (false, s)
    | .ok p => if !p.aperture && s.ownedElsewhere t.grid t.team t.asid va 1 true then (false, s) else (s.landStore p.key [b]).writeOut t (va + 1) bs

/-- Row r written to OUT (R198). -/
def State.writeRowOut (s : State) (t : Reassembly) (r : Nat) : Bool × State :=
  let bs := s.foldRow t r
  match t.out with
  | .scratch off => match s.team? t.grid t.team with
    | some u => (true, s.teamLand u (off + r * t.ostride) bs)
    | none => (true, s)
  | .global va => s.writeOut t (va + r * t.ostride) bs
  | _ => (true, s)

/-- Every slot of a row has ended. -/
def Reassembly.rowDone (t : Reassembly) (r : Nat) : Bool := (List.range t.k).all fun i => t.slots.getD (r * t.k + i) .waiting ≠ .waiting

/-- One row looked at: written when it is complete and not written yet. -/
def State.settleRow (s : State) (core n r : Nat) : State :=
  match s.table? core n with
  | none => s
  | some t =>
    if !t.held || t.written.getD r true || !t.rowDone r then s
    else
      let (ok, s1) := s.writeRowOut t r
      s1.putTable { t with written := t.written.set r true, wfaults := if ok then t.wfaults else t.wfaults + 1 }

/-- R200: the table completes once all its rows have been written. -/
def State.settleTable (s : State) (core n : Nat) : State :=
  match s.table? core n with
  | none => s
  | some t0 =>
    let s1 := (List.range t0.rows).foldl (fun s r => s.settleRow core n r) s
    match s1.table? core n with
    | none => s1
    | some t =>
      if !t.held then s1
      else if !t.written.all id then s1.writeStatus t
      else
        let s2 := ((s1.writeStatus t).unlock t.lock).putTable { t with held := false, counting := true, deadline := none }
        s2.arrive t.grid t.team t.hurdle 1 [.package] [] ((if t.timeouts = 0 then 0 else 8) + (if t.wfaults = 0 then 0 else 2))

/-- RASM's ranges: SLOTBUF, the status area, OUT's hull. -/
def rasmHulls (bs : List Byte) : List Hull :=
  let rows := fld bs 0x10 2
  let n := fld bs 0x12 2 * (if fld bs 0xE 1 = 16 then 4 else 2)
  [{ side := .scratch (fld bs 0x14 4), n := 1, stride := 0, row := rows * fld bs 0xF 1 * n, write := true },
   { side := .scratch (fld bs 0x20 4), n := 1, stride := 0, row := 16 + 2 * rows, write := true },
   { side := sideOf (fld bs 0xD 1) (fld bs 0 8), n := rows, stride := fld bs 8 4, row := n, write := true }]

/-- A team's hold on a table. -/
def Reassembly.heldBy (t : Reassembly) (g i : Nat) : Bool := t.held && t.grid == g && t.team == i

/-- The table's new arming by a team (R192). -/
def State.arm (s : State) (c : Ctx) (lock : Nat) (bs : List Byte) : State :=
  let n := fld bs 0xC 1
  let old := s.table? c.core n
  let epoch := ((old.map (·.epoch)).getD 0) + 1
  let rows := fld bs 0x10 2
  let k := fld bs 0xF 1
  let t : Reassembly :=
    { core := c.core, table := n, epoch := epoch, held := true, counting := true, grid := c.t.ref.grid, team := c.t.ref.team, asid := c.asid, system := c.system,
      lock := lock, out := sideOf (fld bs 0xD 1) (fld bs 0 8), ostride := fld bs 8 4, format := fld bs 0xE 1, k := k, rows := rows, elems := fld bs 0x12 2,
      slotBuf := fld bs 0x14 4, hurdle := fld bs 0x18 4, timeout := fld bs 0x1C 4, stats := fld bs 0x20 4, routed := false, deadline := none,
      weights := List.replicate (rows * k) 0, slots := List.replicate (rows * k) .waiting, written := List.replicate rows false, late := 0, timeouts := 0,
      drops := 0, wfaults := 0,
      history := ((old.map (·.history)).getD []).filter (fun h => h.1 ≠ epoch) ++ [(epoch, c.t.ref.grid, c.t.ref.team)] }
  (s.putTable t).writeStatus t

/-- The checks of RASM. -/
def State.rasmChecks (s : State) (c : Ctx) (o : Nat) (bs : List Byte) : List Fail :=
  let rows := fld bs 0x10 2
  let k := fld bs 0xF 1
  let format := fld bs 0xE 1
  let n := fld bs 0x12 2 * (if format = 16 then 4 else 2)
  let space := fld bs 0xD 1
  let out := fld bs 0 8
  let tbl := fld bs 0xC 1
  let fields := (format = 0 || format = 1 || format = 16) && space ≤ 1 && sideFits space out && tbl ≤ 15 && 1 ≤ k && k ≤ 8 && 1 ≤ rows && rows ≤ 256 && 16 ≤ n
    && n ≤ 4096 && n % 16 = 0 && (rows = 1 || n ≤ fld bs 8 4) && zeroField bs 0x24 28
    && (space = 1 || validAddr (BitVec.ofNat 64 out))
  when (space = 0 && isFabric out) (Cause.permission.at_ out) ++ c.relayOffset (fld bs 0x14 4) 128 (rows * k * n) ++ c.relayOffset (fld bs 0x18 4) 16 16 ++ c.relayOffset (fld bs 0x20 4) 16 (16 + 2 * rows)
    ++ (if space = 1 then c.relayOffset out 1 ((rows - 1) * fld bs 8 4 + n) else [])
    ++ relayParam (!fields || ((s.table? c.core tbl).map (·.held)).getD false) o
    ++ ((rasmHulls bs).flatMap fun h => match h.side with
        | .scratch off => when (s.tagHit c.t.ref.grid c.t.ref.team off h.len) (Cause.permission.at_ off)
        | .global va => (match inAperture va, s.aperturePlace c.asid va 1 with
            | true, .ok p => when (s.placeTagged p.key h.len) (Cause.permission.at_ va)
            | _, _ => [])
        | _ => [])

/-- RASM in one thread: its write locks are registered and granted, then the table is armed. -/
def rasmWord (a : Reg) (c : Ctx) (mark op : Nat) (s : State) : Lane :=
  let o := (c.t.rd a).toNat
  let base := c.relayOffset o 64 64
  if base.isEmpty then
    let bs := s.teamRead c.team o 64
    let hs := rasmHulls bs
    if mark = 0 then
      Lane.check (s.rasmChecks c o bs) <|
        if s.loadsHeld c.t.ref || s.locksFull c hs then .hold 0 false
        else
          let s1 := s.settleLoads c.t.ref
          let s2 := { s1 with locks := s1.locks ++ hs.flatMap (c.lockOf op) }
          if s2.granted op then .pass (s2.arm c op bs) else .keep s2 op
    else if s.granted mark then
      if ((s.table? c.core (fld bs 0xC 1)).map (·.held)).getD false then .fail [Cause.relayParam.at_ o] else .pass (s.arm c mark bs)
    else .hold mark false
  else .fail base

/-- RASM. -/
def execRasm (l : BitVec 4) (a : Reg) (s : State) : Host.Outcome State Fault Refusal := s.long (.rasm l a) (rasmWord a)

/-! ## ROUTE (R193, R194) -/

/-- The table a block names, when the team may route it: armed by it and awaiting its ROUTE. -/
def State.routeTable (s : State) (c : Ctx) (n : Nat) : Option Reassembly :=
  (s.table? c.core n).filter fun t => t.heldBy c.t.ref.grid c.t.ref.team && !t.routed

/-- ROUTE in one thread. -/
def routeWord (ch : BitVec 4) (a b : Reg) (c : Ctx) (_mark op : Nat) (s : State) : Lane :=
  let o := (c.t.rd a).toNat
  let hv := (c.t.rd b).toNat
  let base := c.relayOffset o 64 64 ++ (if b = 0 then [] else c.relayOffset hv 16 16) ++ s.brokenFails c ch.toNat
  if (c.relayOffset o 64 64).isEmpty then
    let bs := s.teamRead c.team o 64
    let src := fld bs 0 4
    let stride := fld bs 4 4
    let rtab := fld bs 8 4
    let rows := fld bs 0xC 2
    let n := fld bs 0xE 2
    let k := fld bs 0x10 1
    let tbl := fld bs 0x11 1
    let mode := fld bs 0x12 1
    let offsets := c.relayOffset src 1 ((rows - 1) * stride + n) ++ c.relayOffset rtab 8 (8 * rows * k)
    match s.routeTable c tbl with
    | none => .fail (base ++ offsets ++ relayParam true o)
    | some t =>
      let fields := rows = t.rows && n = t.rowBytes && k = t.k && tbl ≤ 15 && mode ≤ 1 && zeroField bs 0x13 45
      let ids := (List.range (rows * k)).map fun i => leNat (s.teamRead c.team (rtab + 8 * i) 4)
      let unknown := ids.any fun id => id ≠ 0xFFFFFFFF && id / 65536 = s.boot.device && (s.endpoint? c.asid (id % 65536)).isNone
      let hs : List Hull := [{ side := .scratch src, n := rows, stride := stride, row := n, write := false },
                             { side := .scratch rtab, n := 1, stride := 0, row := 8 * rows * k, write := false }]
      Lane.check (base ++ offsets ++ relayParam (!fields || (offsets.isEmpty && fields && unknown)) o) <|
        let dests := (ids.filter (· ≠ 0xFFFFFFFF)).map (s.idDie c.asid)
        if s.loadsHeld c.t.ref || s.locksFull c hs || !s.channelTakes c ch.toNat op dests then .hold 0 (s.channelFull c ch.toNat dests)
        else
          let e := c.engineOf op (.route src stride rtab rows n k tbl mode c.core t.epoch) ch.toNat (.scratch src) .none 0 0 none (c.hurdleOf b)
          .pass ((s.register c e hs true).putTable
            { t with routed := true, deadline := if t.timeout = 0 then none else some (s.clockOf c.die + t.timeout * 1024) })
  else .fail base

/-- ROUTE. -/
def execRoute (l ch : BitVec 4) (a b : Reg) (s : State) : Host.Outcome State Fault Refusal := s.long (.route l ch a b) (routeWord ch a b)

/-- The packets of a ROUTE in its loop's order (R194): entries without an endpoint send nothing. epoch: the arming of its table it was issued for. -/
def State.routeParts (s : State) (e : EngineOp) (u : Team) (t : Reassembly) (epoch : BitVec 16) (src stride rtab rows n k mode : Nat) : List Part :=
  (List.range (rows * k)).flatMap fun i =>
    let id := leNat (s.teamRead u (rtab + 8 * i) 4)
    if id = 0xFFFFFFFF then []
    else
      let r : RelayRow :=
        { asid := e.asid, srcDev := s.boot.device, srcCore := t.core, table := t.table, epoch := epoch, row := i / k, slot := i % k,
          weight := BitVec.ofNat 32 (leNat (s.teamRead u (rtab + 8 * i + 4) 4)), forward := mode = 1, forwarded := false, endpoint := id % 65536,
          data := s.teamRead u (src + i / k * stride) n }
      rowPackets (s.idDie e.asid id) r.data (.row r)

/-- A ROUTE whose locks are granted sends its rows, notes weights and skipped slots in its table as far as its arming stands, releases its locks and arrives (R194). -/
def State.runRoute (s : State) (e : EngineOp) : State :=
  match e.kind, s.team? e.grid e.team with
  | .route src stride rtab rows n k tbl mode core epoch, some u =>
    match s.table? core tbl with
    | none => s.retireEngine e
    | some t =>
      let entry (i off : Nat) : Nat := leNat (s.teamRead u (rtab + 8 * i + off) 4)
      let ps := s.routeParts e u t epoch src stride rtab rows n k mode
      let broken := s.chanBroken (.team e.grid e.team e.ch)
      if !broken && ps.any (fun p => !s.engineRoom e p.dst) then s
      else
        let ws := (List.range (rows * k)).map fun i => BitVec.ofNat 32 (entry i 4)
        let sl := t.slots.zipIdx.map fun x => if x.1 = .waiting && entry x.2 0 = 0xFFFFFFFF then .skipped else x.1
        let t1 := if t.held && t.epoch = epoch then { t with weights := ws, slots := sl } else t
        let s1 := s.putTable t1
        let s2 := if broken then s1 else s1.sendParts (.team e.grid e.team e.ch) (dieOfCluster e.cluster) e.asid e.op e.ord 0 ps
        let s3 := (s2.retireEngine e).engineChan e
        let s4 := match e.hurdle with
          | some h => s3.arrive e.grid e.team h 1 [] [] (if broken then 2 else 0)
          | none => s3
        s4.settleTable core tbl
  | _, _ => s

/-! ## ENGINE_OP_START -/

/-- The operation is a ROUTE. -/
def EngineOp.isRoute (e : EngineOp) : Bool :=
  match e.kind with
  | .route _ _ _ _ _ _ _ _ _ _ => true
  | _ => false

/-- ENGINE_OP_START (subject: operation): earlier conflicting locks of the die are gone and the engine has room. An operation with no byte to write is complete. A ROUTE
sends its rows. -/
def execEngineOpStart (s : State) : Host.Outcome State Fault Refusal :=
  finish s (match s.engine? (s.subj 0) with
    | none => s
    | some e =>
      if s.engineWaits e then s
      else if e.isRoute then (if s.granted e.op then s.runRoute e else s)
      else if !e.isCopy || e.started || !s.granted e.op || 64 ≤ s.copiesRunning e.cluster then s
      else
        let s1 := s.putEngine { e with started := true }
        if e.rows * e.rowBytes = 0 then ((List.range e.rows).foldl (fun s r => s.rowSides e r) s1).completeEngine e 0 0 else s1)

/-! ## RRET (R197) -/

/-- The slots of an endpoint that hold a row or wait for loads of the thread that gave them back. -/
def State.fullSlots (s : State) (e : Endpoint) : List Nat :=
  e.full.filter fun k => match e.freeing.find? fun f => f.1 = k with
    | some f => f.2.2.any fun op => s.loads.any fun l => l.op = op
    | none => true

/-- RRET in one thread. -/
def rretWord (ch : BitVec 4) (a b : Reg) (c : Ctx) (_mark op : Nat) (s : State) : Lane :=
  let v := (c.t.rd a).toNat
  let off := (c.t.rd b).toNat
  let k := v % 65536
  match (s.endpoint? c.asid (v / 65536)).filter fun e => e.grid = c.t.ref.grid && e.team = c.t.ref.team with
  | none => .fail (relayParam true v ++ s.brokenFails c ch.toNat)
  | some e =>
    let tagOff := e.inbox + k * e.slotBytes
    let tag := s.teamRead c.team tagOff 16
    let full := k < e.cap && fld tag 12 4 ≥ 2 ^ 31
    let dev := fld tag 2 2
    let core := fld tag 1 1
    let dst : DieId := { dev := dev, die := dieOfCore core % 4 }
    Lane.check (relayParam (!full) v ++ when (c.scratchSize < off + e.rowBytes) (Cause.permission.at_ off) ++ s.brokenFails c ch.toNat) <|
      if s.loadsHeld c.t.ref || !s.chanTakes (c.chan ch.toNat) dst op then .hold 0 (!s.roomFor (c.chan ch.toNat) dst)
      else
        let r : RelayReturn := { dev := dev, core := core, table := fld tag 0 1 / 16, epoch := BitVec.ofNat 16 (fld tag 6 2), row := fld tag 5 1,
                                 slot := fld tag 4 1 % 8, data := s.teamRead c.team off e.rowBytes }
        let mine := (s.loads.filter fun l => l.thread = c.t.ref).map (·.op)
        let s1 := s.teamLand c.team (tagOff + 12) (leBytes (fld tag 12 4 % 2 ^ 31) 4)
        let s2 := s1.putEndpoint { e with freeing := e.freeing.filter (fun f => f.1 ≠ k) ++ [(k, c.t.ref, mine)] }
        .pass (s2.sendOp (c.chan ch.toNat) c.die c.asid op false (rowPackets dst r.data (.ret r)))

/-- RRET. -/
def execRret (l ch : BitVec 4) (a b : Reg) (s : State) : Host.Outcome State Fault Refusal := s.long (.rret l ch a b) (rretWord ch a b)

/-! ## Delivery (R190, R195, R196) -/

/-- The 16 tag bytes of a row (R190). -/
def rowTag (r : RelayRow) (seq : Nat) : List Byte :=
  leBytes (r.srcDev * 65536 + r.srcCore * 256 + r.table * 16) 4 ++ leBytes (r.epoch.toNat * 65536 + r.row * 256 + r.slot) 4 ++ leBytes r.weight.toNat 4
    ++ leBytes (2 ^ 31 + seq) 4

/-- The delivery number after one: 1 after 0x7FFF_FFFF. -/
def nextDelivery (n : Nat) : Nat := if n = 0x7FFFFFFF then 1 else n + 1

/-- A drop notice to the row's router: one in this device waits for RELAY_DROP_NOTICE, one in another device has left. -/
def State.dropRow (s : State) (r : RelayRow) : State :=
  if r.srcDev = s.boot.device then
    { s with noticesIn := s.noticesIn ++ [({ dev := r.srcDev, core := r.srcCore, table := r.table, epoch := r.epoch, row := r.row, slot := r.slot, data := [] } : RelayReturn)] }
  else s

/-- A row with no slot at a full endpoint: forwarded once, or dropped. -/
def State.fullRow (s : State) (e : Endpoint) (r : RelayRow) : State :=
  if !r.forward || r.forwarded || e.fallback = 0xFFFFFFFF then s.dropRow r
  else if e.fallback.toNat / 65536 = s.boot.device then
    { s with rowsIn := s.rowsIn ++ [{ r with forwarded := true, endpoint := e.fallback.toNat % 65536 }] }
  else s

/-- The translation of a spill place for writing, in its context as it stands (R196). -/
def State.spillPlaces (s : State) (e : Endpoint) (va n : Nat) : Option (List (Nat × Nat)) :=
  (pageChunks va n).foldl (fun acc x => match acc, s.translate e.core e.asid ((((s.grid? e.grid).bind s.kernelOf).map (·.system)).getD false) x.1 .write with
    | some ps, .ok p => some (ps ++ [(p.key, x.2)])
    | _, _ => none) (some [])

/-- Bytes written over a list of places; those of tagged hurdles stay (R203). -/
def State.writeChunks (s : State) : List (Nat × Nat) → List Byte → State
  | [], _ => s
  | (key, n) :: ps, bs => (s.landStore key (bs.take n)).writeChunks ps (bs.drop n)

/-- A row settled at its device (R195). -/
def State.settleArrival (s : State) (r : RelayRow) : State :=
  match s.endpoint? r.asid r.endpoint with
  | none => s.dropRow r
  | some e =>
    if e.rowBytes ≠ r.data.length then s.dropRow r
    else
      let seq := nextDelivery e.seq
      let bytes := rowTag r seq ++ r.data
      if e.away then
        if e.spilled < e.spillRoom then
          match s.spillPlaces e (e.spill + e.spilled * e.slotBytes) e.slotBytes with
          | none => s.fullRow e r
          | some ps => ((s.writeChunks ps bytes).putEndpoint { e with spilled := e.spilled + 1, seq := seq }).arrive e.grid e.team e.hurdle 1 [.cluster] [] 0
        else s.fullRow e r
      else
        let full := s.fullSlots e
        match lowestFree e.cap fun k => !full.contains k, s.team? e.grid e.team with
        | some k, some t =>
          ((s.teamLand t (e.inbox + k * e.slotBytes) bytes).putEndpoint
            { e with full := full ++ [k], seq := seq, freeing := e.freeing.filter fun f => f.1 ≠ k }).arrive e.grid e.team e.hurdle 1 [.cluster] [] 0
        | _, _ => s.fullRow e r

/-- Row n of those that have reached the device is settled, unless an earlier one of its router waits (R194). -/
def State.takeRow (s : State) (n : Nat) : State :=
  match s.rowsIn[n]? with
  | none => s
  | some r =>
    if (s.rowsIn.take n).any fun q => q.srcDev = r.srcDev && q.srcCore = r.srcCore then s
    else ({ s with rowsIn := s.rowsIn.eraseIdx n } : State).settleArrival r

/-- RELAY_ROW_ARRIVE (subject: place among the rows that have reached the device). -/
def execRelayRowArrive (s : State) : Host.Outcome State Fault Refusal := finish s (s.takeRow (s.subj 0))

/-! ## At the router (R197 to R200) -/

/-- How a routing slot ended, noted where it still waits. -/
def State.endSlot (s : State) (t : Reassembly) (r slot : Nat) (st : SlotState) : State :=
  let t1 := { t with slots := t.slots.set (r * t.k + slot) st, drops := if st = .dropped then t.drops + 1 else t.drops }
  (s.putTable t1).settleTable t.core t.table

/-- LATE counted, one 4-byte write (R197). -/
def State.countLate (s : State) (t : Reassembly) : State :=
  let s1 := s.putTable { t with late := t.late + 1 }
  match s.team? t.grid t.team with
  | some u => s1.teamLand u t.stats (leBytes (t.late + 1) 4)
  | none => s1

/-- RELAY_DROP_NOTICE (subject: place among the notices): the slot is marked dropped. -/
def execRelayDropNotice (s : State) : Host.Outcome State Fault Refusal :=
  let n := s.subj 0
  finish s (match s.noticesIn[n]? with
    | none => s
    | some x =>
      let s1 := { s with noticesIn := s.noticesIn.eraseIdx n }
      match s1.table? x.core x.table with
      | none => s1
      | some t =>
        if t.held && t.epoch = x.epoch && x.row < t.rows && x.slot < t.k && t.slots.getD (x.row * t.k + x.slot) .skipped = .waiting then
          s1.endSlot t x.row x.slot .dropped
        else s1)

/-- A returned row settled at its router (R197). -/
def State.settleReturn (s : State) (x : RelayReturn) : State :=
  match s.table? x.core x.table with
  | none => s
  | some t =>
    if t.epoch = x.epoch then
      if t.held && x.row < t.rows && x.slot < t.k && t.slots.getD (x.row * t.k + x.slot) .skipped = .waiting then
        match s.team? t.grid t.team with
        | some u => (s.teamLand u (t.slotBuf + (x.row * t.k + x.slot) * t.rowBytes) x.data).endSlot t x.row x.slot .returned
        | none => s
      else if t.counting then s.countLate t
      else s
    else if t.counting && t.history.any (fun h => h.1 = x.epoch && h.2.1 = t.grid && h.2.2 = t.team) then s.countLate t
    else s

/-- RELAY_RETURN_ARRIVE (subject: place among the returned rows). -/
def execRelayReturnArrive (s : State) : Host.Outcome State Fault Refusal :=
  let n := s.subj 0
  finish s (match s.returnsIn[n]? with
    | none => s
    | some x =>
      if (s.returnsIn.take n).any fun y => y.core = x.core && y.table = x.table && y.epoch = x.epoch then s
      else ({ s with returnsIn := s.returnsIn.eraseIdx n } : State).settleReturn x)

/-- REASSEMBLY_DEADLINE (subject: core, table): once the deadline has come, the slots that still wait are marked timed out (R199). -/
def execReassemblyDeadline (s : State) : Host.Outcome State Fault Refusal :=
  let core := s.subj 0
  finish s (match s.table? core (s.subj 1) with
    | none => s
    | some t =>
      match t.deadline with
      | none => s
      | some limit =>
        if !t.held || s.clockOf (dieOfCore core) < limit then s
        else
          let n := (t.slots.filter (· = .waiting)).length
          (s.putTable { t with slots := t.slots.map (fun x => if x = .waiting then .timedOut else x), timeouts := t.timeouts + n, deadline := none }).settleTable
            core t.table)

end Sys2Proof.Machine
end

