-- ==== Sys2Proof/WellFormed.lean ====
section
/-! DEFINITION. Which terms of Instr are instruction words of the machine: aligned pairs and quads (R26), the pairings of operation and
width (R35), fields that must be zero in some forms (R34). -/

namespace Sys2Proof

/-- R26, R34, R35: the restrictions on fields that the types of Syntax do not already hold. -/
def Instr.fieldsOk : Instr → Bool
  | .atom op _ w _ _ => atomPairing op w
  | .red op w _ _ => atomPairing op w && redOp op
  | .cvt .f16x2F32 _ _ _ | .cvt .bf16x2F32 _ _ _ => true
  | .cvt _ _ _ b => b == 0
  | _ => true

/-- A well-formed instruction: every register operand aligned (R26), every other restriction kept. -/
def Instr.wellFormed (i : Instr) : Bool := (operands i).all Operand.aligned && i.fieldsOk

end Sys2Proof
end

