-- ==== Sys2Proof/Decode.lean ====
section
/-! DEFINITION. The words of the instruction set (R24 to R26, R34, R35): the forms, the reader of each major opcode, the decoder, total on
any bytes and rejecting by name (R36), and the encoder. -/

namespace Sys2Proof

/-! ## Forms: the fields of a word (R24) -/

/-- Form T: MAJ, FN[25:21], D[20:14], A[13:7], B[6:0]. -/
def tWord (maj : BitVec 6) (fn : BitVec 5) (d a b : Reg) : W32 := maj ++ fn ++ d ++ a ++ b

/-- Form I: MAJ, D[25:19], A[18:12], IMM12[11:0]. -/
def iWord (maj : BitVec 6) (d a : Reg) (imm : BitVec 12) : W32 := maj ++ d ++ a ++ imm

/-- Form K: MAJ, D[25:19], IMM19[18:0]. -/
def kWord (maj : BitVec 6) (d : Reg) (imm : BitVec 19) : W32 := maj ++ d ++ imm

/-- Form F: MAJ, FN[25:23], FI[22], FO[21], D[20:14], A[13:7], B[6:0]. -/
def fWord (maj : BitVec 6) (fn : BitVec 3) (fi fo : Bool) (d a b : Reg) : W32 :=
  maj ++ fn ++ BitVec.ofBool fi ++ BitVec.ofBool fo ++ d ++ a ++ b

/-- Forms M and S: MAJ, L or Q[25:22], SZ[21:20], D[19:13], A[12:6], OFF6[5:0]. -/
def mWord (maj : BitVec 6) (l : BitVec 4) (sz : BitVec 2) (d a : Reg) (off : BitVec 6) : W32 := maj ++ l ++ sz ++ d ++ a ++ off

/-- Form B: MAJ, P[25:23], N[22], OFF22[21:0]. -/
def bWord (maj : BitVec 6) (p : BitVec 3) (n : Bool) (off : BitVec 22) : W32 := maj ++ p ++ BitVec.ofBool n ++ off

/-- Form G: MAJ, P[25:23], N[22], CNT[21:19], zero[18:0]. -/
def gWord (maj : BitVec 6) (p : BitVec 3) (n : Bool) (cnt : BitVec 3) : W32 := maj ++ p ++ BitVec.ofBool n ++ cnt ++ 0#19

/-- Form C: MAJ, FN[25:22], L[21:18], CH[17:14], A[13:7], B[6:0]. -/
def cWord (maj : BitVec 6) (fn l ch : BitVec 4) (a b : Reg) : W32 := maj ++ fn ++ l ++ ch ++ a ++ b

/-- Form A: MAJ, OP[25:21], L[20:17], W[16:14], D[13:7], A[6:0]. -/
def aWord (maj : BitVec 6) (op : BitVec 5) (l : BitVec 4) (wd : BitVec 3) (d a : Reg) : W32 := maj ++ op ++ l ++ wd ++ d ++ a

/-- Form A2: MAJ, OP[25:22], L[21:18], CH[17:14], D[13:7], A[6:0]. -/
def a2Word (maj : BitVec 6) (op l ch : BitVec 4) (d a : Reg) : W32 := maj ++ op ++ l ++ ch ++ d ++ a

/-- The major opcode, bits [31:26] of every form. -/
def majOf (w : W32) : BitVec 6 := w.extractLsb' 26 6
/-- FN of form T, OP of form A: [25:21]. -/
def tFN (w : W32) : BitVec 5 := w.extractLsb' 21 5
/-- D of forms T and F: [20:14]. -/
def tD (w : W32) : Reg := w.extractLsb' 14 7
/-- A of forms T, F and C, D of forms A and A2: [13:7]. -/
def tA (w : W32) : Reg := w.extractLsb' 7 7
/-- B of forms T, F and C, A of forms A and A2: [6:0]. -/
def tB (w : W32) : Reg := w.extractLsb' 0 7
/-- D of forms I and K: [25:19]. -/
def iD (w : W32) : Reg := w.extractLsb' 19 7
/-- A of form I: [18:12]. -/
def iA (w : W32) : Reg := w.extractLsb' 12 7
/-- IMM12: [11:0]. -/
def iImm (w : W32) : BitVec 12 := w.extractLsb' 0 12
/-- IMM19: [18:0]. -/
def kImm (w : W32) : BitVec 19 := w.extractLsb' 0 19
/-- FN of form F: [25:23]. -/
def fFN (w : W32) : BitVec 3 := w.extractLsb' 23 3
/-- FI: bit 22. -/
def fFI (w : W32) : Bool := w.getLsbD 22
/-- FO: bit 21. -/
def fFO (w : W32) : Bool := w.getLsbD 21
/-- L of form M, Q of form S: [25:22]. -/
def mL (w : W32) : BitVec 4 := w.extractLsb' 22 4
/-- SZ: [21:20]. -/
def mSZ (w : W32) : BitVec 2 := w.extractLsb' 20 2
/-- D of forms M and S: [19:13]. -/
def mD (w : W32) : Reg := w.extractLsb' 13 7
/-- A of forms M and S: [12:6]. -/
def mA (w : W32) : Reg := w.extractLsb' 6 7
/-- OFF6: [5:0]. -/
def mOff (w : W32) : BitVec 6 := w.extractLsb' 0 6
/-- P of forms B and G: [25:23]. -/
def bP (w : W32) : BitVec 3 := w.extractLsb' 23 3
/-- N of forms B and G: bit 22. -/
def bN (w : W32) : Bool := w.getLsbD 22
/-- OFF22: [21:0]. -/
def bOff (w : W32) : BitVec 22 := w.extractLsb' 0 22
/-- FN of form C, OP of form A2: [25:22]. -/
def cFN (w : W32) : BitVec 4 := w.extractLsb' 22 4
/-- L of forms C and A2: [21:18]. -/
def cL (w : W32) : BitVec 4 := w.extractLsb' 18 4
/-- CH: [17:14]. -/
def cCH (w : W32) : BitVec 4 := w.extractLsb' 14 4
/-- L of form A: [20:17]. -/
def aL (w : W32) : BitVec 4 := w.extractLsb' 17 4
/-- W of form A: [16:14]. -/
def aW (w : W32) : BitVec 3 := w.extractLsb' 14 3
/-- D of forms A and A2: [13:7]. -/
def aD (w : W32) : Reg := w.extractLsb' 7 7

/-- A predicate number in bits [2:0] of a register field, upper bits zero. -/
def pField (p : BitVec 3) : Reg := 0#4 ++ p
/-- A predicate number with its negate bit in bit 3 (05, PALL). -/
def pnField (p : BitVec 3) (n : Bool) : Reg := 0#3 ++ BitVec.ofBool n ++ p
/-- Bits [2:0] of a register field. -/
def low3 (r : Reg) : BitVec 3 := r.extractLsb' 0 3

/-! ## Codes of the enumerations -/

/-- Codes of the integer conditions (R34, ICMP). -/
def IntCond.code : IntCond → Nat
  | .eq => 0
  | .ne => 1
  | .lt => 2
  | .le => 3
  | .gt => 4
  | .ge => 5
  | .ltu => 6
  | .leu => 7
  | .gtu => 8
  | .geu => 9

/-- The IntCond that a code names; none for a reserved code. -/
def IntCond.ofCode : Nat → Option IntCond
  | 0 => some .eq
  | 1 => some .ne
  | 2 => some .lt
  | 3 => some .le
  | 4 => some .gt
  | 5 => some .ge
  | 6 => some .ltu
  | 7 => some .leu
  | 8 => some .gtu
  | 9 => some .geu
  | _ => none

/-- Codes of the floating conditions (R34, FCMP). -/
def FpCond.code : FpCond → Nat
  | .eq => 0
  | .ne => 1
  | .lt => 2
  | .le => 3
  | .gt => 4
  | .ge => 5
  | .unord => 6
  | .ord => 7

/-- The FpCond that a code names; none for a reserved code. -/
def FpCond.ofCode : Nat → Option FpCond
  | 0 => some .eq
  | 1 => some .ne
  | 2 => some .lt
  | 3 => some .le
  | 4 => some .gt
  | 5 => some .ge
  | 6 => some .unord
  | 7 => some .ord
  | _ => none

/-- Codes of the combine field (R34, ICMP). -/
def Combine.code : Combine → Nat
  | .set => 0
  | .and => 1
  | .or => 2
  | .xor => 3

/-- The Combine that a code names; none for a reserved code. -/
def Combine.ofCode : Nat → Option Combine
  | 0 => some .set
  | 1 => some .and
  | 2 => some .or
  | 3 => some .xor
  | _ => none

/-- The XLANE forms in the order of R34. -/
def XlaneOp.code : XlaneOp → Nat
  | .at => 0
  | .below => 1
  | .above => 2
  | .flip => 3

/-- The CRED operations in the order of R34. -/
def CredOp.code : CredOp → Nat
  | .add => 0
  | .min => 1
  | .max => 2
  | .minu => 3
  | .maxu => 4
  | .and => 5
  | .or => 6
  | .xor => 7

/-- The FREDX operations in the order of R34. -/
def FredxOp.code : FredxOp → Nat
  | .add => 0
  | .min => 1
  | .max => 2

/-- Conversion codes (06, CVT). -/
def CvtCode.code : CvtCode → Nat
  | .f32F16 => 0
  | .f32Bf16 => 1
  | .f16x2F32 => 2
  | .bf16x2F32 => 3
  | .f64F32 => 4
  | .f32F64 => 5
  | .f32S32 => 6
  | .f32U32 => 7
  | .s32F32 => 8
  | .u32F32 => 9
  | .s32F32Rn => 10
  | .f64S32 => 11
  | .f64U32 => 12
  | .s32F64 => 13
  | .f64S64 => 14
  | .s64F64 => 15

/-- The CvtCode that a code names; none for a reserved code. -/
def CvtCode.ofCode : Nat → Option CvtCode
  | 0 => some .f32F16
  | 1 => some .f32Bf16
  | 2 => some .f16x2F32
  | 3 => some .bf16x2F32
  | 4 => some .f64F32
  | 5 => some .f32F64
  | 6 => some .f32S32
  | 7 => some .f32U32
  | 8 => some .s32F32
  | 9 => some .u32F32
  | 10 => some .s32F32Rn
  | 11 => some .f64S32
  | 12 => some .f64U32
  | 13 => some .s32F64
  | 14 => some .f64S64
  | 15 => some .s64F64
  | _ => none

/-- SZ codes (R34, LDG). -/
def Size.code : Size → Nat
  | .w32 => 0
  | .w64 => 1
  | .w128 => 2

/-- The Size that a code names; none for a reserved code. -/
def Size.ofCode : Nat → Option Size
  | 0 => some .w32
  | 1 => some .w64
  | 2 => some .w128
  | _ => none

/-- SZ codes of LDGB (R34). -/
def SubLoad.code : SubLoad → Nat
  | .zx8 => 0
  | .sx8 => 1
  | .zx16 => 2
  | .sx16 => 3

/-- The SubLoad that a code names; none for a reserved code. -/
def SubLoad.ofCode : Nat → Option SubLoad
  | 0 => some .zx8
  | 1 => some .sx8
  | 2 => some .zx16
  | 3 => some .sx16
  | _ => none

/-- SZ codes of STGB (R34). -/
def SubStore.code : SubStore → Nat
  | .b8 => 0
  | .b16 => 1

/-- The SubStore that a code names; none for a reserved code. -/
def SubStore.ofCode : Nat → Option SubStore
  | 0 => some .b8
  | 1 => some .b16
  | _ => none

/-- OP codes of ATOM and RED (R35). -/
def AtomOp.code : AtomOp → Nat
  | .add => 0
  | .min => 1
  | .max => 2
  | .minu => 3
  | .maxu => 4
  | .and => 5
  | .or => 6
  | .xor => 7
  | .xchg => 8
  | .cas => 9
  | .fadd => 10
  | .fmin => 11
  | .fmax => 12
  | .inc => 13
  | .dec => 14

/-- The AtomOp that a code names; none for a reserved code. -/
def AtomOp.ofCode : Nat → Option AtomOp
  | 0 => some .add
  | 1 => some .min
  | 2 => some .max
  | 3 => some .minu
  | 4 => some .maxu
  | 5 => some .and
  | 6 => some .or
  | 7 => some .xor
  | 8 => some .xchg
  | 9 => some .cas
  | 10 => some .fadd
  | 11 => some .fmin
  | 12 => some .fmax
  | 13 => some .inc
  | 14 => some .dec
  | _ => none

/-- W codes of ATOM and RED (R35). -/
def AtomWidth.code : AtomWidth → Nat
  | .w32 => 0
  | .w64 => 1
  | .f16x2 => 2
  | .bf16x2 => 3

/-- The AtomWidth that a code names; none for a reserved code. -/
def AtomWidth.ofCode : Nat → Option AtomWidth
  | 0 => some .w32
  | 1 => some .w64
  | 2 => some .f16x2
  | 3 => some .bf16x2
  | _ => none

/-- OP codes of RATOM (R35). -/
def RatomOp.code : RatomOp → Nat
  | .add => 0
  | .min => 1
  | .max => 2
  | .and => 3
  | .or => 4
  | .xor => 5
  | .xchg => 6
  | .cas => 7
  | .fadd => 8
  | .fadd64 => 9
  | .faddF16x2 => 10
  | .faddBf16x2 => 11
  | .minu => 12
  | .maxu => 13
  | .add64 => 14

/-- The RatomOp that a code names; none for a reserved code. -/
def RatomOp.ofCode : Nat → Option RatomOp
  | 0 => some .add
  | 1 => some .min
  | 2 => some .max
  | 3 => some .and
  | 4 => some .or
  | 5 => some .xor
  | 6 => some .xchg
  | 7 => some .cas
  | 8 => some .fadd
  | 9 => some .fadd64
  | 10 => some .faddF16x2
  | 11 => some .faddBf16x2
  | 12 => some .minu
  | 13 => some .maxu
  | 14 => some .add64
  | _ => none

/-- Special register numbers (R30). -/
def SReg.code : SReg → Nat
  | .tid => 0
  | .team => 1
  | .teamsize => 2
  | .grid => 3
  | .depth => 4
  | .cohort => 5
  | .clane => 6
  | .core => 7
  | .cluster => 8
  | .die => 9
  | .device => 10
  | .attempt => 11
  | .lastcause => 12
  | .cycleLo => 13
  | .cycleHi => 14
  | .wbase => 15
  | .calldepth => 16
  | .tcause => 17
  | .tpc => 18
  | .taddrLo => 19
  | .taddrHi => 20
  | .tinfo => 21
  | .scratch => 22
  | .partition => 23

/-- The SReg that a code names; none for a reserved code. -/
def SReg.ofCode : Nat → Option SReg
  | 0 => some .tid
  | 1 => some .team
  | 2 => some .teamsize
  | 3 => some .grid
  | 4 => some .depth
  | 5 => some .cohort
  | 6 => some .clane
  | 7 => some .core
  | 8 => some .cluster
  | 9 => some .die
  | 10 => some .device
  | 11 => some .attempt
  | 12 => some .lastcause
  | 13 => some .cycleLo
  | 14 => some .cycleHi
  | 15 => some .wbase
  | 16 => some .calldepth
  | 17 => some .tcause
  | 18 => some .tpc
  | 19 => some .taddrLo
  | 20 => some .taddrHi
  | 21 => some .tinfo
  | 22 => some .scratch
  | 23 => some .partition
  | _ => none

/-- Scope codes (R38): team 0, cluster 1, die 2, package 3, system 4, sc0 to sc7 8 to 15. -/
def Scope.code : Scope → BitVec 4
  | .team => 0
  | .cluster => 1
  | .die => 2
  | .package => 3
  | .system => 4
  | .named i => 1#1 ++ i

/-- The scope a code names; 5, 6 and 7 are reserved (R36). -/
def Scope.ofCode (c : BitVec 4) : Option Scope :=
  match c.toNat with
  | 0 => some .team
  | 1 => some .cluster
  | 2 => some .die
  | 3 => some .package
  | 4 => some .system
  | 5 | 6 | 7 => none
  | _ => some (.named (c.extractLsb' 0 3))

/-- D of ICMP, FCMP and DCMP: D[2:0] predicate, D[4:3] combine, D[6:5] zero. -/
def cmpField (m : Combine) (p : BitVec 3) : Reg := 0#2 ++ BitVec.ofNat 2 m.code ++ p

/-! ## The encoder -/

/-- The word of an instruction (R34, R35); none for a step of another agent, which has no word. -/
def encode : Instr → Option W32
  | .nop => some (tWord 0 0 0 0 0)
  | .exit => some (tWord 0 1 0 0 0)
  | .brk => some (tWord 0 2 0 0 0)
  | .trap n => some (tWord 0 3 0 (n.extractLsb' 7 7) (n.extractLsb' 0 7))
  | .tret => some (tWord 0 4 0 0 0)
  | .tlbi a b => some (tWord 0 5 0 a b)
  | .csync => some (tWord 0 6 0 0 0)
  | .cpick p => some (tWord 0 7 (pField p) 0 0)
  | .win b => some (tWord 0 8 0 0 (0#2 ++ b))
  | .winr a => some (tWord 0 9 0 a 0)
  | .bra p n off => some (bWord 1 p n off)
  | .call off => some (bWord 2 7 false off)
  | .jmpi a => some (tWord 3 0 0 a 0)
  | .calli a => some (tWord 3 1 0 a 0)
  | .ret => some (tWord 3 2 0 0 0)
  | .grd p n cnt => some (gWord 4 p n cnt)
  | .pall p q n => some (tWord 5 0 (pField p) (pnField q n) 0)
  | .pany p q n => some (tWord 5 1 (pField p) (pnField q n) 0)
  | .psame p q n => some (tWord 5 2 (pField p) (pnField q n) 0)
  | .ballot d q n => some (tWord 5 3 d (pnField q n) 0)
  | .xlane o d a b => some (tWord 5 (BitVec.ofNat 5 (4 + o.code)) d a b)
  | .cred o d a => some (tWord 5 (BitVec.ofNat 5 (8 + o.code)) d a 0)
  | .fredx o d a => some (tWord 5 (BitVec.ofNat 5 (16 + o.code)) d a 0)
  | .scanAdd d a => some (tWord 5 19 d a 0)
  | .scanAddi d a => some (tWord 5 20 d a 0)
  | .spawn d a b => some (tWord 6 0 d a b)
  | .heat a => some (tWord 6 1 0 a 0)
  | .launch l a b => some (cWord 7 0 l 0 a b)
  | .iadd d a b => some (tWord 8 0 d a b)
  | .isub d a b => some (tWord 8 1 d a b)
  | .imul d a b => some (tWord 8 2 d a b)
  | .imulh d a b => some (tWord 8 3 d a b)
  | .imulhu d a b => some (tWord 8 4 d a b)
  | .imac d a b => some (tWord 8 5 d a b)
  | .imin d a b => some (tWord 8 6 d a b)
  | .imax d a b => some (tWord 8 7 d a b)
  | .umin d a b => some (tWord 8 8 d a b)
  | .umax d a b => some (tWord 8 9 d a b)
  | .and d a b => some (tWord 8 10 d a b)
  | .or d a b => some (tWord 8 11 d a b)
  | .xor d a b => some (tWord 8 12 d a b)
  | .andn d a b => some (tWord 8 13 d a b)
  | .shl d a b => some (tWord 8 14 d a b)
  | .shr d a b => some (tWord 8 15 d a b)
  | .sar d a b => some (tWord 8 16 d a b)
  | .rotl d a b => some (tWord 8 17 d a b)
  | .bfx d a b => some (tWord 8 18 d a b)
  | .bfxs d a b => some (tWord 8 19 d a b)
  | .bfi d a b => some (tWord 8 20 d a b)
  | .lea1 d a b => some (tWord 8 21 d a b)
  | .lea2 d a b => some (tWord 8 22 d a b)
  | .lea3 d a b => some (tWord 8 23 d a b)
  | .mulw d a b => some (tWord 8 24 d a b)
  | .add64 d a b => some (tWord 8 25 d a b)
  | .sub64 d a b => some (tWord 8 26 d a b)
  | .shl64 d a b => some (tWord 8 27 d a b)
  | .shr64 d a b => some (tWord 8 28 d a b)
  | .mov d a => some (tWord 9 0 d a 0)
  | .not d a => some (tWord 9 1 d a 0)
  | .ineg d a => some (tWord 9 2 d a 0)
  | .iabs d a => some (tWord 9 3 d a 0)
  | .clz d a => some (tWord 9 4 d a 0)
  | .popc d a => some (tWord 9 5 d a 0)
  | .brev d a => some (tWord 9 6 d a 0)
  | .ptov d => some (tWord 9 7 d 0 0)
  | .vtop a => some (tWord 9 8 0 a 0)
  | .icmp c m p a b => some (tWord 10 (BitVec.ofNat 5 c.code) (cmpField m p) a b)
  | .sel p n d a b => some (tWord 11 (p ++ BitVec.ofBool n ++ 0#1) d a b)
  | .pand d a b => some (tWord 12 0 (pField d) (pField a) (pField b))
  | .por d a b => some (tWord 12 1 (pField d) (pField a) (pField b))
  | .pxor d a b => some (tWord 12 2 (pField d) (pField a) (pField b))
  | .pnot d a => some (tWord 12 3 (pField d) (pField a) 0)
  | .iaddi d a imm => some (iWord 13 d a imm)
  | .andi d a imm => some (iWord 14 d a imm)
  | .ori d a imm => some (iWord 15 d a imm)
  | .xori d a imm => some (iWord 16 d a imm)
  | .shli d a n => some (iWord 17 d a (0#2 ++ 0#5 ++ n))
  | .shri d a n => some (iWord 17 d a (1#2 ++ 0#5 ++ n))
  | .sari d a n => some (iWord 17 d a (2#2 ++ 0#5 ++ n))
  | .rotli d a n => some (iWord 17 d a (3#2 ++ 0#5 ++ n))
  | .icmpi c p a imm => some (iWord 18 (BitVec.ofNat 4 c.code ++ p) a imm)
  | .movi d imm => some (kWord 19 d imm)
  | .movhi d imm => some (kWord 20 d imm)
  | .srd d r => some (iWord 21 d 0 (BitVec.ofNat 12 r.code))
  | .swr a => some (iWord 21 0 a (1#2 ++ 0#2 ++ 21#8))
  | .movk d k => some (iWord 21 d 0 (2#2 ++ 0#4 ++ k))
  | .fadd fi fo d a b => some (fWord 24 0 fi fo d a b)
  | .fsub fi fo d a b => some (fWord 24 1 fi fo d a b)
  | .fmul fi fo d a b => some (fWord 24 2 fi fo d a b)
  | .ffma fi fo d a b => some (fWord 24 3 fi fo d a b)
  | .ffms fi fo d a b => some (fWord 24 4 fi fo d a b)
  | .fmin fi fo d a b => some (fWord 24 5 fi fo d a b)
  | .fmax fi fo d a b => some (fWord 24 6 fi fo d a b)
  | .fabs d a => some (fWord 25 0 false false d a 0)
  | .fneg d a => some (fWord 25 0 false false d a 1)
  | .frcp fi fo d a => some (fWord 25 0 fi fo d a 2)
  | .frsq fi fo d a => some (fWord 25 0 fi fo d a 3)
  | .fsqrt fi fo d a => some (fWord 25 0 fi fo d a 4)
  | .fex2 fi fo d a => some (fWord 25 0 fi fo d a 5)
  | .flg2 fi fo d a => some (fWord 25 0 fi fo d a 6)
  | .ftanh fi fo d a => some (fWord 25 0 fi fo d a 7)
  | .frndNe fi fo d a => some (fWord 25 0 fi fo d a 8)
  | .frndZ fi fo d a => some (fWord 25 0 fi fo d a 9)
  | .frndDn fi fo d a => some (fWord 25 0 fi fo d a 10)
  | .frndUp fi fo d a => some (fWord 25 0 fi fo d a 11)
  | .fsin fi fo d a => some (fWord 25 0 fi fo d a 12)
  | .fcos fi fo d a => some (fWord 25 0 fi fo d a 13)
  | .fcmp c m fi p a b => some (fWord 26 (BitVec.ofNat 3 c.code) fi false (cmpField m p) a b)
  | .paddH fi fo d a b => some (fWord 27 0 fi fo d a b)
  | .pmulH fi fo d a b => some (fWord 27 1 fi fo d a b)
  | .pfmaH fi fo d a b => some (fWord 27 2 fi fo d a b)
  | .paddB fi fo d a b => some (fWord 27 3 fi fo d a b)
  | .pmulB fi fo d a b => some (fWord 27 4 fi fo d a b)
  | .pfmaB fi fo d a b => some (fWord 27 5 fi fo d a b)
  | .pmaxH fi fo d a b => some (fWord 27 6 fi fo d a b)
  | .pmaxB fi fo d a b => some (fWord 27 7 fi fo d a b)
  | .dadd fi fo d a b => some (fWord 28 0 fi fo d a b)
  | .dsub fi fo d a b => some (fWord 28 1 fi fo d a b)
  | .dmul fi fo d a b => some (fWord 28 2 fi fo d a b)
  | .dfma fi fo d a b => some (fWord 28 3 fi fo d a b)
  | .dmin fi fo d a b => some (fWord 28 4 fi fo d a b)
  | .dmax fi fo d a b => some (fWord 28 5 fi fo d a b)
  | .dcmp c m fi p a b => some (fWord 29 (BitVec.ofNat 3 c.code) fi false (cmpField m p) a b)
  | .cvt c d a b => some (tWord 30 (BitVec.ofNat 5 c.code) d a b)
  | .pack8E4m3 d a b => some (tWord 31 0 d a b)
  | .pack8E5m2 d a b => some (tWord 31 1 d a b)
  | .unpk8E4m3 d a => some (tWord 31 2 d a 0)
  | .unpk8E5m2 d a => some (tWord 31 3 d a 0)
  | .pack4 d a b => some (tWord 31 4 d a b)
  | .unpk4 d a b => some (tWord 31 5 d a b)
  | .resenc d a => some (tWord 31 6 d a 0)
  | .resdec d a => some (tWord 31 7 d a 0)
  | .scale8 d a b => some (tWord 31 8 d a b)
  | .ldg l sz d a off => some (mWord 32 l (BitVec.ofNat 2 sz.code) d a off)
  | .ldgn l sz d a off => some (mWord 33 l (BitVec.ofNat 2 sz.code) d a off)
  | .lds l sz d a off => some (mWord 35 l (BitVec.ofNat 2 sz.code) d a off)
  | .ldk l sz d a off => some (mWord 39 l (BitVec.ofNat 2 sz.code) d a off)
  | .ldgb l sz d a off => some (mWord 34 l (BitVec.ofNat 2 sz.code) d a off)
  | .stg s sz d a off => some (mWord 36 (0#3 ++ BitVec.ofBool s) (BitVec.ofNat 2 sz.code) d a off)
  | .stgb s sz d a off => some (mWord 37 (0#3 ++ BitVec.ofBool s) (BitVec.ofNat 2 sz.code) d a off)
  | .sts sz d a off => some (mWord 38 0 (BitVec.ofNat 2 sz.code) d a off)
  | .oclaim l a b => some (cWord 40 0 l 0 a b)
  | .omove l a b => some (cWord 40 1 l 0 a b)
  | .orels l a => some (cWord 40 2 l 0 a 0)
  | .pref l a b => some (cWord 40 3 l 0 a b)
  | .fenceAcq l sc => some (cWord 41 0 l sc.code 0 0)
  | .fenceRel l sc => some (cWord 41 1 l sc.code 0 0)
  | .fenceAr l sc => some (cWord 41 2 l sc.code 0 0)
  | .hinit l a b => some (cWord 44 0 l 0 a b)
  | .arriveRel l sc a b => some (cWord 44 1 l sc.code a b)
  | .arriveRlx l a b => some (cWord 44 2 l 0 a b)
  | .expect l a b => some (cWord 44 3 l 0 a b)
  | .waitp d a b => some (tWord 45 0 d a b)
  | .htest d a => some (tWord 45 1 d a 0)
  | .qwait a b => some (tWord 45 2 0 a b)
  | .wake d a b => some (tWord 45 3 d a b)
  | .atom op l wd d a => some (aWord 46 (BitVec.ofNat 5 op.code) l (BitVec.ofNat 3 wd.code) d a)
  | .red op wd d a => some (aWord 47 (BitVec.ofNat 5 op.code) 0 (BitVec.ofNat 3 wd.code) d a)
  | .rst ch sz d a off => some (mWord 48 ch (BitVec.ofNat 2 sz.code) d a off)
  | .ratom op l ch d a => some (a2Word 49 (BitVec.ofNat 4 op.code) l ch d a)
  | .rcpy l ch a b => some (cWord 50 0 l ch a b)
  | .rmc l ch a b => some (cWord 50 1 l ch a b)
  | .rred l ch a b => some (cWord 50 2 l ch a b)
  | .join t s => some (cWord 51 0 0 t 0 (0#3 ++ s))
  | .drain l ch a => some (cWord 51 1 l ch a 0)
  | .cpy l ch a b => some (cWord 54 0 l ch a b)
  | .cpyg l ch a b => some (cWord 54 1 l ch a b)
  | .cpys l ch a b => some (cWord 54 2 l ch a b)
  | .cpyf l ch a b => some (cWord 54 3 l ch a b)
  | .obres l a => some (cWord 55 0 l 0 a 0)
  | .obrel l a => some (cWord 55 1 l 0 a 0)
  | .accclr l a => some (cWord 55 2 l 0 a 0)
  | .accrd l ch a b => some (cWord 55 3 l ch a b)
  | .mma l a => some (cWord 56 0 l 0 a 0)
  | .rbind l a b => some (cWord 57 0 l 0 a b)
  | .runbind l a => some (cWord 57 1 l 0 a 0)
  | .rgld l ch a b => some (cWord 57 2 l ch a b)
  | .segred l ch a b => some (cWord 57 3 l ch a b)
  | .segnorm l ch a b => some (cWord 57 4 l ch a b)
  | .segscan l ch a b => some (cWord 57 5 l ch a b)
  | .walk a => some (tWord 58 0 0 a 0)
  | .wnext d a => some (tWord 58 1 d a 0)
  | .wred a b => some (tWord 58 2 0 a b)
  | .wend a b => some (tWord 58 3 0 a b)
  | .route l ch a b => some (cWord 59 0 l ch a b)
  | .rret l ch a b => some (cWord 59 1 l ch a b)
  | .epdef l a => some (cWord 59 2 l 0 a 0)
  | .rasm l a => some (cWord 59 3 l 0 a 0)
  | _ => none

/-! ## The decoder -/

/-- MAJ 0x00, SYS (R34). -/
def readSys (w : W32) : Option Instr :=
  match (tFN w).toNat with
  | 0 => some .nop
  | 1 => some .exit
  | 2 => some .brk
  | 3 => some (.trap (tA w ++ tB w))
  | 4 => some .tret
  | 5 => some (.tlbi (tA w) (tB w))
  | 6 => some .csync
  | 7 => some (.cpick (low3 (tD w)))
  | 8 => some (.win ((tB w).extractLsb' 0 5))
  | 9 => some (.winr (tA w))
  | _ => none

/-- MAJ 0x03, JUMP (R34). -/
def readJump (w : W32) : Option Instr :=
  match (tFN w).toNat with
  | 0 => some (.jmpi (tA w))
  | 1 => some (.calli (tA w))
  | 2 => some .ret
  | _ => none

/-- MAJ 0x05, CLV (R34). -/
def readClv (w : W32) : Option Instr :=
  match (tFN w).toNat with
  | 0 => some (.pall (low3 (tD w)) (low3 (tA w)) ((tA w).getLsbD 3))
  | 1 => some (.pany (low3 (tD w)) (low3 (tA w)) ((tA w).getLsbD 3))
  | 2 => some (.psame (low3 (tD w)) (low3 (tA w)) ((tA w).getLsbD 3))
  | 3 => some (.ballot (tD w) (low3 (tA w)) ((tA w).getLsbD 3))
  | 4 => some (.xlane .at (tD w) (tA w) (tB w))
  | 5 => some (.xlane .below (tD w) (tA w) (tB w))
  | 6 => some (.xlane .above (tD w) (tA w) (tB w))
  | 7 => some (.xlane .flip (tD w) (tA w) (tB w))
  | 8 => some (.cred .add (tD w) (tA w))
  | 9 => some (.cred .min (tD w) (tA w))
  | 10 => some (.cred .max (tD w) (tA w))
  | 11 => some (.cred .minu (tD w) (tA w))
  | 12 => some (.cred .maxu (tD w) (tA w))
  | 13 => some (.cred .and (tD w) (tA w))
  | 14 => some (.cred .or (tD w) (tA w))
  | 15 => some (.cred .xor (tD w) (tA w))
  | 16 => some (.fredx .add (tD w) (tA w))
  | 17 => some (.fredx .min (tD w) (tA w))
  | 18 => some (.fredx .max (tD w) (tA w))
  | 19 => some (.scanAdd (tD w) (tA w))
  | 20 => some (.scanAddi (tD w) (tA w))
  | _ => none

/-- MAJ 0x06, SPAWN (R34). -/
def readSpawn (w : W32) : Option Instr :=
  match (tFN w).toNat with
  | 0 => some (.spawn (tD w) (tA w) (tB w))
  | 1 => some (.heat (tA w))
  | _ => none

/-- MAJ 0x07, LAUNCH (R34). -/
def readLaunch (w : W32) : Option Instr :=
  match (cFN w).toNat with
  | 0 => some (.launch (cL w) (tA w) (tB w))
  | _ => none

/-- MAJ 0x08, INTA (R34). -/
def readInta (w : W32) : Option Instr :=
  match (tFN w).toNat with
  | 0 => some (.iadd (tD w) (tA w) (tB w))
  | 1 => some (.isub (tD w) (tA w) (tB w))
  | 2 => some (.imul (tD w) (tA w) (tB w))
  | 3 => some (.imulh (tD w) (tA w) (tB w))
  | 4 => some (.imulhu (tD w) (tA w) (tB w))
  | 5 => some (.imac (tD w) (tA w) (tB w))
  | 6 => some (.imin (tD w) (tA w) (tB w))
  | 7 => some (.imax (tD w) (tA w) (tB w))
  | 8 => some (.umin (tD w) (tA w) (tB w))
  | 9 => some (.umax (tD w) (tA w) (tB w))
  | 10 => some (.and (tD w) (tA w) (tB w))
  | 11 => some (.or (tD w) (tA w) (tB w))
  | 12 => some (.xor (tD w) (tA w) (tB w))
  | 13 => some (.andn (tD w) (tA w) (tB w))
  | 14 => some (.shl (tD w) (tA w) (tB w))
  | 15 => some (.shr (tD w) (tA w) (tB w))
  | 16 => some (.sar (tD w) (tA w) (tB w))
  | 17 => some (.rotl (tD w) (tA w) (tB w))
  | 18 => some (.bfx (tD w) (tA w) (tB w))
  | 19 => some (.bfxs (tD w) (tA w) (tB w))
  | 20 => some (.bfi (tD w) (tA w) (tB w))
  | 21 => some (.lea1 (tD w) (tA w) (tB w))
  | 22 => some (.lea2 (tD w) (tA w) (tB w))
  | 23 => some (.lea3 (tD w) (tA w) (tB w))
  | 24 => some (.mulw (tD w) (tA w) (tB w))
  | 25 => some (.add64 (tD w) (tA w) (tB w))
  | 26 => some (.sub64 (tD w) (tA w) (tB w))
  | 27 => some (.shl64 (tD w) (tA w) (tB w))
  | 28 => some (.shr64 (tD w) (tA w) (tB w))
  | _ => none

/-- MAJ 0x09, INTU (R34). -/
def readIntu (w : W32) : Option Instr :=
  match (tFN w).toNat with
  | 0 => some (.mov (tD w) (tA w))
  | 1 => some (.not (tD w) (tA w))
  | 2 => some (.ineg (tD w) (tA w))
  | 3 => some (.iabs (tD w) (tA w))
  | 4 => some (.clz (tD w) (tA w))
  | 5 => some (.popc (tD w) (tA w))
  | 6 => some (.brev (tD w) (tA w))
  | 7 => some (.ptov (tD w))
  | 8 => some (.vtop (tA w))
  | _ => none

/-- MAJ 0x0C, PLOP (R34). -/
def readPlop (w : W32) : Option Instr :=
  match (tFN w).toNat with
  | 0 => some (.pand (low3 (tD w)) (low3 (tA w)) (low3 (tB w)))
  | 1 => some (.por (low3 (tD w)) (low3 (tA w)) (low3 (tB w)))
  | 2 => some (.pxor (low3 (tD w)) (low3 (tA w)) (low3 (tB w)))
  | 3 => some (.pnot (low3 (tD w)) (low3 (tA w)))
  | _ => none

/-- MAJ 0x11, SHIFTI (R34). -/
def readShifti (w : W32) : Option Instr :=
  match ((iImm w).extractLsb' 10 2).toNat with
  | 0 => some (.shli (iD w) (iA w) ((iImm w).extractLsb' 0 5))
  | 1 => some (.shri (iD w) (iA w) ((iImm w).extractLsb' 0 5))
  | 2 => some (.sari (iD w) (iA w) ((iImm w).extractLsb' 0 5))
  | 3 => some (.rotli (iD w) (iA w) ((iImm w).extractLsb' 0 5))
  | _ => none

/-- MAJ 0x18, FPA (R34). -/
def readFpa (w : W32) : Option Instr :=
  match (fFN w).toNat with
  | 0 => some (.fadd (fFI w) (fFO w) (tD w) (tA w) (tB w))
  | 1 => some (.fsub (fFI w) (fFO w) (tD w) (tA w) (tB w))
  | 2 => some (.fmul (fFI w) (fFO w) (tD w) (tA w) (tB w))
  | 3 => some (.ffma (fFI w) (fFO w) (tD w) (tA w) (tB w))
  | 4 => some (.ffms (fFI w) (fFO w) (tD w) (tA w) (tB w))
  | 5 => some (.fmin (fFI w) (fFO w) (tD w) (tA w) (tB w))
  | 6 => some (.fmax (fFI w) (fFO w) (tD w) (tA w) (tB w))
  | _ => none

/-- MAJ 0x19, FPU1 (R34). -/
def readFpu1 (w : W32) : Option Instr :=
  match (tB w).toNat with
  | 0 => some (.fabs (tD w) (tA w))
  | 1 => some (.fneg (tD w) (tA w))
  | 2 => some (.frcp (fFI w) (fFO w) (tD w) (tA w))
  | 3 => some (.frsq (fFI w) (fFO w) (tD w) (tA w))
  | 4 => some (.fsqrt (fFI w) (fFO w) (tD w) (tA w))
  | 5 => some (.fex2 (fFI w) (fFO w) (tD w) (tA w))
  | 6 => some (.flg2 (fFI w) (fFO w) (tD w) (tA w))
  | 7 => some (.ftanh (fFI w) (fFO w) (tD w) (tA w))
  | 8 => some (.frndNe (fFI w) (fFO w) (tD w) (tA w))
  | 9 => some (.frndZ (fFI w) (fFO w) (tD w) (tA w))
  | 10 => some (.frndDn (fFI w) (fFO w) (tD w) (tA w))
  | 11 => some (.frndUp (fFI w) (fFO w) (tD w) (tA w))
  | 12 => some (.fsin (fFI w) (fFO w) (tD w) (tA w))
  | 13 => some (.fcos (fFI w) (fFO w) (tD w) (tA w))
  | _ => none

/-- MAJ 0x1B, HP2 (R34). -/
def readHp2 (w : W32) : Option Instr :=
  match (fFN w).toNat with
  | 0 => some (.paddH (fFI w) (fFO w) (tD w) (tA w) (tB w))
  | 1 => some (.pmulH (fFI w) (fFO w) (tD w) (tA w) (tB w))
  | 2 => some (.pfmaH (fFI w) (fFO w) (tD w) (tA w) (tB w))
  | 3 => some (.paddB (fFI w) (fFO w) (tD w) (tA w) (tB w))
  | 4 => some (.pmulB (fFI w) (fFO w) (tD w) (tA w) (tB w))
  | 5 => some (.pfmaB (fFI w) (fFO w) (tD w) (tA w) (tB w))
  | 6 => some (.pmaxH (fFI w) (fFO w) (tD w) (tA w) (tB w))
  | 7 => some (.pmaxB (fFI w) (fFO w) (tD w) (tA w) (tB w))
  | _ => none

/-- MAJ 0x1C, DPA (R34). -/
def readDpa (w : W32) : Option Instr :=
  match (fFN w).toNat with
  | 0 => some (.dadd (fFI w) (fFO w) (tD w) (tA w) (tB w))
  | 1 => some (.dsub (fFI w) (fFO w) (tD w) (tA w) (tB w))
  | 2 => some (.dmul (fFI w) (fFO w) (tD w) (tA w) (tB w))
  | 3 => some (.dfma (fFI w) (fFO w) (tD w) (tA w) (tB w))
  | 4 => some (.dmin (fFI w) (fFO w) (tD w) (tA w) (tB w))
  | 5 => some (.dmax (fFI w) (fFO w) (tD w) (tA w) (tB w))
  | _ => none

/-- MAJ 0x1F, NARROW (R34). -/
def readNarrow (w : W32) : Option Instr :=
  match (tFN w).toNat with
  | 0 => some (.pack8E4m3 (tD w) (tA w) (tB w))
  | 1 => some (.pack8E5m2 (tD w) (tA w) (tB w))
  | 2 => some (.unpk8E4m3 (tD w) (tA w))
  | 3 => some (.unpk8E5m2 (tD w) (tA w))
  | 4 => some (.pack4 (tD w) (tA w) (tB w))
  | 5 => some (.unpk4 (tD w) (tA w) (tB w))
  | 6 => some (.resenc (tD w) (tA w))
  | 7 => some (.resdec (tD w) (tA w))
  | 8 => some (.scale8 (tD w) (tA w) (tB w))
  | _ => none

/-- MAJ 0x28, OWN (R34). -/
def readOwn (w : W32) : Option Instr :=
  match (cFN w).toNat with
  | 0 => some (.oclaim (cL w) (tA w) (tB w))
  | 1 => some (.omove (cL w) (tA w) (tB w))
  | 2 => some (.orels (cL w) (tA w))
  | 3 => some (.pref (cL w) (tA w) (tB w))
  | _ => none

/-- MAJ 0x29, FENCE (R34). -/
def readFence (w : W32) : Option Instr :=
  match (cFN w).toNat with
  | 0 => (Scope.ofCode (cCH w)).map (.fenceAcq (cL w))
  | 1 => (Scope.ofCode (cCH w)).map (.fenceRel (cL w))
  | 2 => (Scope.ofCode (cCH w)).map (.fenceAr (cL w))
  | _ => none

/-- MAJ 0x2C, HRD (R34). -/
def readHrd (w : W32) : Option Instr :=
  match (cFN w).toNat with
  | 0 => some (.hinit (cL w) (tA w) (tB w))
  | 1 => (Scope.ofCode (cCH w)).map (fun sc => .arriveRel (cL w) sc (tA w) (tB w))
  | 2 => some (.arriveRlx (cL w) (tA w) (tB w))
  | 3 => some (.expect (cL w) (tA w) (tB w))
  | _ => none

/-- MAJ 0x2D, WAIT (R34). -/
def readWait (w : W32) : Option Instr :=
  match (tFN w).toNat with
  | 0 => some (.waitp (tD w) (tA w) (tB w))
  | 1 => some (.htest (tD w) (tA w))
  | 2 => some (.qwait (tA w) (tB w))
  | 3 => some (.wake (tD w) (tA w) (tB w))
  | _ => none

/-- MAJ 0x32, RMOTE (R34). -/
def readRmote (w : W32) : Option Instr :=
  match (cFN w).toNat with
  | 0 => some (.rcpy (cL w) (cCH w) (tA w) (tB w))
  | 1 => some (.rmc (cL w) (cCH w) (tA w) (tB w))
  | 2 => some (.rred (cL w) (cCH w) (tA w) (tB w))
  | _ => none

/-- MAJ 0x33, CHAN (R34). -/
def readChan (w : W32) : Option Instr :=
  match (cFN w).toNat with
  | 0 => some (.join (cCH w) ((tB w).extractLsb' 0 4))
  | 1 => some (.drain (cL w) (cCH w) (tA w))
  | _ => none

/-- MAJ 0x36, COPY (R34). -/
def readCopy (w : W32) : Option Instr :=
  match (cFN w).toNat with
  | 0 => some (.cpy (cL w) (cCH w) (tA w) (tB w))
  | 1 => some (.cpyg (cL w) (cCH w) (tA w) (tB w))
  | 2 => some (.cpys (cL w) (cCH w) (tA w) (tB w))
  | 3 => some (.cpyf (cL w) (cCH w) (tA w) (tB w))
  | _ => none

/-- MAJ 0x37, OBUF (R34). -/
def readObuf (w : W32) : Option Instr :=
  match (cFN w).toNat with
  | 0 => some (.obres (cL w) (tA w))
  | 1 => some (.obrel (cL w) (tA w))
  | 2 => some (.accclr (cL w) (tA w))
  | 3 => some (.accrd (cL w) (cCH w) (tA w) (tB w))
  | _ => none

/-- MAJ 0x38, MMA (R34). -/
def readMma (w : W32) : Option Instr :=
  match (cFN w).toNat with
  | 0 => some (.mma (cL w) (tA w))
  | _ => none

/-- MAJ 0x39, RAGG (R34). -/
def readRagg (w : W32) : Option Instr :=
  match (cFN w).toNat with
  | 0 => some (.rbind (cL w) (tA w) (tB w))
  | 1 => some (.runbind (cL w) (tA w))
  | 2 => some (.rgld (cL w) (cCH w) (tA w) (tB w))
  | 3 => some (.segred (cL w) (cCH w) (tA w) (tB w))
  | 4 => some (.segnorm (cL w) (cCH w) (tA w) (tB w))
  | 5 => some (.segscan (cL w) (cCH w) (tA w) (tB w))
  | _ => none

/-- MAJ 0x3A, WALKER (R34). -/
def readWalker (w : W32) : Option Instr :=
  match (tFN w).toNat with
  | 0 => some (.walk (tA w))
  | 1 => some (.wnext (tD w) (tA w))
  | 2 => some (.wred (tA w) (tB w))
  | 3 => some (.wend (tA w) (tB w))
  | _ => none

/-- MAJ 0x3B, RELAY (R34). -/
def readRelay (w : W32) : Option Instr :=
  match (cFN w).toNat with
  | 0 => some (.route (cL w) (cCH w) (tA w) (tB w))
  | 1 => some (.rret (cL w) (cCH w) (tA w) (tB w))
  | 2 => some (.epdef (cL w) (tA w))
  | 3 => some (.rasm (cL w) (tA w))
  | _ => none

/-- MAJ 0x15, SPEC (R34, R31): SRD of a number from 24 on is reserved, SWR names no number but 21. -/
def readSpec (w : W32) : Option Instr :=
  match ((iImm w).extractLsb' 10 2).toNat with
  | 0 => (SReg.ofCode ((iImm w).extractLsb' 0 8).toNat).map fun r => .srd (iD w) r
  | 1 => if (iImm w).extractLsb' 0 8 = 21#8 then some (.swr (iA w)) else none
  | 2 => some (.movk (iD w) ((iImm w).extractLsb' 0 6))
  | _ => none

/-- The major opcodes that R34 reserves. -/
def reservedMajors : List Nat := [0x16, 0x17, 0x2A, 0x2B, 0x34, 0x35, 0x3C, 0x3D, 0x3E, 0x3F]

/-- The instruction the opcode map and the fields of a word name, before the must-be-zero and alignment checks; none where a function,
operation, size, width or selector value is reserved (R34, R35). -/
def readWord (w : W32) : Option Instr :=
  match (majOf w).toNat with
  | 0 => readSys w
  | 1 => some (.bra (bP w) (bN w) (bOff w))
  | 2 => some (.call (bOff w))
  | 3 => readJump w
  | 4 => some (.grd (bP w) (bN w) ((bOff w).extractLsb' 19 3))
  | 5 => readClv w
  | 6 => readSpawn w
  | 7 => readLaunch w
  | 8 => readInta w
  | 9 => readIntu w
  | 10 => (IntCond.ofCode (tFN w).toNat).bind fun c => (Combine.ofCode ((tD w).extractLsb' 3 2).toNat).map fun m => .icmp c m (low3 (tD w)) (tA w) (tB w)
  | 11 => some (.sel ((tFN w).extractLsb' 2 3) ((tFN w).getLsbD 1) (tD w) (tA w) (tB w))
  | 12 => readPlop w
  | 13 => some (.iaddi (iD w) (iA w) (iImm w))
  | 14 => some (.andi (iD w) (iA w) (iImm w))
  | 15 => some (.ori (iD w) (iA w) (iImm w))
  | 16 => some (.xori (iD w) (iA w) (iImm w))
  | 17 => readShifti w
  | 18 => (IntCond.ofCode ((iD w).extractLsb' 3 4).toNat).map fun c => .icmpi c (low3 (iD w)) (iA w) (iImm w)
  | 19 => some (.movi (iD w) (kImm w))
  | 20 => some (.movhi (iD w) (kImm w))
  | 21 => readSpec w
  | 24 => readFpa w
  | 25 => readFpu1 w
  | 26 => (FpCond.ofCode (fFN w).toNat).bind fun c => (Combine.ofCode ((tD w).extractLsb' 3 2).toNat).map fun m => .fcmp c m (fFI w) (low3 (tD w)) (tA w) (tB w)
  | 27 => readHp2 w
  | 28 => readDpa w
  | 29 => (FpCond.ofCode (fFN w).toNat).bind fun c => (Combine.ofCode ((tD w).extractLsb' 3 2).toNat).map fun m => .dcmp c m (fFI w) (low3 (tD w)) (tA w) (tB w)
  | 30 => (CvtCode.ofCode (tFN w).toNat).map fun c => .cvt c (tD w) (tA w) (tB w)
  | 31 => readNarrow w
  | 32 => (Size.ofCode (mSZ w).toNat).map fun sz => .ldg (mL w) sz (mD w) (mA w) (mOff w)
  | 33 => (Size.ofCode (mSZ w).toNat).map fun sz => .ldgn (mL w) sz (mD w) (mA w) (mOff w)
  | 34 => (SubLoad.ofCode (mSZ w).toNat).map fun sz => .ldgb (mL w) sz (mD w) (mA w) (mOff w)
  | 35 => (Size.ofCode (mSZ w).toNat).map fun sz => .lds (mL w) sz (mD w) (mA w) (mOff w)
  | 36 => (Size.ofCode (mSZ w).toNat).map fun sz => .stg ((mL w).getLsbD 0) sz (mD w) (mA w) (mOff w)
  | 37 => (SubStore.ofCode (mSZ w).toNat).map fun sz => .stgb ((mL w).getLsbD 0) sz (mD w) (mA w) (mOff w)
  | 38 => (Size.ofCode (mSZ w).toNat).map fun sz => .sts sz (mD w) (mA w) (mOff w)
  | 39 => (Size.ofCode (mSZ w).toNat).map fun sz => .ldk (mL w) sz (mD w) (mA w) (mOff w)
  | 40 => readOwn w
  | 41 => readFence w
  | 44 => readHrd w
  | 45 => readWait w
  | 46 => (AtomOp.ofCode (tFN w).toNat).bind fun op => (AtomWidth.ofCode (aW w).toNat).map fun wd => .atom op (aL w) wd (aD w) (tB w)
  | 47 => (AtomOp.ofCode (tFN w).toNat).bind fun op => (AtomWidth.ofCode (aW w).toNat).map fun wd => .red op wd (aD w) (tB w)
  | 48 => (Size.ofCode (mSZ w).toNat).map fun sz => .rst (mL w) sz (mD w) (mA w) (mOff w)
  | 49 => (RatomOp.ofCode (cFN w).toNat).map fun op => .ratom op (cL w) (cCH w) (aD w) (tB w)
  | 50 => readRmote w
  | 51 => readChan w
  | 54 => readCopy w
  | 55 => readObuf w
  | 56 => readMma w
  | 57 => readRagg w
  | 58 => readWalker w
  | 59 => readRelay w
  | _ => none

/-- Why a word is not an instruction (R36); truncated: fewer than four bytes are there. -/
inductive Reject where
  | truncated | reservedMajor | reservedValue | mustBeZero | misalignedOperand | reservedPairing
  deriving DecidableEq, Repr

/-- R36: the decoder. A word is the instruction i when its fields name i, i writes back as that word (so every field i does not use is
zero), and i is well formed. -/
def decodeWord (w : W32) : Except Reject Instr :=
  if reservedMajors.contains (majOf w).toNat then .error .reservedMajor
  else match readWord w with
    | none => .error .reservedValue
    | some i =>
      if !((operands i).all Operand.aligned) then .error .misalignedOperand
      else if encode i ≠ some w then .error .mustBeZero
      else if !i.fieldsOk then .error .reservedPairing
      else .ok i

/-- Four bytes, lowest address first, as a little-endian word (R2, R24). -/
def wordOfBytes (b0 b1 b2 b3 : Byte) : W32 := b3 ++ b2 ++ b1 ++ b0

/-- The bytes of a word, lowest address first (R2, R24). -/
def bytesOfWord (w : W32) : List Byte := [w.extractLsb' 0 8, w.extractLsb' 8 8, w.extractLsb' 16 8, w.extractLsb' 24 8]

/-- Decoding bytes: the instruction at their front and the rest, or the reason there is none. -/
def decode : List Byte → Except Reject (Instr × List Byte)
  | b0 :: b1 :: b2 :: b3 :: rest => (decodeWord (wordOfBytes b0 b1 b2 b3)).map fun i => (i, rest)
  | _ => .error .truncated

/-- The decoder on a word numbered as the opcode table numbers bits: the word laid out in memory order and decoded. -/
def decodeTableWord (_nbits w : Nat) : Option Instr :=
  match decode (bytesOfWord (BitVec.ofNat 32 w)) with
  | .ok (i, _) => some i
  | .error _ => none

end Sys2Proof
end

