-- ==== Sys2Proof/Machine/Walker.lean ====
section
/-! DEFINITION. The tile walker (R180 to R186): the WALKER words, what a home die's walker unit does with them, and the answer a thread awaits. -/

namespace Sys2Proof.Machine

/-! ## The object (R180, R182) -/

/-- A walker object's fields that software writes, and its state. -/
structure WalkObj where
  dims : List Nat
  red : Nat
  width : Nat
  parts : Nat
  hints : Nat
  state : Nat
  result : Nat
  handed : Nat
  late : Nat
  deriving DecidableEq, Repr

/-- The fields in 128 bytes. -/
def walkObj (bs : List Byte) : WalkObj :=
  { dims := (List.range 4).map fun i => fld bs (4 * i) 4, red := fld bs 0x10 1, width := fld bs 0x11 1, parts := fld bs 0x12 2, hints := fld bs 0x14 4,
    state := fld bs 0x18 1, result := fld bs 0x60 8, handed := fld bs 0x68 4, late := fld bs 0x6C 4 }

/-- How many tiles the object names. -/
def WalkObj.tiles (o : WalkObj) : Nat := o.dims.foldl (· * ·) 1

/-- The rules of R183 for a new walk. -/
def WalkObj.ok (o : WalkObj) : Bool :=
  o.dims.all (1 ≤ ·) && o.tiles ≤ 0xFFFFFFFE && o.red ≤ 10 && o.width ≤ 1 && !(9 ≤ o.red && o.width = 1) && 1 ≤ o.parts && o.hints ≤ 4

/-- The identity of a reduction, zero-extended for 32 bits (R182, R183). -/
def walkIdentity (red width : Nat) : Nat :=
  let bits := if width = 1 then 64 else 32
  match red with
  | 2 | 7 => 2 ^ bits - 1
  | 5 => 2 ^ (bits - 1) - 1
  | 6 => 2 ^ (bits - 1)
  | 9 | 10 => 0x7FC00000
  | _ => 0

/-- A contribution combined into the result (R182). -/
def walkCombine (red width x y : Nat) : Nat :=
  let bits := if width = 1 then 64 else 32
  let a := x % 2 ^ bits
  let b := y % 2 ^ bits
  match red with
  | 1 => (a + b) % 2 ^ bits
  | 2 => a &&& b
  | 3 => a ||| b
  | 4 => a ^^^ b
  | 5 => if slt bits b a then b else a
  | 6 => if slt bits a b then b else a
  | 7 => min a b
  | 8 => max a b
  | 9 => fp32.min a b
  | _ => fp32.max a b

/-! ## The unit at the home die -/

/-- What the unit answers: a value, a cause, or that its table is full. -/
inductive WalkAnswer where
  | value (v : Nat)
  | cause (c : Cause)
  | full
  deriving DecidableEq, Repr

/-- The unit's record of an active walk. -/
def State.walk? (s : State) (key : Nat) : Option Walk := s.walks.find? fun w => w.place = key

/-- The k-th number that a rising list leaves out. -/
def nthMissing (given : List Nat) (k : Nat) : Nat := given.foldl (fun c g => if g ≤ c then c + 1 else c) k

/-- A number put in its place in a rising list. -/
def insertNat (x : Nat) : List Nat → List Nat
  | [] => [x]
  | y :: ys => if x ≤ y then x :: y :: ys else y :: insertNat x ys

/-- LATE goes up by one. -/
def State.walkLate (s : State) (key : Nat) (o : WalkObj) : State := s.homeWrite (key + 0x6C) (leBytes (o.late + 1) 4)

/-- WALK at the unit (R183). -/
def State.walkStart (s : State) (die key : Nat) (o : WalkObj) : WalkAnswer × State :=
  if o.state = 1 then (.cause .permission, s)
  else if !o.ok then (.cause .walkReduction, s)
  else if 64 ≤ (s.walks.filter fun w => w.die = die).length then (.full, s)
  else
    let s1 := (s.homeWrite (key + 0x18) (leBytes 1 1)).homeWrite (key + 0x60) (leBytes (walkIdentity o.red o.width) 8 ++ leBytes 0 8)
    (.value 0, { s1 with walks := s1.walks.filter (fun w => w.place ≠ key) ++ [{ place := key, die := die, given := [], ends := 0, hurdles := [] }] })

/-- WNEXT at the unit (R184): a tile no WNEXT has returned; which one is a free draw (log 10). -/
def State.walkNext (s : State) (key : Nat) (o : WalkObj) : WalkAnswer × State :=
  if o.state = 2 then (.value 0xFFFFFFFF, s)
  else match s.walk? key with
    | none => (.cause .permission, s)
    | some w =>
      if o.state ≠ 1 then (.cause .permission, s)
      else if o.tiles ≤ w.given.length then (.value 0xFFFFFFFF, s)
      else
        let (n, s1) := s.choose
        let tile := nthMissing w.given (n % (o.tiles - w.given.length))
        let s2 := s1.homeWrite (key + 0x68) (leBytes (w.given.length + 1) 4)
        (.value tile, { s2 with walks := updWhere (fun x => x.place = key) (fun x => { x with given := insertNat tile x.given }) s2.walks })

/-- WRED at the unit (R185). With WIDTH 1 the word reads register B + 1 too, and what that meets has the lowest code (R90). -/
def State.walkRed (s : State) (key : Nat) (o : WalkObj) (v : W64) (odd : Bool) (second : Nat) : WalkAnswer × State :=
  if o.width = 1 && second = 3 then (.cause .registerRange, s)
  else if o.width = 1 && second = 4 then (.cause .lookaheadViolation, s)
  else if o.state = 0 then (.cause .permission, s)
  else if o.red = 0 || (o.width = 1 && odd) then (.cause .walkReduction, s)
  else if o.state = 2 then (.value 0, s.walkLate key o)
  else if (s.walk? key).isNone then (.cause .permission, s)
  else (.value 0, s.homeWrite (key + 0x60) (leBytes (walkCombine o.red o.width o.result v.toNat) 8))

/-- WEND at the unit (R186); the hurdle is one of the issuing team's, and of a team killed meanwhile none is recorded. -/
def State.walkEnd (s : State) (die key : Nat) (o : WalkObj) (r : TRef) (hurdle : Nat) : WalkAnswer × State :=
  if o.state = 0 then (.cause .permission, s)
  else if o.state = 2 then (.value 0, s.walkLate key o)
  else match s.walk? key with
    | none => (.cause .permission, s)
    | some w =>
      if 4096 ≤ ((s.walks.filter fun x => x.die = die).map fun x => x.hurdles.length).sum then (.full, s)
      else
        let dead := (s.team? r.grid r.team).all fun t => t.killed.isSome
        let hs := if dead then w.hurdles else w.hurdles ++ [(r.grid, r.team, hurdle)]
        if w.ends + 1 < o.parts then
          (.value 0, { s with walks := updWhere (fun x => x.place = key) (fun x => { x with ends := x.ends + 1, hurdles := hs }) s.walks })
        else
          let s1 := hs.foldl (fun s h => s.arrive h.1 h.2.1 h.2.2 1 [.package] [] 0) s
          (.value 0, { s1.homeWrite (key + 0x18) (leBytes 2 1) with walks := s1.walks.filter fun x => x.place ≠ key })

/-- A word performed by the unit of the object's home die. -/
def State.performWalk (s : State) (die key : Nat) (r : TRef) (w : WalkReq) : WalkAnswer × State :=
  let o := walkObj (s.homeRead key 128)
  let s1 := s.noteRead key 128
  match w with
  | .walk => s1.walkStart die key o
  | .next => s1.walkNext key o
  | .red v odd second => s1.walkRed key o v odd second
  | .fin h => s1.walkEnd die key o r h

/-- The answer as a packet carries it. -/
def WalkAnswer.body (a : WalkAnswer) : Body :=
  match a with
  | .value v => .value (BitVec.ofNat 64 v) []
  | .cause c => .number c.code
  | .full => .number 0

/-- The word at a thread's PC. -/
def State.wordAt (s : State) (r : TRef) : Option Instr :=
  (s.ctx? r).bind fun c => (c.code.fetch c.t.pc).bind fun w => match decodeWord w with
    | .ok i => some i
    | .error _ => none

/-- A cause the unit found, as the thread takes it: of the second register of the pair, else of the object. -/
def walkFail (f : Cause) (va wbase : Nat) (d : Reg) : Fail := f.at_ (if f = .registerRange || f = .lookaheadViolation then physAt wbase d + 1 else va)

/-- The answer reaches the thread that awaits it: its word's checks pass, with the tile in D, or fail; where the table was full the word is looked at again. -/
def State.walkAnswered (s : State) (op : Nat) (b : Body) : State :=
  match s.atoms.find? fun a => a.op = op with
  | none => s
  | some a =>
    let s1 := { s with atoms := s.atoms.filter fun x => x.op ≠ op }
    let stop (f : Cause) : State :=
      s1.modThread a.thread fun t => if t.status = .stopped .home then { t with status := .stopped (.fail (walkFail f a.va a.wbase a.d)) } else t
    match b with
    | .value v _ => s1.modThread a.thread fun t =>
        if t.status = .stopped .home then { (if a.returns then t.wr a.d (v.extractLsb' 0 32) else t) with status := .stopped .pass } else t
    | .number 3 => stop .registerRange
    | .number 4 => stop .lookaheadViolation
    | .number 7 => stop .permission
    | .number 0x14 => stop .walkReduction
    | _ => match s.wordAt a.thread with
      | some i => s1.modThread a.thread fun t => if t.status = .stopped .home then { t with status := .stopped (.again i 0 none) } else t
      | none => s1

/-! ## The words (R181) -/

/-- The checks of an object's address. -/
def State.walkChecks (s : State) (c : Ctx) (a : W64) : List Fail × Place :=
  let va := a.toNat
  let bad := Cause.permission.at_ va
  let shape := addrFails a 128 ++ when (inAperture va || isFabric va) bad
  if shape.isEmpty then
    match s.translate c.core c.asid c.system va .write with
    | .error f => ([f], ⟨0, 0, false, false⟩)
    | .ok p => (when p.host bad, p)
  else (shape, ⟨0, 0, false, false⟩)

/-- The cause that reading register B + 1 meets (R28, R33): an even B alone names a pair; field 0 reads zeros. -/
def Ctx.second (c : Ctx) (b : Reg) : Nat :=
  let p := physAt c.t.wbase b + 1
  if b = 0 || b.toNat % 2 = 1 then 0
  else if c.t.regs.length ≤ p then 3
  else if c.t.windows.any fun w => w.regs.contains p then 4
  else 0

/-- The word takes a cause whatever its home finds. -/
def Ctx.owes (c : Ctx) (i : Instr) : Bool :=
  !(c.shared i ++ c.fallThrough).isEmpty || match c.t.status with
    | .stopped (.again _ _ due) => due.isSome
    | _ => false

/-- What the unit of the object's home would find, for a word that takes a cause anyway: the lowest code of both counts (R90). -/
def State.homeFinds (s : State) (c : Ctx) (p : Place) (va : Nat) (d : Reg) (w : WalkReq) : List Fail :=
  match (s.performWalk p.home p.key c.t.ref w).1 with
  | .cause f => [walkFail f va c.t.wbase d]
  | _ => []

/-- A WALKER word in one thread: its request goes to the home die on ch0 and the thread awaits the answer. d: the register of the answer, or the one read. -/
def walkerWord (i : Instr) (a : Reg) (returns : Bool) (d : Reg) (more : Ctx → List Fail) (w : Ctx → WalkReq) (c : Ctx) (_mark op : Nat) (s : State) : Lane :=
  let addr := c.t.rd64 a
  let (fs, p) := s.walkChecks c addr
  Lane.check (fs ++ more c ++ s.brokenFails c 0 ++ (if fs.isEmpty && c.owes i then s.homeFinds c p addr.toNat d (w c) else [])) <|
    if s.loadsHeld c.t.ref || !s.chanTakes (c.chan 0) (s.here p.home) op then .hold 0 (!s.roomFor (c.chan 0) (s.here p.home))
    else
      let s1 := (s.settleLoads c.t.ref).writeBack fun e => e.core = c.core && decide (p.key ≤ e.place ∧ e.place < p.key + 128)
      let s2 := s1.request c op op 0 p addr.toNat (.walk (w c)) returns d (some 0) true
      .done (s2.sendOp (c.chan 0) c.die c.asid op true [⟨s2.here p.home, .areq, .walk p.key addr.toNat (w c)⟩]) (.stopped .home)

/-- WALK: the checks of R183 are made at the home. -/
def execWalk (a : Reg) (s : State) : Host.Outcome State Fault Refusal := s.long (.walk a) (walkerWord (.walk a) a false 0 (fun _ => []) (fun _ => .walk))

/-- WNEXT. -/
def execWnext (d a : Reg) (s : State) : Host.Outcome State Fault Refusal := s.long (.wnext d a) (walkerWord (.wnext d a) a true d (fun _ => []) (fun _ => .next))

/-- WRED in one thread: with WIDTH 1 the value is the pair B, B + 1. -/
def wredWord (a b : Reg) : Ctx → Nat → Nat → State → Lane :=
  walkerWord (.wred a b) a false b (fun _ => []) fun c => .red (c.t.rd64 b) (b.toNat % 2 = 1) (c.second b)

/-- WRED. -/
def execWred (a b : Reg) (s : State) : Host.Outcome State Fault Refusal := s.long (.wred a b) (wredWord a b)

/-- WEND's checks of its hurdle offset. -/
def wendChecks (b : Reg) (c : Ctx) : List Fail :=
  when ((c.t.rd b).toNat % 16 ≠ 0 || c.scratchSize < (c.t.rd b).toNat + 16) (Cause.permission.at_ (c.t.rd b).toNat)

/-- WEND: the hurdle is 16-aligned and inside the team's scratch. -/
def execWend (a b : Reg) (s : State) : Host.Outcome State Fault Refusal :=
  s.long (.wend a b) (walkerWord (.wend a b) a false 0 (wendChecks b) fun c => .fin (c.t.rd b).toNat)

end Sys2Proof.Machine
end

