-- ==== Sys2Proof/Machine/Channels.lean ====
section
/-! DEFINITION. Packets at their destination and what comes back (R256 to R265, R269 to R276), links, RMA completion (R273), reduction slots (R267). -/

namespace Sys2Proof.Machine

/-! ## Answers and refusals (R262, R274) -/

/-- A packet goes back to where another came from. -/
def State.answerTo (s : State) (p : Packet) (kind : PKind) (seq : BitVec 32) (body : Body) : State :=
  s.launchPacket { src := p.src, srcAt := p.dst, dst := p.srcAt, asid := p.asid, kind := kind, seq := seq, epoch := p.epoch, op := p.op, part := p.part,
                   body := body }

/-- The fabric address of a region's byte (R258). -/
def fabricAddr (d : DieId) (region off : Nat) : Nat := 0xFE * 2 ^ 48 + d.dev * 2 ^ 38 + d.die * 2 ^ 36 + region * 2 ^ 32 + off

/-- The address a target was named by. -/
def targetAddr (d : DieId) : Target → Nat
  | .place _ va => va
  | .region r off | .accepted r off _ _ => fabricAddr d r off

/-- The address a packet goes to. -/
def packetAddr (p : Packet) : Nat :=
  match p.body with
  | .write t _ | .atom t _ | .get t _ => targetAddr p.dst t
  | _ => 0

/-- The code of a packet kind, in the order of the table of R262 (log 32). -/
def kindCode : PKind → Nat
  | .data => 0
  | .areq => 1
  | .arsp => 2
  | .ack => 3
  | .nack => 4
  | .viol => 5
  | .syncReq => 6
  | .syncAck => 7
  | .close => 8

/-- The channel number of a source; an RMA queue has one channel. -/
def chanNumber : ChanKey → Nat
  | .team _ _ ch => ch
  | .rma _ => 0

/-- A channel that system software owns (R29). -/
def privilegedChan : ChanKey → Bool
  | .team _ _ ch => 14 ≤ ch
  | .rma _ => false

/-- A record in the device's violation queue (R275). -/
def State.violRecord (s : State) (p : Packet) (check : Nat) : State :=
  if 1024 ≤ s.violQ.length then ({ s with violLost := s.violLost + 1 } : State).raise 3 7 []
  else { s with violQ := s.violQ ++ [leBytes p.srcAt.dev 2 ++ leBytes p.srcAt.die 1 ++ leBytes (chanNumber p.src) 1 ++ leBytes p.asid 2 ++ leBytes check 1
    ++ leBytes (kindCode p.kind) 1 ++ leBytes (packetAddr p) 8 ++ leBytes p.seq.toNat 4 ++ leBytes 0 12] }

/-- A packet refused at its target: VIOL, the event, and for ch14 and ch15 a record (R274). What the issuer's core kept of a refused store leaves. -/
def State.refuse (s : State) (p : Packet) (check : Nat) : State :=
  let s1 := (s.answerTo p .viol p.seq (.number check)).raise 3 4 []
  let s2 := if privilegedChan p.src then s1.violRecord p check else s1
  if p.srcAt.dev = s.boot.device then { s2 with wtb := s2.wtb.filter fun w => !(w.op = p.op && w.chan.isSome) } else s2

/-! ## Checks at the target (R224, R269, R270) -/

/-- The region of a die and context. -/
def State.region? (s : State) (asid die n : Nat) : Option Region := s.regions.find? fun r => r.asid = asid && r.die = die && r.number = n

/-- The right an access needs (check 3). -/
def Region.grants (r : Region) : Right → Bool
  | .read => r.read
  | .write => r.write
  | .atomic => r.atomic
  | .claim _ => false

/-- Check 5 of R270 on bytes of an aperture window, by R110 and, for a write or an atomic on a hurdle, by R224: their place. An arrival also reaches a held hurdle
of an evicted team (R204). -/
def State.regionAperture (s : State) (asid va n : Nat) (right : Right) (q : Option AtomReq) : Option Nat :=
  match s.aperturePlace asid va n with
  | .error _ => q.bind fun a => (s.heldArrival asid va a).map (·.key)
  | .ok p =>
    let bad := match right, q with
      | .read, _ => false
      | _, some a => s.atomRefused p.key a
      | _, none => s.placeTagged p.key n
    if bad then none else some p.key

/-- Checks 4 to 6 of R270 on the bytes of a region, each on all the bytes before the next: their places, or the number of the check that fails. -/
def State.regionPlaces (s : State) (r : Region) (va n : Nat) (right : Right) (q : Option AtomReq) : Except Nat (List (Nat × Nat)) :=
  let chunks := pageChunks va n
  let valid := va + n ≤ 2 ^ 64 && validAddr (BitVec.ofNat 64 va) && validAddr (BitVec.ofNat 64 (va + n - 1))
  let found (x : Nat × Nat) : Option (Nat × Nat) := match s.resolve chipUnit r.asid r.system x.1 x.2 right with
    | .ok p => some (p.key, x.2)
    | .error _ => none
  let place (x : Nat × Nat) : Option (Nat × Nat) :=
    if inAperture x.1 then (s.regionAperture r.asid x.1 x.2 right q).map fun k => (k, x.2) else found x
  if !valid || chunks.any (fun x => !inAperture x.1 && (found x).isNone) then .error 4
  else if chunks.any (fun x => (place x).isNone) then .error 5
  else if chunks.any (fun x => s.ownedByAny r.asid x.1 x.2 || s.lockHit r.die (.global r.asid) x.1 x.2 false) then .error 6
  else .ok (chunks.filterMap place)

/-- R270 on an access from another device, as its packet reaches the die. -/
def State.remoteCheck (s : State) (p : Packet) (region off n : Nat) (right : Right) (q : Option AtomReq) : Except Nat (List (Nat × Nat)) :=
  match s.region? p.asid p.dst.die region with
  | none => .error 1
  | some r =>
    if !(r.active && r.devmask.getLsbD (p.srcAt.dev % 64)) then .error 1
    else if r.len < off + n then .error 2
    else if !r.grants right then .error 3
    else s.regionPlaces r (r.base + off) n right q

/-- The places an access goes to, or the check that refuses it: R270 for a region, R224 for a place of this package. What a die has accepted is performed,
whatever its region has become (R271). -/
def State.targetPlaces (s : State) (p : Packet) (t : Target) (n : Nat) (right : Right) (q : Option AtomReq) : Except Nat (List (Nat × Nat)) :=
  match t with
  | .region r off => s.remoteCheck p r off n right q
  | .accepted _ _ ps _ => .ok ps
  | .place key _ =>
    let bad := match right, q with
      | .read, _ => false
      | _, some a => s.atomRefused key a
      | _, none => s.placeTagged key n
    if bad then .error 5 else .ok [(key, n)]

/-- What a packet's access comes to. -/
def State.packetCheck (s : State) (p : Packet) : Except Nat (List (Nat × Nat)) :=
  match p.body with
  | .write t bs => s.targetPlaces p t bs.length .write none
  | .atom t q => s.targetPlaces p t q.width.bytes .atomic (some q)
  | .get t n => s.targetPlaces p t n .read none
  | _ => .ok []

/-! ## Performing a packet (R256, R261) -/

/-- Bytes read at a list of places. -/
def State.readChunks (s : State) (ps : List (Nat × Nat)) : List Byte := ps.flatMap fun x => s.homeRead x.1 x.2

/-- The store of this device that a packet of an operation carries. -/
def State.storeOf (s : State) (op : Nat) : Option WriteThrough := s.wtb.find? fun w => w.op = op && w.chan.isSome

/-- Of the bytes from a place on, those of the store that its team owns: they do not travel with it (R122). -/
def WriteThrough.skipFrom (w : WriteThrough) (key : Nat) : List Nat := (w.skip.filter fun i => key ≤ w.place + i).map fun i => w.place + i - key

/-- Bytes of a store of this device have reached their home at a place, which acknowledges them (log 12): its first bytes, or its last. -/
def State.shrinkStore (s0 : State) (op key : Nat) (bs : List Byte) : State :=
  let mine (w : WriteThrough) : Bool := w.op = op && w.chan.isSome
  let s := match s0.storeOf op with
    | some w => s0.showLanded w.core key bs (w.skipFrom key)
    | none => s0
  let rest (w : WriteThrough) : WriteThrough :=
    if w.place = key then { w with place := key + bs.length, bytes := w.bytes.drop bs.length, skip := w.skipFrom (key + bs.length) }
    else { w with bytes := w.bytes.take (key - w.place), skip := w.skip.filter (· < key - w.place) }
  { s with wtb := (updWhere mine rest s.wtb).filter fun w => !w.bytes.isEmpty }

/-- A request of this device's threads performed at its unit; a returning one answers with ARSP. -/
def State.performOwn (s : State) (p : Packet) (a : AtomOpRec) : State :=
  let s1 := s.performReq a
  match (s1.atoms.find? fun b => b.op = a.op).bind (·.answer) with
  | some v =>
    ({ s1 with atoms := updWhere (fun b => b.op = a.op) (fun b => { b with answer := none }) s1.atoms } : State).answerTo p .arsp p.seq (.value v [])
  | none => s1

/-- The request of a thread that a packet of this device carries. -/
def State.ownRequest (s : State) (p : Packet) : Option AtomOpRec :=
  if p.srcAt.dev = s.boot.device then s.atoms.find? fun a => a.op = p.op && !a.performed else none

/-- The checks have found an atomic of another device to be an arrival (R224). -/
def targetArrival : Target → Bool
  | .accepted _ _ _ a => a
  | _ => false

/-- A packet's access performed at the places it goes to. -/
def State.performAt (s : State) (p : Packet) (ps : List (Nat × Nat)) : State :=
  match p.body with
  | .write _ bs =>
    match ps, (if p.srcAt.dev = s.boot.device then s.storeOf p.op else none) with
    | (key, _) :: _, some w => (s.landStore key bs (w.skipFrom key)).shrinkStore p.op key bs
    | _, _ => s.writeChunks ps bs
  | .atom t q =>
    match s.ownRequest p with
    | some a => s.performOwn p a
    | none =>
      let (old, s1) := s.performAtom ((ps.head?.map (·.1)).getD 0) q [.package] [p.src] (targetArrival t)
      s1.answerTo p .arsp p.seq (.value old [])
  | .get _ n =>
    let bs := s.readChunks ps
    let s1 := ps.foldl (fun s x => s.noteRead x.1 x.2) s
    s1.answerTo p .arsp p.seq (.value 0 (bs.take n))
  | .row r => { s with rowsIn := s.rowsIn ++ [r] }
  | .ret r => { s with returnsIn := s.returnsIn ++ [r] }
  | .notice r => { s with noticesIn := s.noticesIn ++ [r] }
  | .contrib c => { s with contribs := s.contribs ++ [(0, c)] }
  | .walk key _ w =>
    match s.ownRequest p with
    | some a =>
      let (ans, s1) := s.performWalk p.dst.die key a.thread w
      ({ s1 with atoms := updWhere (fun b => b.op = a.op) (fun b => { b with performed := true }) s1.atoms } : State).answerTo p .arsp p.seq ans.body
    | none => s
  | .number _ =>
    match s.ownRequest p with
    | some a => s.performOwn p a
    | none => s
  | .value _ _ | .piece _ | .empty => s

/-- Rows and returns that earlier packets brought are settled before a later packet is performed (R256). -/
def State.settleRelays (s : State) : State :=
  let s1 := s.rowsIn.foldl (fun s r => s.settleArrival r) { s with rowsIn := [] }
  s1.returnsIn.foldl (fun s x => s.settleReturn x) { s1 with returnsIn := [] }

/-- A packet whose turn has come. -/
def State.performPacket (s0 : State) (p : Packet) : State :=
  let s := s0.settleRelays
  match s.packetCheck p with
  | .error k => s.refuse p k
  | .ok ps => s.performAt p ps

/-- The body of a packet whose access to a region has been accepted at the places found. -/
def State.acceptBody (s : State) (ps : List (Nat × Nat)) : Body → Body
  | .write (.region r off) bs => .write (.accepted r off ps false) bs
  | .atom (.region r off) q => .atom (.accepted r off ps (s.isArrival ((ps.head?.map (·.1)).getD 0) (.atom q))) q
  | .get (.region r off) n => .get (.accepted r off ps false) n
  | b => b

/-- A packet has just reached its die: one from another device is checked (R270) and accepted, or refused and without effect later. -/
def State.reach (s : State) (p : Packet) : Packet × State :=
  if p.srcAt.dev = s.boot.device then (p, s)
  else match s.packetCheck p with
    | .error k => ({ p with body := .empty }, s.refuse p k)
    | .ok ps => ({ p with body := s.acceptBody ps p.body }, s)

/-! ## The destination's entry (R261, R264) -/

/-- An entry of the die for a source; one that has seen nothing expects 1 in the epoch of the packet. -/
def State.dstEntry (s : State) (p : Packet) : DstEntry :=
  (s.dstEntries.find? fun x => x.key = p.src && x.srcDev = p.srcAt.dev && x.die = p.dst.die).getD
    { key := p.src, srcDev := p.srcAt.dev, die := p.dst.die, epoch := p.epoch, expected := 1, held := [], ports := [], owesAck := false }

/-- An entry put in place. -/
def State.putDst (s : State) (x : DstEntry) : State :=
  { s with dstEntries := s.dstEntries.filter (fun y => !(y.key = x.key && y.srcDev = x.srcDev && y.die = x.die)) ++ [x] }

/-- The cumulative ACK of an entry: the highest number performed (R262). -/
def State.sendAck (s : State) (x : DstEntry) : State :=
  let s1 := s.putDst { x with owesAck := false }
  if x.srcDev = s.boot.device then
    s1.launchPacket { src := x.key, srcAt := s.here x.die, dst := s.here (s.chanHome x.key), asid := 0, kind := .ack, seq := x.expected - 1, epoch := x.epoch,
                      op := 0, part := 0, body := .empty }
  else s1

/-- The packet that is next in sequence at an entry, when it has come. -/
def DstEntry.front (x : DstEntry) : Option Packet := x.held.find? fun p => p.seq = x.expected

/-- An entry by its channel, source device and die. -/
def State.dstAt (s : State) (x : DstEntry) : DstEntry :=
  (s.dstEntries.find? fun y => y.key = x.key && y.srcDev = x.srcDev && y.die = x.die).getD x

/-- The request of a batch that a packet of this device carries (R215, R221). -/
def State.batchRequest (s : State) (p : Packet) : Option AtomOpRec :=
  (s.ownRequest p).filter fun a => match a.req with
    | .atom _ | .link _ _ => true
    | _ => false

/-- The requests of a batch that go to one die and are not performed, in ascending lane order. -/
def State.batchParts (s : State) (a : AtomOpRec) : List AtomOpRec :=
  byLane (s.atoms.filter fun b => b.batch = a.batch && b.dst = a.dst && b.chan.isSome && !b.performed)

/-- The entry at which a request's packet stands, with the packet. -/
def State.standsAt (s : State) (b : AtomOpRec) : Option (DstEntry × Packet) :=
  s.dstEntries.findSome? fun x =>
    if s.here x.die = b.dst && x.srcDev = s.boot.device then (x.held.find? fun p => p.op = b.op).map fun p => (x, p) else none

/-- The packet stands behind nothing but requests of its own batch. -/
def State.nearFront (s : State) (b : AtomOpRec) (x : DstEntry) (p : Packet) : Bool :=
  (List.range (p.seq - x.expected).toNat).all fun k =>
    (x.held.find? fun q => q.seq = x.expected + BitVec.ofNat 32 k).any fun q => (s.batchRequest q).any fun a => a.batch == b.batch

/-- The whole part of the batch that its unit is to receive has come (R221). -/
def State.batchReady (s : State) (a : AtomOpRec) : Bool :=
  !s.batchWaits a.batch && (s.batchParts a).all fun b => b.sent && (s.standsAt b).any fun y => s.nearFront b y.1 y.2

/-- The packet at the front of an entry performed; the entry expects the next. -/
def State.performNext (s : State) (x0 : DstEntry) (p : Packet) : State :=
  let s1 := s.performPacket p
  let x := s1.dstAt x0
  s1.putDst { x with held := x.held.filter fun q => q.seq ≠ p.seq, expected := x.expected + 1, owesAck := true }

/-- The part of a batch performed in ascending lane order, nothing between (R221). -/
def State.performBatch (s : State) (a : AtomOpRec) : State :=
  (s.batchParts a).foldl (fun s b => match s.standsAt b with
    | some (x, p) => s.performNext x p
    | none => s) s

/-- The two halves of a packet that carries a 16-byte store: two events in no order (R226). -/
def storeHalves (p : Packet) : Option (Packet × Packet) :=
  match p.body with
  | .write (.place key va) bs =>
    if bs.length = 16 && key % 16 = 0 then
      some ({ p with body := .write (.place key va) (bs.take 8) }, { p with body := .write (.place (key + 8) (va + 8)) (bs.drop 8) })
    else none
  | .write (.accepted r off [(key, _)] a) bs =>
    if bs.length = 16 && off % 16 = 0 then
      some ({ p with body := .write (.accepted r off [(key, 8)] a) (bs.take 8) },
            { p with body := .write (.accepted r (off + 8) [(key + 8, 8)] a) (bs.drop 8) })
    else none
  | _ => none

/-- One half of a 16-byte store is performed now, the other stays at the front of its entry. -/
def State.performHalf (s : State) (x : DstEntry) (now later : Packet) : State :=
  let s1 := s.performPacket now
  let y := s1.dstAt x
  s1.putDst { y with held := y.held.map fun q => if q.seq = now.seq then later else q }

/-- Entries go on: each packet whose turn has come is performed, a request of a batch with the whole part of its batch. fuel: packets held. -/
def State.goOn (s : State) (xs : List DstEntry) : Nat → State
  | 0 => s
  | fuel + 1 =>
    let able (x : DstEntry) : Option (DstEntry × Packet) :=
      let y := s.dstAt x
      y.front.bind fun p => if (s.batchRequest p).all s.batchReady then some (y, p) else none
    match xs.findSome? able with
    | none => s
    | some (x, p) =>
      match s.batchRequest p, storeHalves p with
      | none, none => (s.performNext x p).goOn xs fuel
      | none, some (low, high) =>
        let (n, s1) := s.choose
        let rest := xs.filter fun y => !(y.key = x.key && y.srcDev = x.srcDev && y.die = x.die)
        if n % 3 = 0 then (s1.performNext x p).goOn xs fuel
        else if n % 3 = 1 then (s1.performHalf x low high).goOn rest fuel
        else (s1.performHalf x high low).goOn rest fuel
      | some a, _ => (s.performBatch a).goOn (xs ++ ((s.batchParts a).filterMap s.standsAt).map (·.1)) fuel

/-- How many packets the device's reorder buffers hold. -/
def State.heldPackets (s : State) : Nat := (s.dstEntries.map fun x => x.held.length).sum

/-- A packet in its turn: it is performed, and what stood behind it. -/
def State.performFrom (s : State) (x : DstEntry) (p : Packet) : State :=
  let s1 := s.putDst { x with held := x.held ++ [p] }
  s1.goOn [x] s1.heldPackets

/-- The ingress ports by which a die's packets come, one for each switch die in service: paths are not architectural, so a draw takes one (R6; log 19). -/
def State.ingress (s : State) (n : Nat) : Nat :=
  if !s.boot.passed (switchEntry 1) then 0 else if !s.boot.passed (switchEntry 0) then 1 else n % 2

/-- Packets held in the reorder buffer of a die's ingress port. -/
def State.heldAt (s : State) (die port : Nat) : Nat :=
  ((s.dstEntries.filter fun x => x.die = die).map fun x =>
    (x.held.filter fun q => x.ports.any fun r => r.1 == q.seq && r.2 == port).length).sum

/-- An early packet held in the buffer of its port. -/
def DstEntry.hold (x : DstEntry) (q : Packet) (port : Nat) : DstEntry :=
  { x with held := x.held ++ [q], ports := x.ports.filter (fun r => x.held.any fun h => h.seq = r.1) ++ [(q.seq, port)], owesAck := true }

/-- R261, R264: what a packet's number and epoch make of it. -/
def State.takePacket (s : State) (p : Packet) : State :=
  let x0 := s.dstEntry p
  let newer := (p.epoch - x0.epoch).toInt
  if newer < 0 then s
  else
    let x := if 0 < newer then { x0 with epoch := p.epoch, expected := 1, held := [], ports := [], owesAck := false } else x0
    let n := (p.seq - x.expected).toInt
    if n < 0 then s.sendAck x
    else if n = 0 then
      let (q, s1) := s.reach p
      s1.performFrom x q
    else if 65535 < n || x.held.any (fun q => q.seq = p.seq) then s.putDst x
    else
      let (draw, s1) := s.choose
      let port := s.ingress draw
      if 1024 ≤ s1.heldAt x.die port then (s1.putDst x).answerTo p .nack p.seq .empty
      else
        let (q, s2) := s1.reach p
        let s3 := s2.putDst (x.hold q port)
        s3.goOn [x] s3.heldPackets

/-! ## Regions under revocation (R269, R271) -/

/-- A held packet that writes to a region. -/
def writesRegion (r : Region) (p : Packet) : Bool :=
  p.asid == r.asid && match p.body with
    | .write (.accepted n _ _ _) _ | .atom (.accepted n _ _ _) _ => n == r.number
    | _ => false

/-- Writes that a die has accepted for a region and not performed. -/
def State.acceptedFor (s : State) (r : Region) : Nat :=
  ((s.dstEntries.filter fun x => x.die = r.die && x.srcDev ≠ s.boot.device).map fun x => (x.held.filter (writesRegion r)).length).sum

/-- ACCEPTED counted again; a REVOKING region with none becomes FREE and raises REVOKE_DONE. -/
def State.settleRegions (s : State) : State :=
  let count (r : Region) : Region := { r with accepted := min 0xFFFF (s.acceptedFor r) }
  let s1 : State := { s with regions := s.regions.map count }
  let done := s1.regions.filter fun r => !r.active && r.accepted = 0
  done.foldl (fun s r => s.raise 3 5 (leBytes r.asid 2 ++ leBytes r.die 1 ++ leBytes r.number 1))
    { s1 with regions := s1.regions.filter fun r => r.active || r.accepted ≠ 0 }

/-! ## Taking packets up -/

/-- What a packet of another device may carry: nothing but an answer, an access to a region, or rows of the relay. -/
def foreignBody : Body → Bool
  | .empty | .value _ _ | .row _ | .ret _ | .notice _ | .piece _ => true
  | .write (.region _ _) _ | .atom (.region _ _) _ | .get (.region _ _) _ => true
  | .number _ => true
  | _ => false

/-- The packet an arrival names, taken out of flight: one of a kind in the list that reaches a die with a path, or one that comes from another device of the partition. -/
def State.takeUp (s : State) (a : Arrival) (kinds : List PKind) : Option (Packet × State) :=
  match a with
  | .inFlight n =>
    match s.net[n]? with
    | some p => if kinds.contains p.kind then some (p, { s with net := s.net.eraseIdx n }) else none
    | none => none
  | .external p =>
    if kinds.contains p.kind && foreignBody p.body && p.dst.dev = s.boot.device && p.dst.die < 4 && p.srcAt.dev ≠ s.boot.device && p.srcAt.dev < s.boot.devices then some (p, s)
    else none

/-- CHANNEL_PACKET_ARRIVE: a DATA or AREQ packet reaches its destination die. -/
def execChannelPacketArrive (a : Arrival) (s : State) : Host.Outcome State Fault Refusal :=
  finish s (match s.takeUp a [.data, .areq] with
    | some (p, s1) => (s1.takePacket p).settleRegions
    | none => s)

/-- ATOMIC_SERVICE (subject: batch, granule): the granule's unit performs the batch's part in ascending lane order (R221). With no part of the batch at a unit
of the issuing die, what the batch has for its channels goes, and requests that waited for a whole batch are performed. -/
def execAtomicService (s : State) : Host.Outcome State Fault Refusal :=
  let mine := s.batchAt (s.subj 0) (s.subj 1)
  finish s (if mine.isEmpty then let s1 := s.sendBatch (s.subj 0); (s1.goOn s1.dstEntries s1.heldPackets).settleRegions
    else if s.batchWaits (s.subj 0) || mine.any s.atomBehind then s
    else mine.foldl State.performReq s)

/-- ACK_SEND: the die acknowledges what it has performed of a channel. -/
def execAckSend (e : EntryId) (s : State) : Host.Outcome State Fault Refusal :=
  let mine := s.dstEntries.filter fun x => x.key = e.src && s.here x.die = e.dst && x.owesAck
  finish s (mine.foldl (fun s x => s.sendAck x) s)

/-! ## RMA entries (R273) -/

/-- An RMA queue's record changed. -/
def State.modRma (s : State) (q : Nat) (f : RmaQueue → RmaQueue) : State := { s with rmas := s.rmas.modify q f }

/-- An RMA queue stops at an entry: bits of RSTATUS with HALTED, FADDR, and the event as HALTED becomes set (R273, R276). -/
def State.haltRma (s : State) (q mask addr : Nat) : State :=
  let s1 := s.modRma q fun x => { x with status := x.status ||| BitVec.ofNat 32 (mask ||| 1), faddr := BitVec.ofNat 64 addr }
  if (s.rmas[q]?).any fun x => x.status.getLsbD 0 then s1 else s1.raise 3 6 (leBytes q 1)

/-- Entries at the front that are acknowledged complete in ring order. fuel: entries in flight. -/
def State.settleRma (s : State) (q : Nat) : Nat → State
  | 0 => s
  | fuel + 1 =>
    match (s.rmas[q]?).bind (·.inFlight.head?) with
    | none => s
    | some e =>
      if s.chanOps.any fun o => o.op = e.op && o.key = .rma q && !o.isOver then s
      else
        let s1 := { s with chanOps := s.chanOps.filter fun o => !(o.op = e.op && o.key = ChanKey.rma q) }
        (s1.modRma q fun x => { x with inFlight := x.inFlight.tail, completed := if e.broken then x.completed else x.completed + 1 }).settleRma q fuel

/-- A channel looked at after a change: its DRAINs, records, held packets, and for an RMA queue its entries. -/
def State.afterChange (s : State) (k : ChanKey) : State :=
  let s1 := s.settleChan k
  match k with
  | .team _ _ _ => s1
  | .rma q => s1.settleRma q (((s1.rmas[q]?).map fun x => x.inFlight.length).getD 0)

/-! ## What the source learns (R262, R263) -/

/-- A sent packet is acknowledged. -/
def State.ackOne (s : State) (p : Packet) : State :=
  let s1 := s.modOp p.src p.op fun o => { o with left := o.left - 1 }
  match p.body with
  | .write _ _ => s1.engineAcked p.op p.part p.dst.die (p.dst.dev = s.boot.device)
  | _ => s1

/-- The packets of an entry up to a number are acknowledged, but for one whose VIOL is on its way: that one acknowledges it. -/
def State.ackUpTo (s : State) (e : SrcEntry) (seq : BitVec 32) (after : EntryState) : State :=
  let viol (p : Packet) : Bool := s.net.any fun v => v.kind = .viol && v.src = p.src && v.srcAt = p.dst && v.seq = p.seq
  let covered (w : Nat × Packet) : Bool := decide (0 ≤ (seq - w.2.seq).toInt) && !viol w.2
  let rest := e.replay.filter fun w => !covered w
  let s1 := s.putEntry { e with replay := rest, state := if rest.isEmpty then (if after = .resync then .resync else .idle) else after,
                                nacked := e.nacked.filter fun x => rest.any fun w => w.2.seq = x.1 }
  (e.replay.filter covered).foldl (fun s w => s.ackOne w.2) s1

/-- The entry an answer concerns, when the answer is of the channel's epoch and the entry is not BROKEN. -/
def State.answered (s : State) (p : Packet) : Option SrcEntry :=
  let e := s.entry p.src p.srcAt
  if p.epoch = (s.chanRec p.src).epoch && e.state ≠ .broken then some e else none

/-- ACK_RECEIVE. -/
def execAckReceive (a : Arrival) (s : State) : Host.Outcome State Fault Refusal :=
  finish s (match s.takeUp a [.ack] with
    | none => s
    | some (p, s1) => match s1.answered p with
      | none => s1
      | some e => (s1.ackUpTo e p.seq e.state).afterChange p.src)

/-- The die cycle of a channel's home. -/
def State.chanClock (s : State) (k : ChanKey) : Nat := s.clockOf (s.chanHome k)

/-- NACK_RECEIVE: the refused packet is to go again in 1024 die cycles. -/
def execNackReceive (a : Arrival) (s : State) : Host.Outcome State Fault Refusal :=
  finish s (match s.takeUp a [.nack] with
    | none => s
    | some (p, s1) => match s1.answered p with
      | none => s1
      | some e =>
        if e.replay.any fun w => w.2.seq = p.seq then
          s1.putEntry { e with nacked := e.nacked.filter (fun x => x.1 ≠ p.seq) ++ [(p.seq, s1.chanClock p.src + 1024)] }
        else s1)

/-- Packets of an entry sent again, from now on counted from this sending (log 33). -/
def State.resend (s : State) (e : SrcEntry) (which : Packet → Bool) : State :=
  let now := s.chanClock e.key
  let s1 := s.putEntry { e with replay := e.replay.map fun w => if which w.2 then (now, w.2) else w }
  (e.replay.filter fun w => which w.2).foldl (fun s w => s.launchPacket w.2) s1

/-- NACK_REPLAY: after 1024 die cycles the refused packet goes again. -/
def execNackReplay (x : EntryId) (seq : BitVec 32) (s : State) : Host.Outcome State Fault Refusal :=
  let e := s.entry x.src x.dst
  finish s (if e.state = .active && e.nacked.any (fun n => n.1 = seq && n.2 ≤ s.chanClock x.src) then
      s.resend { e with nacked := e.nacked.filter fun n => n.1 ≠ seq } fun p => p.seq = seq
    else s)

/-- Bytes of an RMA GET written where they belong in the queue's context. -/
def State.writeRma (s : State) (q : Nat) (va : Nat) (bs : List Byte) : State :=
  match s.rmas[q]? with
  | none => s
  | some x =>
    let ps := (pageChunks va bs.length).foldl (fun acc c => match acc, s.resolve chipUnit (x.asid.getD 0) x.system c.1 c.2 .write with
      | some ps, .ok p => if p.aperture && s.placeTagged p.key c.2 then none else some (ps ++ [(p.key, c.2)])
      | _, _ => none) (some ([] : List (Nat × Nat)))
    match ps with
    | some l => s.writeChunks l bs
    | none => s.haltRma q 2 va

/-- Data of a GET have come: one part less awaited. -/
def State.rmaAnswer (s : State) (q op part : Nat) (bs : List Byte) : State :=
  match (s.rmas[q]?).bind fun x => x.inFlight.find? fun e => e.op = op with
  | none => s
  | some e => (s.writeRma q (e.here + part) bs).modOp (.rma q) op fun o => { o with left := o.left - 1 }

/-- Returned data given to the operation that asked for them. -/
def State.giveAnswer (s : State) (p : Packet) : State :=
  let v : W64 × List Byte := match p.body with
    | .value v bs => (v, bs)
    | _ => (0, [])
  match p.src with
  | .rma q => s.rmaAnswer q p.op p.part v.2
  | .team _ _ _ =>
    match s.atoms.find? fun a => a.op = p.op with
    | none => s.engineReply p.op p.part v.2
    | some a =>
      let s1 := s.modOp p.src p.op fun o => { o with awaits := false }
      match a.req with
      | .walk _ => s1.walkAnswered p.op p.body
      | _ => s1.deliverOld a v.1

/-- ARSP_RECEIVE. Data of a request that was performed come whatever has become of its channel: what a break loses is the unacknowledged (R265). -/
def execArspReceive (a : Arrival) (s : State) : Host.Outcome State Fault Refusal :=
  finish s (match s.takeUp a [.arsp] with
    | none => s
    | some (p, s1) => (s1.giveAnswer p).afterChange p.src)

/-- The operation of a refused packet: its old value reads 0, a copy stops, an RMA queue halts, ch14 and ch15 record the address (R274). -/
def State.refused (s : State) (p : Packet) : State :=
  let addr := packetAddr p
  let s1 := s.modOp p.src p.op fun o => { o with left := o.left - 1, refused := true, awaits := false }
  match p.src with
  | .rma q => (match p.body with
      | .get _ _ => s1.modOp p.src p.op fun o => { o with left := o.left - 1 }
      | _ => s1).haltRma q 2 addr
  | .team _ _ ch =>
    let c := s1.chanRec p.src
    let s2 := if 14 ≤ ch && c.violation.isNone then s1.putChan { c with violation := some addr } else s1
    match s2.atoms.find? fun a => a.op = p.op with
    | none => s2.engineRefused p.op p.part addr
    | some a => if a.returns then s2.deliverOld a 0 else { s2 with atoms := s2.atoms.filter fun b => b.op ≠ a.op }

/-- VIOL_RECEIVE: the refusal acknowledges its packet. -/
def execViolReceive (a : Arrival) (s : State) : Host.Outcome State Fault Refusal :=
  finish s (match s.takeUp a [.viol] with
    | none => s
    | some (p, s1) => match s1.answered p with
      | none => s1
      | some e => match e.replay.find? fun w => w.2.seq = p.seq with
        | none => s1
        | some w =>
          let rest := e.replay.filter fun x => x.2.seq ≠ p.seq
          ((s1.putEntry { e with replay := rest, state := if rest.isEmpty && e.state = .active then .idle else e.state }).refused w.2).afterChange p.src)

/-! ## Resynchronisation (R263) -/

/-- A SYNC-REQ carries the last number acknowledged. -/
def State.sendSync (s : State) (e : SrcEntry) : State :=
  let last := match e.replay.head? with
    | some w => w.2.seq - 1
    | none => e.nextSeq - 1
  s.launchPacket { src := e.key, srcAt := s.here (s.chanHome e.key), dst := e.dst, asid := 0, kind := .syncReq, seq := last, epoch := (s.chanRec e.key).epoch, op := 0,
                   part := 0, body := .empty }

/-- CHANNEL_GAP_TIMEOUT: the oldest unacknowledged packet is older than 65,536 die cycles. -/
def execChannelGapTimeout (x : EntryId) (s : State) : Host.Outcome State Fault Refusal :=
  let e := s.entry x.src x.dst
  let now := s.chanClock x.src
  finish s (if e.state = .active && e.replay.any (fun w => w.1 + 65536 < now) then
      (s.putEntry { e with state := .resync, syncs := 1, since := now }).sendSync e
    else s)

/-- SYNC_REQ_RECEIVE: the destination answers with its next expected number. -/
def execSyncReqReceive (a : Arrival) (s : State) : Host.Outcome State Fault Refusal :=
  finish s (match s.takeUp a [.syncReq] with
    | none => s
    | some (p, s1) =>
      let x0 := s1.dstEntry p
      let newer := (p.epoch - x0.epoch).toInt
      if newer < 0 then s1
      else
        let x := if 0 < newer then { x0 with epoch := p.epoch, expected := 1, held := [], ports := [], owesAck := false } else x0
        ((s1.putDst x).answerTo p .syncAck x.expected .empty).settleRegions)

/-- SYNC_ACK_RECEIVE: packets below e are dropped, the others replayed from e in order. -/
def execSyncAckReceive (a : Arrival) (s : State) : Host.Outcome State Fault Refusal :=
  finish s (match s.takeUp a [.syncAck] with
    | none => s
    | some (p, s1) => match s1.answered p with
      | none => s1
      | some e =>
        if e.state ≠ .resync then s1
        else
          let s2 := s1.ackUpTo { e with syncs := 0, nacked := [] } (p.seq - 1) .active
          (s2.resend (s2.entry p.src p.srcAt) fun _ => true).afterChange p.src)

/-- CLOSE_RECEIVE: the entry is freed, unless it is of a newer epoch already (log 33). -/
def execCloseReceive (a : Arrival) (s : State) : Host.Outcome State Fault Refusal :=
  finish s (match s.takeUp a [.close] with
    | none => s
    | some (p, s1) =>
      if (p.epoch - (s1.dstEntry p).epoch).toInt < 0 then s1
      else ({ s1 with dstEntries := s1.dstEntries.filter fun x => !(x.key = p.src && x.srcDev = p.srcAt.dev && x.die = p.dst.die) } : State).settleRegions)

/-! ## Breaking (R263, R265) -/

/-- A byte of a lost packet holds its old value or the packet's: a free draw (log 10). -/
def State.loseByte (s : State) (key : Nat) (b : Byte) : State :=
  let (n, s1) := s.choose
  if n % 2 = 0 then s1 else s1.landStore key [b]

/-- A packet lost in part or whole. -/
def State.losePacket (s : State) (p : Packet) : State :=
  match p.body with
  | .write (.place key _) bs => (List.range bs.length).foldl (fun s i => s.loseByte (key + i) (bs.getD i 0)) s
  | _ => s

/-- A request whose packet is lost: a returning one completes with a free value, a WALKER word takes CHANNEL_BROKEN, the others leave (log 35). -/
def State.loseRequest (s : State) (op : Nat) : State :=
  match s.atoms.find? fun a => a.op = op && !a.performed with
  | none => s
  | some a =>
    match a.req with
    | .walk _ =>
      ({ s with atoms := s.atoms.filter fun b => b.op ≠ op } : State).modThread a.thread fun t =>
        if t.status = .stopped .home then { t with status := .stopped (.fail (Cause.channelBroken.at_ 0)) } else t
    | _ =>
      if a.returns then
        let v : W64 := BitVec.ofNat 64 (leNat ((List.range 8).map fun i => Config.poison (s.draw + i)))
        ({ s with draw := s.draw + 8 } : State).deliverOld a v
      else { s with atoms := s.atoms.filter fun b => b.op ≠ op }

/-- Every pending DRAIN of a channel arrives with ERR. fuel: DRAINs pending. -/
def State.forceDrains (s : State) (k : ChanKey) : Nat → State
  | 0 => s
  | fuel + 1 =>
    match s.drains.find? fun d => d.key = k with
    | none => s
    | some d => (s.fireDrain d true).forceDrains k fuel

/-- The operation of a packet that a break took. -/
def State.breakOne (s : State) (p : Packet) : State :=
  let s1 := s.modOp p.src p.op fun o => { o with left := o.left - 1, broken := true, awaits := false }
  let s2 := match p.src, p.body with
    | .rma _, .get _ _ => s1.modOp p.src p.op fun o => { o with left := o.left - 1 }
    | _, _ => s1
  let s3 := { s2 with wtb := s2.wtb.filter fun w => !(w.op = p.op && w.chan.isSome) }
  ((s3.loseRequest p.op).engineBroken p.op)

/-- What an RMA queue shows of a break of its path. -/
def State.noteBreak (s : State) (k : ChanKey) (ps : List Packet) : State :=
  match k with
  | .team _ _ _ => s
  | .rma q =>
    let hit (e : RmaEntry) : Bool := ps.any fun p => p.op = e.op
    let s1 := s.modRma q fun x => { x with inFlight := updWhere hit (fun e => { e with broken := true }) x.inFlight }
    s1.haltRma q 4 ((ps.head?.map packetAddr).getD 0)

/-- CHANNEL_BROKEN as a channel enters BROKEN: its team and number; an RMA queue's one channel by its queue number, of no team (R276; log 47). -/
def State.raiseBroken (s : State) (k : ChanKey) : State :=
  match k with
  | .team g i ch => s.raise 3 3 (leBytes g 4 ++ leBytes i 2 ++ leBytes ch 1)
  | .rma q => s.raise 3 3 (leBytes 0xFFFFFFFF 4 ++ leBytes 0xFFFF 2 ++ leBytes q 1)

/-- An engine operation's bytes travel on its channel: it goes to or comes from another die, or some row of it that has not landed does (R255, R265). -/
def State.onChannel (s : State) (e : EngineOp) : Bool :=
  let away (starts : List Side) (r : Right) : Bool := starts.any fun x => match x with
    | .global va => !(s.rowDies e.core e.asid e.system [(va, e.rowBytes)] (dieOfCluster e.cluster) r).isEmpty
    | .fabric _ => true
    | _ => false
  let rows := (List.range (e.rows - e.frow)).map (e.frow + ·)
  e.ord ≠ 0 && match e.kind with
    | .rcpy | .rmc _ _ | .rred _ => true
    | .route _ _ _ _ _ _ _ _ _ _ => false
    | _ => !e.asks.isEmpty || e.pieces.any (fun p => !p.landed) || away (rows.map e.dstRow) .write || away (rows.map e.srcRow) .read
        || rows.any fun r => !(s.asksOf e r 0 e.rowBytes).isEmpty

/-- The copies of a BROKEN channel stop with STATUS 0x15 (R265). -/
def State.stopCopies (s : State) (k : ChanKey) : State :=
  (s.engines.filter fun e => k = .team e.grid e.team e.ch && s.onChannel e).foldl
    (fun s e => s.stopEngine e.op 0x15 (s.sideAddr e (e.dstRow e.frow))) s

/-- Requests of a channel that wait for their batch and would go to a broken entry are lost with it (R221, R265). -/
def State.loseUnsent (s : State) (k : ChanKey) (d : DieId) : State :=
  (s.atoms.filter fun a => !a.sent && a.dst = d && (match a.chan with
    | some ch => k = .team a.thread.grid a.thread.team ch
    | none => false)).foldl (fun s a => s.loseRequest a.op) s

/-- What stands on a destination entry is lost (R265): packets in flight or held in part or whole, their operations end broken, DRAINs arrive with ERR. -/
def State.loseEntry (s : State) (k : ChanKey) (d : DieId) : State :=
  let e := s.entry k d
  let ours (p : Packet) : Bool := p.src == k && ((p.dst == d && (p.kind == .data || p.kind == .areq))
    || (p.srcAt == d && p.kind == .arsp && e.replay.any fun w => w.2.seq == p.seq && w.2.op == p.op))
  let flying := s.net.filter ours
  let held := if d.dev = s.boot.device then
      (s.dstEntries.filter fun x => x.key = k && x.srcDev = s.boot.device && x.die = d.die).flatMap (·.held) else []
  let ps := e.replay.map (·.2) ++ e.waiting.map (·.2)
  let s1 := (s.putEntry { e with state := .broken, replay := [], waiting := [], nacked := [] })
  let s2 := { s1 with
    net := s1.net.filter fun p => !ours p,
    dstEntries := if d.dev = s.boot.device then
        updWhere (fun x => x.key = k && x.srcDev = s.boot.device && x.die = d.die) (fun x => { x with held := [] }) s1.dstEntries else s1.dstEntries }
  let s3 := (flying ++ held).foldl State.losePacket s2
  ((((ps.foldl State.breakOne s3).loseUnsent k d).stopCopies k)).forceDrains k s3.drains.length

/-- A destination entry becomes BROKEN. -/
def State.breakEntry (s : State) (k : ChanKey) (d : DieId) : State :=
  let e := s.entry k d
  if e.state = .broken then s
  else
    let s1 := (s.loseEntry k d).noteBreak k (e.replay.map (·.2) ++ e.waiting.map (·.2))
    (if s.chanBroken k then s1 else s1.raiseBroken k).afterChange k

/-- SYNC_REQ_RETRY: another SYNC-REQ after 65,536 die cycles; after eight without an answer the entry is BROKEN. -/
def execSyncReqRetry (x : EntryId) (s : State) : Host.Outcome State Fault Refusal :=
  let e := s.entry x.src x.dst
  let now := s.chanClock x.src
  finish s (if e.state ≠ .resync || now < e.since + 65536 then s
    else if 8 ≤ e.syncs then s.breakEntry x.src x.dst
    else (s.putEntry { e with syncs := e.syncs + 1, since := now }).sendSync e)

/-- NO_PATH_REPORT: the switches report no path to a die; what was on its way there is lost. -/
def execNoPathReport (d : DieId) (s : State) : Host.Outcome State Fault Refusal :=
  let s1 := { s with unreachable := if s.unreachable.contains d then s.unreachable else s.unreachable ++ [d] }
  let s2 := (s1.srcEntries.filter fun e => e.dst = d).foldl (fun s e => s.breakEntry e.key e.dst) s1
  finish s { s2 with net := s2.net.filter fun p => p.dst ≠ d || p.kind = .arsp || p.kind = .viol }

/-- PATH_RETURN: a die can be reached again. -/
def execPathReturn (d : DieId) (s : State) : Host.Outcome State Fault Refusal := finish s { s with unreachable := s.unreachable.filter (· ≠ d) }

/-! ## Links (R276) -/

/-- LINK_DOWN: a link lost training; the packets it carried, by their places, are lost. ARSP and VIOL are not: no rule recovers one (log 33). -/
def execLinkDown (port : Nat) (lost : List Nat) (s : State) : Host.Outcome State Fault Refusal :=
  let stays (x : Packet × Nat) : Bool := !lost.contains x.2 || x.1.kind == .arsp || x.1.kind == .viol
  finish s (({ s with portsDown := if s.portsDown.contains port then s.portsDown else s.portsDown ++ [port],
                      net := (s.net.zipIdx.filter stays).map (·.1) } : State).raise 3 1 (leBytes port 1))

/-- LINK_DEGRADED (subject: port). -/
def execLinkDegraded (s : State) : Host.Outcome State Fault Refusal :=
  let port := s.subj 0
  finish s (({ s with portsDown := s.portsDown.filter (· ≠ port) } : State).raise 3 2 (leBytes port 1))

/-! ## Reduction slots (R267) -/

/-- Die cycles of a number of microseconds at the clock of the moment (log 36). -/
def State.micros (s : State) (n : Nat) : Nat := n * s.boot.clock

/-- Two elements merged. -/
def rredOp (rop x y : Nat) : Nat :=
  match rop with
  | 0 => (x + y) % 2 ^ 32
  | 1 => (x + y) % 2 ^ 64
  | 2 => if slt 32 y x then y else x
  | 3 => if slt 32 x y then y else x
  | 4 => x &&& y
  | 5 => x ||| y
  | 6 => fp32.add x y
  | 7 => fp32.min x y
  | 8 => fp32.max x y
  | _ => halves bf16.add x y

/-- A contribution merged into a partial, element by element. -/
def rredMerge (rop elems : Nat) (x y : List Byte) : List Byte :=
  let n := rredElem rop
  (List.range elems).flatMap fun i => leBytes (rredOp rop (fld x (i * n) n) (fld y (i * n) n)) n

/-- A contributor of this device hears how its reduction ended without a result: flags and one arrival on its hurdle. -/
def State.rredTell (s : State) (c : Contribution) (flags : Nat) (expired : Bool) (mark : ChanOp → ChanOp) : State :=
  match (if c.dev = s.boot.device then s.engine? c.op else none) with
  | none => s
  | some e =>
    let s1 := if expired then s.writeProgress { e with landed := 0 } 0 0 0x16 else s
    (((s1.modOp (.team e.grid e.team e.ch) e.op mark).retireEngine e).engineEnd e 0 flags).engineChan e

/-- The result written to a contributor's DST from byte lo on, in pieces of its channel. fuel: bytes. -/
def State.rredResult (s : State) (op lo : Nat) (bs : List Byte) : Nat → State
  | 0 => s
  | fuel + 1 =>
    match s.engine? op with
    | none => s
    | some e =>
      if e.stopped.isSome then s
      else match e.pieceAt 0 lo bs.length with
        | none => s
        | some p => ((s.addPiece op p).writeRow op 0 lo (bs.take p.len)).rredResult op (lo + p.len) (bs.drop p.len) fuel

/-- A complete slot: the result goes to every contributor of this device. -/
def State.rredComplete (s : State) (x : RredSlot) : State :=
  x.got.foldl (fun s c => if c.dev = s.boot.device then s.rredResult c.op 0 x.partialSum x.partialSum.length else s) s

/-- A contribution is of a slot's collective. -/
def RredSlot.holds (x : RredSlot) (c : Contribution) : Bool := x.asid == c.asid && x.coll == c.coll && x.gen == c.gen

/-- The team of this device that a contribution comes from. -/
def State.contributor (s : State) (c : Contribution) : List (Nat × Nat) :=
  if c.dev = s.boot.device then ((s.engine? c.op).map fun e => (e.grid, e.team)).toList else []

/-- A contribution taken by an open slot: refused, merged, or the last one; the slot then stands until its result is written (R267). -/
def State.rredJoin (s : State) (x : RredSlot) (c : Contribution) : State :=
  if x.ncon ≠ c.ncon || x.rop ≠ c.rop || x.elems ≠ c.elems || x.got.any (fun g => g.index = c.index) then
    s.rredTell c 2 false fun o => { o with refused := true }
  else
    let whole := x.got.length + 1 = x.ncon
    let x1 := { x with partialSum := if x.got.isEmpty then c.data else rredMerge x.rop x.elems x.partialSum c.data, got := x.got ++ [c],
                       members := x.members ++ s.contributor c, closing := whole }
    let s1 : State := { s with rred := s.rred.filter (fun y => !y.holds c) ++ [x1] }
    if whole then (s1.rredComplete x1).closeSlots else s1

/-- A contribution at its switch die: none where no slot is free. since: the cycle since which it has waited. -/
def State.rredArrive (s : State) (since : Nat) (c : Contribution) : Option State :=
  match s.rred.find? fun x => x.holds c with
  | some x => some (if x.expired then s.rredTell c 4 false (fun o => { o with late := true }) else s.rredJoin x c)
  | none =>
    if 512 ≤ (s.rred.filter fun x => x.switch = s.switchOf c).length then none
    else
      let opened := if since = 0 then s.cycle else since
      let x : RredSlot := { switch := s.switchOf c, asid := c.asid, coll := c.coll, gen := c.gen, ncon := c.ncon, rop := c.rop, elems := c.elems, partialSum := [],
                            got := [], members := [], deadline := opened + s.micros c.timeout, expired := false, closing := false }
      some (({ s with rred := s.rred ++ [x] } : State).rredJoin x c)

/-- A contribution of another device is as R267 allows one. -/
def State.foreignOk (s : State) (c : Contribution) : Bool :=
  c.dev != s.boot.device && c.dev < s.boot.devices && 1 ≤ c.ncon && c.ncon ≤ 4096 && c.index < c.ncon && c.rop ≤ 9 && c.data.length == c.elems * rredElem c.rop
    && 1 ≤ c.elems && c.data.length ≤ 4096 && 1 ≤ c.timeout && c.timeout ≤ 1000000

/-- An earlier contribution of the same channel has not reached a slot yet (R256). -/
def State.contributionBehind (s : State) (n : Nat) (c : Contribution) : Bool :=
  let key (op : Nat) : Option ChanKey := (s.chanOps.find? fun o => o.op = op).map (·.key)
  (s.contribs.take n).any fun x => x.1 == 0 && x.2.dev == s.boot.device && (key x.2.op).isSome && key x.2.op == key c.op

/-- RRED_CONTRIBUTION_ARRIVE: one of this package by its place (subject: n), or one of another device. One that finds no free slot waits. -/
def execRredContributionArrive (ext : Option Contribution) (s : State) : Host.Outcome State Fault Refusal :=
  finish s (match ext with
    | some c => if s.foreignOk c then ((s.rredArrive 0 c).getD { s with contribs := s.contribs ++ [(max 1 s.cycle, c)] }) else s
    | none =>
      let n := s.subj 0
      match s.contribs[n]? with
      | none => s
      | some (since, c) =>
        if s.contributionBehind n c then s
        else match ({ s with contribs := s.contribs.eraseIdx n } : State).rredArrive since c with
        | some s1 => s1
        | none => { s with contribs := s.contribs.set n (if since = 0 then max 1 s.cycle else since, c) })

/-- RRED_SLOT_EXPIRE (subject: slot): at its deadline the partial is discarded and every contributor hears ABANDONED. -/
def execRredSlotExpire (s : State) : Host.Outcome State Fault Refusal :=
  let n := s.subj 0
  finish s (match s.rred[n]? with
    | none => s
    | some x =>
      if x.expired || x.closing || s.cycle < x.deadline then s
      else
        let x1 := { x with expired := true, partialSum := [], got := [], members := [], deadline := s.cycle + s.micros 1000000 }
        x.got.foldl (fun s c => s.rredTell c 4 true id) { s with rred := s.rred.set n x1 })

/-- RRED_EXPIRED_MARK_END (subject: slot): the mark lapses after 1,000,000 µs. -/
def execRredExpiredMarkEnd (s : State) : Host.Outcome State Fault Refusal :=
  let n := s.subj 0
  finish s (match s.rred[n]? with
    | none => s
    | some x => if x.expired && x.deadline ≤ s.cycle then { s with rred := s.rred.eraseIdx n } else s)

end Sys2Proof.Machine
end

