-- ==== Sys2Proof/Machine/Grids.lean ====
section
/-! DEFINITION. Grid descriptors (R49 to R52), what a team needs and where there is room (R69 to R72, R111), acceptance and grid slots (R61, R63). -/

namespace Sys2Proof.Machine

/-! ## Reading and writing objects for the device (R46, R50) -/

/-- A byte range lies in valid addresses (R109). -/
def rangeValid (va n : Nat) : Bool := va + n ≤ 2 ^ 64 && validAddr (BitVec.ofNat 64 va) && validAddr (BitVec.ofNat 64 (va + n - 1))

/-- The places of a range for a right, in the context of a queue or grid; none where a translation or permission fails. -/
def State.objectPlaces (s : State) (asid : Nat) (system : Bool) (va n : Nat) (r : Right) : Option (List (Nat × Nat)) :=
  if n = 0 then some []
  else if !rangeValid va n then none
  else (pageChunks va n).foldl (fun acc x => match acc, s.resolve chipUnit asid system x.1 x.2 r with
    | some ps, .ok p => some (ps ++ [(p.key, x.2)])
    | _, _ => none) (some [])

/-- n bytes of an object. -/
def State.readObject (s : State) (asid : Nat) (system : Bool) (va n : Nat) : Option (List Byte) :=
  (s.objectPlaces asid system va n .read).map s.readChunks

/-- Bytes written for the device; none where they cannot be. -/
def State.writeObject (s : State) (asid : Nat) (system : Bool) (va : Nat) (bs : List Byte) : Option State :=
  (s.objectPlaces asid system va bs.length .write).map fun ps => s.writeChunks ps bs

/-! ## Descriptors (R49) -/

/-- The status codes of R47. -/
inductive Status where
  | ok | format | digest | reserved | range | noSpace | unknownId | privilege | carveConflict | tooLarge | fault | inUse | kickFull | cycle | noSlot
  deriving DecidableEq, Repr

/-- The code of a status. -/
def Status.code : Status → Nat
  | .ok => 0
  | .format => 1
  | .digest => 2
  | .reserved => 3
  | .range => 4
  | .noSpace => 5
  | .unknownId => 6
  | .privilege => 7
  | .carveConflict => 8
  | .tooLarge => 9
  | .fault => 10
  | .inUse => 11
  | .kickFull => 12
  | .cycle => 13
  | .noSlot => 14

/-- The first check that fails. -/
def firstStatus : List (Bool × Status) → Status
  | [] => .ok
  | (bad, st) :: r => if bad then st else firstStatus r

/-- The cores of a 192-bit mask. -/
def maskCores (m : Nat) : List Nat := (List.range 192).filter m.testBit

/-- The descriptor's kept fields. -/
def parseDesc (bs : List Byte) : GridDesc :=
  { code := fld bs 0 2, kernel := fld bs 2 2, teams := fld bs 4 4, spawn := fld bs 8 4, coResident := (fld bs 0xC 1).testBit 0,
    mask := if (fld bs 0xC 1).testBit 1 then some (maskCores (fld bs 0x40 24)) else none, carve := fld bs 0xD 1, attempts := fld bs 0xE 1,
    scopes := (List.range 8).map fun i => if (fld bs 0xF 1).testBit i then some (maskCores (fld bs (0x60 + 24 * i) 24)) else none,
    blockBuf := fld bs 0x18 8, blockCap := fld bs 0x20 4, corr := BitVec.ofNat 64 (fld bs 0x28 8) }

/-- A reserved field of a descriptor is not zero. -/
def descReserved (bs : List Byte) : Bool :=
  !((fld bs 0xC 1) / 4 == 0 && zeroField bs 0x24 4 && zeroField bs 0x30 12 && zeroField bs 0x58 8 && zeroField bs 0x120 32)

/-! ## What a team needs (R69, R71, R72, R111) -/

/-- Cohorts of the threads launched with a team. -/
def Kernel.cohorts (k : Kernel) : Nat := ceilDiv k.teamSize 64

/-- Thread indices a team's slots are made for: launched and spawned, each in full cohorts (R111). -/
def slotThreads (k : Kernel) (d : GridDesc) : Nat := (ceilDiv k.teamSize 64 + ceilDiv d.spawn 64) * 64

/-- Bytes of a team's return-stack slot. -/
def rstackSize (k : Kernel) (d : GridDesc) : Nat := 8192 * slotThreads k d

/-- The effective carve code: the kernel's, the descriptor's, or placement's choice (R50). -/
def effCarve (k : Kernel) (d : GridDesc) : Option Nat := if k.carve ≠ 0xFF then some k.carve else if d.carve ≠ 0xFF then some d.carve else none

/-- The codes a team may use. -/
def usableCodes (k : Kernel) (d : GridDesc) : List Nat :=
  match effCarve k d with
  | some c => [c]
  | none => List.range 6

/-- Cohorts in the partition that has most of them. -/
def Kernel.deepest (k : Kernel) : Nat := ceilDiv k.cohorts 8

/-- How many teams of a kernel an empty core holds under a code (R69). -/
def teamsUnder (k : Kernel) (code : Nat) : Nat :=
  let byScratch := if k.scratch = 0 then 64 else carveScratch code / roundUp k.scratch 128
  min (min 64 (32 / k.deepest)) (min (carveRegs code / 8 / (64 * k.alloc * k.deepest)) byScratch)

/-- The cores a grid's mask allows. -/
def GridDesc.allows (d : GridDesc) (core : Nat) : Bool :=
  match d.mask with
  | none => true
  | some l => l.contains core

/-- Bytes of a team's local slot in its context's window, none without a window. -/
def State.localSize (s : State) (asid : Nat) (k : Kernel) (d : GridDesc) : Option Nat :=
  ((s.context? asid).bind (·.window)).map fun w => w.2.2 * slotThreads k d

/-- How many teams' slots a context's window and the return-stack area hold at once. -/
def State.slotRoom (s : State) (asid : Nat) (k : Kernel) (d : GridDesc) : Nat :=
  match (s.context? asid).bind (·.window), s.rstackArea with
  | some (_, len, stack), some (_, area) =>
    let n := slotThreads k d
    if n = 0 || stack = 0 then 0 else min (len / (stack * n)) (area / rstackSize k d)
  | _, _ => 0

/-- R50, TOO_LARGE: a co-resident grid that could never be resident at once on the cores in service or pending. -/
def State.tooLarge (s : State) (asid : Nat) (k : Kernel) (d : GridDesc) : Bool :=
  let cores := ((List.range 192).filter fun c => d.allows c && (s.boot.coreUp c || s.boot.corePending c)).length
  let best := ((usableCodes k d).map (teamsUnder k)).foldl max 0
  d.coResident && (cores * best < d.teams || s.slotRoom asid k d < d.teams)

/-- The checks of step 2 of R50, in their order. node: the descriptor is a graph node's, whose parameter block address that is not zero is refused with RANGE: DESIGN
CHOICE (log 59), R54 does not say with which status. -/
def State.checkDesc (s : State) (asid : Nat) (system : Bool) (bs : List Byte) (node : Bool) : Status × Option Kernel :=
  let d := parseDesc bs
  let code := (s.code? d.code).filter fun c => c.asid = asid
  match code.bind fun c => c.kernels[d.kernel]? with
  | none => (if descReserved bs then .reserved else .unknownId, none)
  | some k =>
    let par := fld bs 0x10 8
    let noCore := match d.mask with
      | none => false
      | some l => !(l.any s.boot.coreUp)
    let badRange := d.teams = 0 || 16777216 < d.spawn || (5 < d.carve && d.carve ≠ 0xFF) || 15 < d.attempts || d.blockBuf % 64 ≠ 0
      || (if node then par ≠ 0 else par % 4 ≠ 0) || noCore || !((usableCodes k d).any fun c => 0 < teamsUnder k c) || s.slotRoom asid k d = 0
    (firstStatus [(descReserved bs, .reserved), (badRange, .range), (k.system && !system, .privilege),
      (k.carve ≠ 0xFF && d.carve ≠ 0xFF && k.carve ≠ d.carve, .carveConflict), (s.tooLarge asid k d, .tooLarge)], some k)

/-! ## Room on a core (R69) -/

/-- The lowest place in [lo, hi) where n bytes meet no range in use (start, length). Which free range a team receives R69 and R111 leave open: DESIGN CHOICE
(log 55). -/
def firstFit (lo hi n : Nat) (used : List (Nat × Nat)) : Option Nat :=
  ((lo :: used.map fun u => u.1 + u.2).filter fun c => lo ≤ c && c + n ≤ hi && !(used.any fun u => overlap c n u.1 u.2)).min?

/-- The places held for new attempts of co-resident teams (R70), with their kernels. -/
def State.heldPlaces (s : State) : List (Grid × Team) := s.grids.flatMap fun x => x.again.filterMap fun a => a.place.map fun t => (x, t)

/-- The grids and teams whose room on a core is taken: resident teams and places held for new attempts. -/
def State.takenOn (s : State) (core : Nat) : List (Grid × Team) :=
  (s.teams.filterMap fun t => if t.core = some core then (s.grid? t.grid).map fun x => (x, t) else none)
    ++ s.heldPlaces.filter fun p => p.2.core = some core && !(s.teams.any fun t => t.grid = p.2.grid && t.idx = p.2.idx && t.core = some core)

/-- Teams that hold a scratch range of a core: those whose room is taken and evicted ones whose range is held. -/
def State.scratchOn (s : State) (core : Nat) : List (Grid × Team) :=
  s.takenOn core ++ (s.teams.filterMap fun t => if t.core.isNone && t.held && t.lastCore = core then (s.grid? t.grid).map fun x => (x, t) else none)
    ++ s.heldPlaces.filter fun p => p.2.core.isNone && p.2.held && p.2.lastCore = core
        && !(s.teams.any fun t => t.grid = p.2.grid && t.idx = p.2.idx && t.held)

/-- A team's scratch range. -/
def State.scratchRange (s : State) (p : Grid × Team) : Nat × Nat := (p.2.scratch, roundUp (((s.kernelOf p.1).map (·.scratch)).getD 0) 128)

/-- The cohort slots taken on a core: partition and registers of each (R69, R77). -/
def State.slotsOn (s : State) (core : Nat) : List (Nat × Nat) :=
  let regs (x : Grid) : Nat := 64 * ((s.kernelOf x).map (·.alloc)).getD 0
  ((s.takenOn core).flatMap fun p => p.2.cohorts.map fun c => (c % 8, regs p.1))
    ++ s.heats.filterMap fun h => if h.core = core then (s.grid? h.grid).map fun x => (h.base / 64 % 8, regs x) else none

/-- Further cohorts, each with the registers it needs, fit into the partitions of a core. -/
def State.cohortsFit (s : State) (core : Nat) (more : List (Nat × Nat)) : Bool :=
  let all := s.slotsOn core ++ more
  (List.range 8).all fun p =>
    let mine := all.filter fun x => x.1 = p
    mine.length ≤ 32 && (mine.map (·.2)).sum ≤ carveRegs (s.carveOf core) / 8

/-- A core has room for one team of a kernel with the cohorts given (R69): the scratch offset it would get. need: the carve code it must have, if one is fixed;
fixed: the offset it must have. -/
def State.roomOn (s : State) (core : Nat) (x : Grid) (k : Kernel) (cohorts : List Nat) (need fixed : Option Nat) : Option Nat :=
  let code := s.carveOf core
  let codeOk := match need with
    | some c => c = code
    | none => true
  let used := (s.scratchOn core).map s.scratchRange
  if !s.boot.coreUp core || !x.desc.allows core || !codeOk || 64 ≤ (s.takenOn core).length
      || !s.cohortsFit core (cohorts.map fun c => (c % 8, 64 * k.alloc)) then none
  else match fixed with
    | some o => some o
    | none => firstFit 0 (carveScratch code) (roundUp k.scratch 128) used

/-- The local slots in use in a context's window. -/
def State.localUsed (s : State) (asid : Nat) : List (Nat × Nat) :=
  (s.teams.filterMap fun t => (s.grid? t.grid).map fun x => (x, t)) ++ s.heldPlaces
    |>.filterMap fun p => if p.1.asid = asid then (s.kernelOf p.1).bind fun k => (s.localSize asid k p.1.desc).map fun n => (p.2.localSlot, n) else none

/-- The return-stack slots in use. -/
def State.rstackUsed (s : State) : List (Nat × Nat) :=
  ((s.teams.filterMap fun t => (s.grid? t.grid).map fun x => (x, t)) ++ s.heldPlaces).filterMap fun p =>
    (s.kernelOf p.1).map fun k => (p.2.rstackSlot, rstackSize k p.1.desc)

/-- A free local slot and return-stack slot for a team (R111). -/
def State.freeSlots (s : State) (x : Grid) (k : Kernel) : Option (Nat × Nat) :=
  match (s.context? x.asid).bind (·.window), s.rstackArea with
  | some (base, len, stack), some (area, size) =>
    match firstFit base (base + len) (stack * slotThreads k x.desc) (s.localUsed x.asid), firstFit area (area + size) (rstackSize k x.desc) s.rstackUsed with
    | some a, some b => some (a, b)
    | _, _ => none
  | _, _ => none

/-! ## Acceptance (R48, R50, R52, R61, R63) -/

/-- A range split in proportion to weights, contiguous and in order: units and their parts (R67). How a part that is no whole number is rounded R67 leaves open: the
number r decides it, each cut falling at its exact place rounded down or up (log 13). -/
def splitRange (r first count : Nat) (weights : List (Nat × Nat)) : List Unplaced :=
  let total := (weights.map (·.2)).sum
  let cut (k : Nat) : Nat := if total = 0 then 0 else (count * ((weights.take k).map (·.2)).sum + (total - 1 - r % total)) / total
  (weights.zipIdx.map fun w => ({ cluster := w.1.1, first := first + cut w.2, count := cut (w.2 + 1) - cut w.2 } : Unplaced)).filter fun u => u.count ≠ 0

/-- Cores in service of a cluster that a grid allows. -/
def State.coresIn (s : State) (d : GridDesc) (cluster : Nat) : Nat := ((List.range 4).filter fun c => d.allows (4 * cluster + c) && s.boot.coreUp (4 * cluster + c)).length

/-- The number under which the chip distributor itself keeps a range, while no core that may take it is in service. -/
def chipKeeps : Nat := 48

/-- The indices at positions u of the list of indices that ranges, given lowest first, make up; at_: the position of the first. -/
def portion (u : Unplaced) : Nat → List Unplaced → List Unplaced
  | _, [] => []
  | at_, f :: fs =>
    let lo := max at_ u.first
    let hi := min (at_ + f.count) (u.first + u.count)
    (if lo < hi then [{ cluster := u.cluster, first := f.first + (lo - at_), count := hi - lo }] else []) ++ portion u (at_ + f.count) fs

/-- The clusters of a die with the cores of each that a grid may use. -/
def State.clusterWeights (s : State) (d : GridDesc) (die : Nat) : List (Nat × Nat) := (List.range 12).map fun i => (12 * die + i, s.coresIn d (12 * die + i))

/-- The dies with the cores of each that a grid may use. -/
def State.dieWeights (s : State) (d : GridDesc) : List (Nat × Nat) := (List.range 4).map fun die => (die, ((s.clusterWeights d die).map (·.2)).sum)

/-- Unplaced indices, in ranges lowest first, dealt out by the chip distributor to the dies and by these to their clusters (R67). With no core in service that
the grid may use, the chip distributor keeps them. -/
def State.dealOut (s : State) (r : Nat) (d : GridDesc) (frags : List Unplaced) : List Unplaced :=
  let n := (frags.map (·.count)).sum
  if ((s.dieWeights d).map (·.2)).sum = 0 then frags.map fun u => { u with cluster := chipKeeps }
  else ((splitRange r 0 n (s.dieWeights d)).flatMap fun u => splitRange r u.first u.count (s.clusterWeights d u.cluster)).flatMap fun u => portion u 0 frags

/-- A grid's whole index range dealt out (R67). -/
def State.distribute (s : State) (r : Nat) (d : GridDesc) : List Unplaced := s.dealOut r d [{ cluster := chipKeeps, first := 0, count := d.teams }]

/-- Grids that hold a slot. -/
def State.liveGrids (s : State) : Nat := (s.grids.filter fun x => !x.queued).length

/-- Neither a grid slot nor an entry of the launch queue is free (R63). -/
def State.noSlot (s : State) : Bool := 4096 ≤ s.liveGrids && 16384 ≤ (s.grids.filter (·.queued)).length

/-- A grid accepted: it holds a slot, or waits for one. -/
def State.addGrid (s : State) (asid : Nat) (system : Bool) (d : GridDesc) (descVa : Option Nat) (params : List Byte) (depth : Nat) (parent : Option (Nat × Nat))
    (prio : Nat) (onEnd : GridEnd) : State :=
  let queued := 4096 ≤ s.liveGrids
  let (r, s1) := s.choose
  let x : Grid := { id := s.nextGrid, asid := asid, system := system, desc := d, descVa := descVa, params := params, depth := depth, parent := parent,
                    prio := prio, queued := queued, unplaced := if queued then [] else s.distribute r d, again := [], dead := [], retired := 0, onEnd := onEnd,
                    debug := false, records := 0, discarded := 0 }
  { s1 with grids := s.grids ++ [x], nextGrid := s.nextGrid + 1 }

/-- An index leaves the ranges not placed yet. -/
def dropIndex (i : Nat) (l : List Unplaced) : List Unplaced :=
  l.flatMap fun u =>
    if u.first ≤ i && i < u.first + u.count then
      ([{ u with count := i - u.first }, { u with first := i + 1, count := u.first + u.count - (i + 1) }] : List Unplaced).filter fun v => v.count ≠ 0
    else [u]

/-- GRID_SLOT_FREED: the earliest grid of the launch queue takes a free slot (R61, R63). -/
def State.promote (s : State) : State :=
  if 4096 ≤ s.liveGrids then s
  else match s.grids.find? (·.queued) with
    | none => s
    | some x =>
      let (r, s1) := s.choose
      s1.modGrid x.id fun y => { y with queued := false, unplaced := x.dead.foldl (fun l i => dropIndex i l) (s.distribute r x.desc) }

end Sys2Proof.Machine
end

