-- ==== Sys2Proof/Machine/Sha.lean ====
section
/-! DEFINITION. SHA-256, which the spec names (R11, R23, R42) and FIPS 180-4 defines: PRESUMED (log 7). -/

namespace Sys2Proof.Machine

/-- The round constants. -/
def shaK : List W32 :=
  [0x428A2F98, 0x71374491, 0xB5C0FBCF, 0xE9B5DBA5, 0x3956C25B, 0x59F111F1, 0x923F82A4, 0xAB1C5ED5,
   0xD807AA98, 0x12835B01, 0x243185BE, 0x550C7DC3, 0x72BE5D74, 0x80DEB1FE, 0x9BDC06A7, 0xC19BF174,
   0xE49B69C1, 0xEFBE4786, 0x0FC19DC6, 0x240CA1CC, 0x2DE92C6F, 0x4A7484AA, 0x5CB0A9DC, 0x76F988DA,
   0x983E5152, 0xA831C66D, 0xB00327C8, 0xBF597FC7, 0xC6E00BF3, 0xD5A79147, 0x06CA6351, 0x14292967] ++
  [0x27B70A85, 0x2E1B2138, 0x4D2C6DFC, 0x53380D13, 0x650A7354, 0x766A0ABB, 0x81C2C92E, 0x92722C85,
   0xA2BFE8A1, 0xA81A664B, 0xC24B8B70, 0xC76C51A3, 0xD192E819, 0xD6990624, 0xF40E3585, 0x106AA070,
   0x19A4C116, 0x1E376C08, 0x2748774C, 0x34B0BCB5, 0x391C0CB3, 0x4ED8AA4A, 0x5B9CCA4F, 0x682E6FF3,
   0x748F82EE, 0x78A5636F, 0x84C87814, 0x8CC70208, 0x90BEFFFA, 0xA4506CEB, 0xBEF9A3F7, 0xC67178F2]

/-- The initial hash value. -/
def shaInit : List W32 :=
  [0x6A09E667, 0xBB67AE85, 0x3C6EF372, 0xA54FF53A, 0x510E527F, 0x9B05688C, 0x1F83D9AB, 0x5BE0CD19]

/-- The function of the small sigma kind: two rotations and a shift. -/
def shaSmall (x : W32) (a b c : Nat) : W32 := x.rotateRight a ^^^ x.rotateRight b ^^^ (x >>> c)

/-- The function of the great sigma kind: three rotations. -/
def shaGreat (x : W32) (a b c : Nat) : W32 := x.rotateRight a ^^^ x.rotateRight b ^^^ x.rotateRight c

/-- The next word of the message schedule from the last sixteen, newest first. -/
def shaNext (w : List W32) : W32 :=
  shaSmall (w.getD 1 0) 17 19 10 + w.getD 6 0 + shaSmall (w.getD 14 0) 7 18 3 + w.getD 15 0

/-- The schedule extended by n words, newest first. -/
def shaExtend (w : List W32) : Nat → List W32
  | 0 => w
  | n + 1 => shaExtend (shaNext w :: w) n

/-- One round on the eight working words. -/
def shaRound (v : List W32) (k w : W32) : List W32 :=
  match v with
  | [a, b, c, d, e, f, g, h] =>
    let t1 := h + shaGreat e 6 11 25 + ((e &&& f) ^^^ (~~~e &&& g)) + k + w
    let t2 := shaGreat a 2 13 22 + ((a &&& b) ^^^ (a &&& c) ^^^ (b &&& c))
    [t1 + t2, a, b, c, d + t1, e, f, g]
  | _ => v

/-- A big-endian word at place i of a block. -/
def beWord (bs : List Byte) (i : Nat) : W32 := bs.getD (4 * i) 0 ++ bs.getD (4 * i + 1) 0 ++ bs.getD (4 * i + 2) 0 ++ bs.getD (4 * i + 3) 0

/-- One block of 64 bytes taken into the hash value. -/
def shaBlock (h : List W32) (bs : List Byte) : List W32 :=
  let w := (shaExtend ((List.range 16).map (beWord bs)).reverse 48).reverse
  let v := (shaK.zip w).foldl (fun v x => shaRound v x.1 x.2) h
  (h.zip v).map fun x => x.1 + x.2

/-- n blocks taken in order. -/
def shaBlocks (h : List W32) (bs : List Byte) : Nat → List W32
  | 0 => h
  | n + 1 => shaBlocks (shaBlock h (bs.take 64)) (bs.drop 64) n

/-- The message with its padding: a one bit, zeros, the length in bits in 64 bits, big-endian. -/
def shaPad (bs : List Byte) : List Byte :=
  let n := bs.length
  bs ++ [0x80] ++ List.replicate ((119 - n % 64) % 64) 0 ++ (leBytes (8 * n) 8).reverse

/-- The digest as 32 bytes. -/
def sha256 (bs : List Byte) : List Byte :=
  let m := shaPad bs
  (shaBlocks shaInit m (m.length / 64)).flatMap fun w => (leBytes w.toNat 4).reverse

end Sys2Proof.Machine
end

