-- ==== Sys2Proof/Machine/HostQueues.lean ====
section
/-! DEFINITION. Host queues (R44 to R47): their registers, ring entries and completion records; code objects (R42, R43); the ring's LAUNCH, WAIT_VALUE and
WRITE_VALUE. -/

namespace Sys2Proof.Machine

/-! ## Registers (R44, R45) -/

/-- The number by which a register write names page 0 of the privileged interface (R291). -/
def privPage : Nat := 64

/-- A host queue's record changed, or the privileged ring's. -/
def State.modQueue (s : State) (q : Nat) (f : HostQueue → HostQueue) : State :=
  if q = privPage then { s with priv := f s.priv } else { s with queues := s.queues.modify q f }

/-- RING_ERR, bit 2 of QSTATUS. -/
def HostQueue.ringErr (x : HostQueue) : HostQueue := { x with status := x.status ||| 4 }

/-- A ring size: 0, or a power of two from 16 to 65,536. -/
def ringSizeOk (v : W32) : Bool := v == 0 || (List.range 13).any fun i => v.toNat == 2 ^ (i + 4)

/-- QBASE_WRITE. -/
def execQbaseWrite (q : Nat) (v : W64) (s : State) : Host.Outcome State Fault Refusal :=
  finish s (s.modQueue q fun x => if x.head = x.tail && v.toNat % 64 = 0 then { x with base := v, head := 0, tail := 0 } else x.ringErr)

/-- QSIZE_WRITE. -/
def execQsizeWrite (q : Nat) (v : W32) (s : State) : Host.Outcome State Fault Refusal :=
  finish s (s.modQueue q fun x => if x.head = x.tail && ringSizeOk v then { x with size := v, head := 0, tail := 0 } else x.ringErr)

/-- TAIL_WRITE. -/
def execTailWrite (q : Nat) (v : W32) (s : State) : Host.Outcome State Fault Refusal :=
  finish s (s.modQueue q fun x => if v.toNat < x.size.toNat then { x with tail := v } else x.ringErr)

/-- QSTATUS_W1C: ones clear the flags of bits 2 to 0. -/
def execQstatusW1c (q : Nat) (v : W32) (s : State) : Host.Outcome State Fault Refusal :=
  finish s (s.modQueue q fun x => { x with status := x.status &&& ~~~(v &&& 7) })

/-- REGISTER_WRITE: QPRIO, whose bits [31:3] are zero. -/
def execRegisterWrite (q : Nat) (v : W32) (s : State) : Host.Outcome State Fault Refusal :=
  finish s (s.modQueue q fun x => { x with prio := v &&& 7 })

/-! ## Ring entries (R46) -/

/-- The device takes launches: reduced or full service (R18). -/
def State.serving (s : State) : Bool := s.boot.service == .reduced || s.boot.service == .full

/-- What stands at a queue's HEAD. -/
inductive HeadEntry where
  /-- nothing to take now -/
  | none
  /-- the entry's own address cannot be read -/
  | unreadable
  | bytes (bs : List Byte)
  deriving DecidableEq, Repr

/-- The opcode of an entry. -/
def entryOp (bs : List Byte) : Nat := fld bs 0 1
/-- The completion address. -/
def entryDone (bs : List Byte) : Nat := fld bs 0x10 8

/-- A pending WAIT_VALUE holds every later entry. -/
def HostQueue.waiting (x : HostQueue) : Bool := x.pending.any fun p => entryOp p.2 == 6
/-- A LAUNCH of the queue has not retired. -/
def HostQueue.launching (x : HostQueue) : Bool := x.pending.any fun p => entryOp p.2 == 5

/-- The entry at HEAD of a bound queue, when it may start: no WAIT_VALUE holds it, and its AFTER has no LAUNCH to wait for. -/
def State.headEntry (s : State) (q : Nat) : HeadEntry :=
  match s.queues[q]? with
  | none => .none
  | some x =>
    match x.asid with
    | none => .none
    | some asid =>
      if !s.serving || x.size = 0 || x.head = x.tail || x.waiting then .none
      else match s.readObject asid x.system (x.base.toNat + 64 * x.head.toNat) 64 with
        | none => .unreadable
        | some bs => if (fld bs 1 1).testBit 0 && x.launching then .none else .bytes bs

/-- R46: an unknown opcode, or a reserved or unused field that is not zero. -/
def entryReserved (bs : List Byte) : Bool :=
  let op := entryOp bs
  let named := op == 2 || op == 4
  !(1 ≤ op && op ≤ 7) || 1 < fld bs 1 1 || !zeroField bs 0x20 32 || (!named && fld bs 2 2 ≠ 0) || (named && fld bs 8 8 ≠ 0)
    || (!(op == 6 || op == 7) && fld bs 0x18 8 ≠ 0)

/-- The sides of reading the entry at HEAD. -/
def State.noteEntry (s : State) (q : Nat) : State :=
  match s.queues[q]? with
  | none => s
  | some x => s.noteVa chipUnit (x.asid.getD 0) x.system (x.base.toNat + 64 * x.head.toNat) 64

/-- HEAD past an entry, which has been read; the entry's number among those taken. -/
def State.advance (s : State) (q : Nat) : State :=
  (s.noteEntry q).modQueue q fun x => { x with head := BitVec.ofNat 32 ((x.head.toNat + 1) % x.size.toNat), taken := x.taken + 1 }

/-- The completion record: tag, object id, status; the object id is 0 where the entry assigns or names none: DESIGN CHOICE (log 59). A record that cannot be written is
lost and sets RING_ERR. -/
def State.endEntry (s : State) (q : Nat) (bs : List Byte) (id : Nat) (st : Status) : State :=
  match s.queues[q]? with
  | none => s
  | some x =>
    if entryDone bs = 0 then s
    else match s.writeObject (x.asid.getD 0) x.system (entryDone bs) (leBytes (fld bs 4 4) 4 ++ leBytes id 2 ++ leBytes st.code 1 ++ leBytes 0 1) with
      | some s1 => s1
      | none => s.modQueue q HostQueue.ringErr

/-- A well-formed entry at HEAD with an opcode: its queue and bytes. -/
def State.entryFor (s : State) (q op : Nat) : Option (HostQueue × List Byte) :=
  match s.queues[q]?, s.headEntry q with
  | some x, .bytes bs => if entryOp bs = op && !entryReserved bs && entryDone bs % 8 = 0 then some (x, bs) else none
  | _, _ => none

/-- RING_ENTRY_RESERVED (subject: queue): an entry that cannot be read, one whose completion address is misaligned, and one of R46's malformed ones. The
completion record of a malformed one repeats its object id field whatever its opcode. DESIGN CHOICE (log 59). -/
def execRingEntryReserved (s : State) : Host.Outcome State Fault Refusal :=
  let q := s.subj 0
  finish s (match s.headEntry q with
    | .none => s
    | .unreadable => (s.advance q).modQueue q HostQueue.ringErr
    | .bytes bs =>
      if entryDone bs % 8 ≠ 0 then (s.advance q).modQueue q HostQueue.ringErr
      else if entryReserved bs then ((s.advance q).modQueue q HostQueue.ringErr).endEntry q bs (fld bs 2 2) .reserved
      else s)

/-! ## Code objects (R42, R43) -/

/-- The end of a code object, from its header. -/
def codeEnd (h : List Byte) : Nat :=
  [fld h 8 4 + fld h 0xC 4, fld h 0x10 4 + fld h 0x14 4, fld h 0x18 4 + 64 * fld h 6 2, fld h 0x1C 4 + 16 * fld h 0x20 4, fld h 0x24 4 + fld h 0x28 4].foldl max 80

/-- A kernel entry's fields. -/
def parseKernel (bs : List Byte) : Kernel :=
  { entry := fld bs 4 4, trap := if fld bs 8 4 = 0xFFFFFFFF then none else some (fld bs 8 4), teamSize := fld bs 0xC 2, alloc := fld bs 0xE 2,
    scratch := fld bs 0x10 4, carve := fld bs 0x14 1, system := (fld bs 0x15 1).testBit 0, restartable := (fld bs 0x15 1).testBit 1, params := fld bs 0x16 2 }

/-- A kernel entry's values keep R41 and R43, for a code section of a size. -/
def kernelOk (k : Kernel) (size : Nat) : Bool :=
  k.entry < size && k.entry % 4 = 0 && (match k.trap with | some t => t < size && t % 4 = 0 | none => true) && 1 ≤ k.teamSize && k.teamSize ≤ 2048
    && 32 ≤ k.alloc && k.alloc ≤ 512 && k.alloc % 16 = 0 && (k.carve ≤ 5 || k.carve = 0xFF) && k.params ≤ 256 && k.params % 4 = 0

/-- The checks of R43 on an object's bytes. -/
def codeStatus (bs : List Byte) : Status :=
  let size := fld bs 0xC 4
  let entries := (List.range (fld bs 6 2)).map fun i => (bs.drop (fld bs 0x18 4 + 64 * i)).take 64
  firstStatus [
    (fld bs 0 4 ≠ 0x4F435A41 || fld bs 4 2 ≠ 1, .format),
    (sha256 (bs.drop 0x50) ≠ (bs.drop 0x30).take 32, .digest),
    (!zeroField bs 0x2C 4 || entries.any fun e => 4 ≤ fld e 0x15 1 || !zeroField e 0x18 40, .reserved),
    (fld bs 8 4 % 256 ≠ 0 || size % 4 ≠ 0 || 65536 < fld bs 0x14 4 || !(entries.all fun e => kernelOk (parseKernel e) size), .range)]

/-- A code object's contents under a number. -/
def parseCode (id asid : Nat) (bs : List Byte) : Code :=
  { id := id, asid := asid, words := (List.range (fld bs 0xC 4 / 4)).map fun i => BitVec.ofNat 32 (fld bs (fld bs 8 4 + 4 * i) 4),
    konst := (bs.drop (fld bs 0x10 4)).take (fld bs 0x14 4),
    kernels := (List.range (fld bs 6 2)).map fun i => parseKernel ((bs.drop (fld bs 0x18 4 + 64 * i)).take 64) }

/-- The lowest number from 1 to n that a list leaves out. -/
def freeId (n : Nat) (used : List Nat) : Option Nat := ((List.range n).map (· + 1)).find? fun i => !used.contains i

/-- LOAD_CODE's outcome: the status, the number assigned, the state. -/
def State.loadCode (s : State) (asid : Nat) (system : Bool) (va : Nat) : Status × Nat × State :=
  match s.readObject asid system va 80 with
  | none => (.fault, 0, s)
  | some h =>
    if fld h 0 4 ≠ 0x4F435A41 || fld h 4 2 ≠ 1 then (.format, 0, s)
    else match s.readObject asid system va (codeEnd h) with
      | none => (.fault, 0, s)
      | some bs =>
        match codeStatus bs with
        | .ok =>
          match freeId 1023 (s.codes.map (·.id)) with
          | none => (.noSpace, 0, s)
          | some id => (.ok, id, { s with codes := s.codes ++ [parseCode id asid bs] })
        | st => (st, 0, s)

/-- The sides of reading a code object. -/
def State.noteCode (s : State) (asid : Nat) (system : Bool) (va : Nat) : State :=
  s.noteVa chipUnit asid system va (match s.readObject asid system va 80 with
    | some h => if fld h 0 4 ≠ 0x4F435A41 || fld h 4 2 ≠ 1 then 80 else codeEnd h
    | none => 80)

/-- LOAD_CODE (subject: queue). -/
def execLoadCode (s : State) : Host.Outcome State Fault Refusal :=
  let q := s.subj 0
  finish s (match s.entryFor q 1 with
    | none => s
    | some (x, bs) =>
      let (st, id, s1) := s.loadCode (x.asid.getD 0) x.system (fld bs 8 8)
      ((s1.noteCode (x.asid.getD 0) x.system (fld bs 8 8)).advance q).endEntry q bs id st)

/-- The code object a node of an uploaded graph names. -/
def graphNodeCode (bs : List Byte) (n : Nat) : Option Nat :=
  let e := fld bs 0x10 4 + 16 * n
  if fld bs (e + 0xA) 2 = 0 then some (fld bs (fld bs e 4) 2) else none

/-- A live grid or an uploaded graph uses a code object. -/
def State.codeInUse (s : State) (id : Nat) : Bool :=
  (s.grids.any fun x => x.desc.code = id)
    || s.graphs.any fun g => (List.range (fld g.bytes 8 2)).any fun n => graphNodeCode g.bytes n = some id

/-- UNLOAD_CODE (subject: queue). -/
def execUnloadCode (s : State) : Host.Outcome State Fault Refusal :=
  let q := s.subj 0
  finish s (match s.entryFor q 2 with
    | none => s
    | some (x, bs) =>
      let id := fld bs 2 2
      let s1 := s.advance q
      if !(s.codes.any fun c => c.id = id && some c.asid = x.asid) then s1.endEntry q bs id .unknownId
      else if s.codeInUse id then s1.endEntry q bs id .inUse
      else ({ s1 with codes := s1.codes.filter fun c => c.id ≠ id } : State).endEntry q bs id .ok)

/-! ## LAUNCH (R50, R62) -/

/-- R62: every L1 and remote-data cache is emptied, but for lines of intervals held on their cores. -/
def State.dropAllLines (s : State) : State := { s with l1 := s.l1.filter fun l => s.lineOwned l l.owner, rdc := [] }

/-- An entry started that has not ended. -/
def State.pendEntry (s : State) (q : Nat) (bs : List Byte) : State := s.modQueue q fun x => { x with pending := x.pending ++ [(x.taken, bs)] }

/-- The acceptance of a ring LAUNCH: step 2 to 4 of R50. -/
def State.ringAccept (s : State) (q : Nat) (x : HostQueue) (va : Nat) (bs : List Byte) : Status × State :=
  let asid := x.asid.getD 0
  match s.checkDesc asid x.system bs false with
  | (.ok, some k) =>
    match s.readObject asid x.system (fld bs 0x10 8) k.params with
    | none => (.fault, s)
    | some ps =>
      let s := s.noteVa chipUnit asid x.system (fld bs 0x10 8) k.params
      if s.noSlot then (.noSlot, s)
      else (.ok, s.dropAllLines.addGrid asid x.system (parseDesc bs) (some va) ps 1 none x.prio.toNat (.ring q x.taken))
  | (st, _) => (st, s)

/-- RING_LAUNCH (subject: queue). DESIGN CHOICE (log 59): a status word that cannot be written is lost, and the launch stands. -/
def execRingLaunch (s : State) : Host.Outcome State Fault Refusal :=
  let q := s.subj 0
  finish s (match s.entryFor q 5 with
    | none => s
    | some (x, e) =>
      let va := fld e 8 8
      let asid := x.asid.getD 0
      if va % 64 ≠ 0 then (s.advance q).endEntry q e 0 .range
      else match s.readObject asid x.system va 320 with
        | none => (s.advance q).endEntry q e 0 .fault
        | some bs =>
          let (st, s1) := (s.noteVa chipUnit asid x.system va 320).ringAccept q x va bs
          let s2 := (s1.writeObject asid x.system (va + 0x3C) (leBytes st.code 4)).getD s1
          if st = .ok then (s2.pendEntry q e).advance q else (s2.advance q).endEntry q e 0 st)

/-! ## WAIT_VALUE, WRITE_VALUE -/

/-- A WAIT_VALUE's word looked at: none where it cannot be read, else whether it is at least the value. -/
def State.waitDone (s : State) (x : HostQueue) (bs : List Byte) : Option Bool :=
  (s.readObject (x.asid.getD 0) x.system (fld bs 8 8) 8).map fun w => fld bs 0x18 8 ≤ leNat w

/-- The sides of reading a WAIT_VALUE's word. -/
def State.noteWait (s : State) (x : HostQueue) (bs : List Byte) : State := s.noteVa chipUnit (x.asid.getD 0) x.system (fld bs 8 8) 8

/-- WAIT_VALUE (subject: queue). -/
def execWaitValue (s : State) : Host.Outcome State Fault Refusal :=
  let q := s.subj 0
  finish s (match s.entryFor q 6 with
    | none => s
    | some (x, bs) => match s.waitDone x bs with
      | none => (s.advance q).endEntry q bs 0 .fault
      | some true => ((s.noteWait x bs).advance q).endEntry q bs 0 .ok
      | some false => ((s.noteWait x bs).pendEntry q bs).advance q)

/-- A pending entry leaves. -/
def State.unpend (s : State) (q n : Nat) : State := s.modQueue q fun x => { x with pending := x.pending.filter fun p => p.1 ≠ n }

/-- WAIT_VALUE_SATISFIED (subject: queue): the word a held WAIT_VALUE reads is read again. -/
def execWaitValueSatisfied (s : State) : Host.Outcome State Fault Refusal :=
  let q := s.subj 0
  finish s (match s.queues[q]? with
    | none => s
    | some x => match x.pending.find? fun p => entryOp p.2 = 6 with
      | none => s
      | some p => match s.waitDone x p.2 with
        | none => (s.unpend q p.1).endEntry q p.2 0 .fault
        | some true => ((s.noteWait x p.2).unpend q p.1).endEntry q p.2 0 .ok
        | some false => s.noteWait x p.2)

/-- A WRITE_VALUE's write. -/
def State.writeValue (s : State) (q : Nat) (x : HostQueue) (bs : List Byte) : State :=
  match s.writeObject (x.asid.getD 0) x.system (fld bs 8 8) (leBytes (fld bs 0x18 8) 8) with
  | some s1 => s1.endEntry q bs 0 .ok
  | none => s.endEntry q bs 0 .fault

/-- WRITE_VALUE (subject: queue): the oldest pending entry, when it is a WRITE_VALUE, writes; else the one at HEAD starts, and waits while an earlier entry has not
ended. -/
def execWriteValue (s : State) : Host.Outcome State Fault Refusal :=
  let q := s.subj 0
  finish s (match s.queues[q]? with
    | none => s
    | some x =>
      match x.pending with
      | (n, bs) :: _ =>
        if entryOp bs = 7 then (s.unpend q n).writeValue q x bs
        else match s.entryFor q 7 with
          | some (_, e) => (s.pendEntry q e).advance q
          | none => s
      | [] => match s.entryFor q 7 with
        | some (_, e) => (s.advance q).writeValue q x e
        | none => s)

end Sys2Proof.Machine
end

