-- ==== Sys2Proof/Machine/Graphs.lean ====
section
/-! DEFINITION. Task graphs (R53 to R61): upload and release, kicks, instances, their nodes and edges, and grid slots that free. -/

namespace Sys2Proof.Machine

/-! ## The object's tables (R53) -/

/-- Node count. -/
def gNodes (b : List Byte) : Nat := fld b 8 2
/-- Edge count. -/
def gEdges (b : List Byte) : Nat := fld b 0xA 2
/-- Patch slot count. -/
def gPatches (b : List Byte) : Nat := fld b 0xC 2
/-- A node's entry. -/
def gNode (b : List Byte) (n : Nat) : List Byte := (b.drop (fld b 0x10 4 + 16 * n)).take 16
/-- An edge's entry. -/
def gEdge (b : List Byte) (n : Nat) : List Byte := (b.drop (fld b 0x14 4 + 16 * n)).take 16
/-- A region: base and length. -/
def gRegion (b : List Byte) (n : Nat) : Nat × Nat := (fld b (fld b 0x18 4 + 16 * n) 8, fld b (fld b 0x18 4 + 16 * n + 8) 8)
/-- A patch slot's entry. -/
def gPatch (b : List Byte) (n : Nat) : List Byte := (b.drop (fld b 0x20 4 + 8 * n)).take 8
/-- The graph is reentrant. -/
def gReentrant (b : List Byte) : Bool := (fld b 6 2).testBit 0

/-- A join node runs nothing. -/
def isJoin (b : List Byte) (n : Nat) : Bool := fld (gNode b n) 0xA 2 == 1
/-- A node's grid descriptor. -/
def nodeDesc (b : List Byte) (n : Nat) : List Byte := (b.drop (fld (gNode b n) 0 4)).take 320
/-- The producer of an edge; 0xFFFF the graph's entry. -/
def producer (b : List Byte) (n : Nat) : Nat := fld (gEdge b n) 0 2
/-- The consumer of an edge; 0xFFFF the graph's exit. -/
def consumer (b : List Byte) (n : Nat) : Nat := fld (gEdge b n) 2 2
/-- An edge's regions. -/
def edgeRegions (b : List Byte) (n : Nat) : List (Nat × Nat) := (List.range (fld (gEdge b n) 8 4)).map fun i => gRegion b (fld (gEdge b n) 4 4 + i)

/-! ## Checks (R54) -/

/-- A table of n entries of a size lies inside the object at an aligned offset. -/
def tableIn (b : List Byte) (off n size : Nat) : Bool := off % 16 == 0 && off + n * size ≤ fld b 0x24 4

/-- Reserved fields that are not zero. -/
def graphReserved (b : List Byte) : Bool :=
  1 < fld b 6 2 || !zeroField b 0xE 2 || !zeroField b 0x30 16
    || ((List.range (gNodes b)).any fun n => !zeroField (gNode b n) 0xC 4 || (isJoin b n && !zeroField (gNode b n) 0 10))
    || ((List.range (gEdges b)).any fun n => !zeroField (gEdge b n) 0xC 4)
    || (List.range (gPatches b)).any fun n => !zeroField (gPatch b n) 5 3

/-- The header's counts and tables are in range. -/
def graphTablesOk (b : List Byte) : Bool :=
  1 ≤ gNodes b && gNodes b ≤ 1024 && gEdges b ≤ 4096 && gPatches b ≤ 256 && fld b 0x1C 4 ≤ 16384 && fld b 0x28 8 % 8 == 0
    && tableIn b (fld b 0x10 4) (gNodes b) 16 && tableIn b (fld b 0x14 4) (gEdges b) 16 && tableIn b (fld b 0x18 4) (fld b 0x1C 4) 16
    && tableIn b (fld b 0x20 4) (gPatches b) 8

/-- A node's own fields are in range. -/
def nodeOk (b : List Byte) (n : Nat) : Bool :=
  let e := gNode b n
  fld e 0xA 2 ≤ 1 && (isJoin b n || (fld e 0 4 % 64 == 0 && fld e 0 4 + 320 ≤ fld b 0x24 4 && fld e 4 4 % 16 == 0 && fld e 4 4 + fld e 8 2 ≤ fld b 0x24 4))

/-- An edge names existing nodes and regions. -/
def edgeOk (b : List Byte) (n : Nat) : Bool :=
  let p := producer b n
  let c := consumer b n
  (p < gNodes b || p == 0xFFFF) && (c < gNodes b || c == 0xFFFF) && !(p == 0xFFFF && c == 0xFFFF) && fld (gEdge b n) 4 4 + fld (gEdge b n) 8 4 ≤ fld b 0x1C 4

/-- A region lies in global memory, outside the aperture. -/
def regionOk (r : Nat × Nat) : Bool :=
  1 ≤ r.2 && r.2 ≤ 2 ^ 56 && rangeValid r.1 r.2 && !touchesAperture r.1 r.2 && !overlap r.1 r.2 (0xFE * 2 ^ 48) (2 ^ 48)

/-- A patch slot lies inside its node's parameter image. -/
def patchOk (b : List Byte) (n : Nat) : Bool :=
  let p := gPatch b n
  let node := fld p 0 2
  let width := fld p 4 1
  node < gNodes b && !isJoin b node && (width == 4 || width == 8) && fld p 2 2 % width == 0 && fld p 2 2 + width ≤ fld (gNode b node) 8 2

/-- Nodes left once those without a remaining producer have been taken out n times; some are left where edges form a cycle. -/
def peel (b : List Byte) (left : List Nat) : Nat → List Nat
  | 0 => left
  | n + 1 => peel b (left.filter fun c => (List.range (gEdges b)).any fun e => consumer b e == c && left.contains (producer b e)) n

/-- The edges among nodes form a cycle. -/
def cyclic (b : List Byte) : Bool := !(peel b (List.range (gNodes b)) (gNodes b)).isEmpty

/-- A node's grid descriptor checked as a launch's, apart from NO_SLOT. -/
def State.nodeStatus (s : State) (asid : Nat) (system : Bool) (b : List Byte) (n : Nat) : Status :=
  if isJoin b n then .ok
  else match s.checkDesc asid system (nodeDesc b n) true with
    | (.ok, some k) => if k.params = fld (gNode b n) 8 2 then .ok else .range
    | (st, _) => st

/-- The whole check of an uploaded object. R54 gives no order among the object's own refusals: DESIGN CHOICE (log 29), FAULT of reading it, then magic and version with
FORMAT, counts and tables with RANGE, reserved fields with RESERVED, then nodes, edges and cycles. -/
def State.graphStatus (s : State) (asid : Nat) (system : Bool) (b : List Byte) : Status :=
  if fld b 0 4 ≠ 0x48475A41 || fld b 4 2 ≠ 1 then .format
  else if !graphTablesOk b then .range
  else if graphReserved b then .reserved
  else if !((List.range (gNodes b)).all (nodeOk b)) then .range
  else match ((List.range (gNodes b)).map (s.nodeStatus asid system b)).find? (· ≠ .ok) with
    | some st => st
    | none => firstStatus [
        (!((List.range (gEdges b)).all (edgeOk b)) || !((List.range (fld b 0x1C 4)).all fun i => regionOk (gRegion b i))
          || !((List.range (gPatches b)).all (patchOk b)), .range),
        (cyclic b, .cycle)]

/-- UPLOAD_GRAPH's outcome. -/
def State.uploadGraph (s : State) (asid : Nat) (system : Bool) (va : Nat) : Status × Nat × State :=
  match s.readObject asid system va 64 with
  | none => (.fault, 0, s)
  | some h =>
    match s.readObject asid system va (max 64 (fld h 0x24 4)) with
    | none => (.fault, 0, s)
    | some b =>
      if fld h 0x24 4 < 64 then (.range, 0, s)
      else match s.graphStatus asid system b with
        | .ok =>
          match freeId 4095 (s.graphs.map (·.id)) with
          | none => (.noSpace, 0, s)
          | some id => (.ok, id, { s with graphs := s.graphs ++ [{ id := id, asid := asid, system := system, bytes := b, instances := 0, outstanding := 0 }] })
        | st => (st, 0, s)

/-- UPLOAD_GRAPH (subject: queue). -/
def execUploadGraph (s : State) : Host.Outcome State Fault Refusal :=
  let q := s.subj 0
  finish s (match s.entryFor q 3 with
    | none => s
    | some (x, bs) =>
      let (st, id, s1) := s.uploadGraph (x.asid.getD 0) x.system (fld bs 8 8)
      let n := max 64 (((s.readObject (x.asid.getD 0) x.system (fld bs 8 8) 64).map fun h => fld h 0x24 4).getD 64)
      ((s1.noteVa chipUnit (x.asid.getD 0) x.system (fld bs 8 8) n).advance q).endEntry q bs id st)

/-- A graph of a context. -/
def State.graph? (s : State) (asid id : Nat) : Option Graph := s.graphs.find? fun g => g.id = id && g.asid = asid

/-- RELEASE_GRAPH (subject: queue). -/
def execReleaseGraph (s : State) : Host.Outcome State Fault Refusal :=
  let q := s.subj 0
  finish s (match s.entryFor q 4 with
    | none => s
    | some (x, bs) =>
      let id := fld bs 2 2
      let s1 := s.advance q
      match s.graph? (x.asid.getD 0) id with
      | none => s1.endEntry q bs id .unknownId
      | some g =>
        if g.outstanding ≠ 0 then s1.endEntry q bs id .inUse
        else ({ s1 with graphs := s1.graphs.filter fun y => y.id ≠ id } : State).endEntry q bs id .ok)

/-! ## Kicks (R55, R56) -/

/-- A kick processed: KICKS_TAKEN goes up, and a refusal shows in QSTATUS, its status code in KERR (R45, R47). -/
def HostQueue.kicked (x : HostQueue) (st : Status) : HostQueue :=
  let taken := (x.status >>> 16) + 1
  let low : W32 := match st with
    | .ok => x.status &&& 0xFFFF
    | .kickFull => (x.status &&& 0x00FF) ||| 1 ||| 0x0C00
    | e => (x.status &&& 0x00FF) ||| 2 ||| BitVec.ofNat 32 (e.code * 256)
  { x with status := (taken <<< 16) ||| low }

/-- The patch table's address: bits [56:6] in the kick, sign-extended from bit 56. -/
def patchTable (v : W64) : Nat := (((v.extractLsb' 0 51) ++ (0 : BitVec 6)).signExtend 64).toNat

/-- An accepted kick's instance. -/
def State.newInstance (s : State) (x : HostQueue) (g : Graph) (patches : List Byte) : State :=
  let n := gPatches g.bytes
  let i : GraphInst := { uid := s.nextInst, graph := g.id, number := g.instances + 1, asid := g.asid, system := g.system, prio := x.prio.toNat,
                         patches := (List.range n).map fun k => BitVec.ofNat 64 (fld patches (8 * k) 8), started := false,
                         nodes := List.replicate (gNodes g.bytes) .waiting, edges := List.replicate (gEdges g.bytes) false, failed := [] }
  { s with insts := s.insts ++ [i], nextInst := s.nextInst + 1,
           graphs := updWhere (fun y => y.id = g.id) (fun y => { y with instances := y.instances + 1, outstanding := y.outstanding + 1 }) s.graphs }

/-- What a 64-bit kick comes to. -/
def State.takeKick (s : State) (x : HostQueue) (v : W64) : Status × State :=
  let asid := x.asid.getD 0
  if v.getLsbD 51 then (.reserved, s)
  else match (if x.asid.isSome then s.graph? asid (v.extractLsb' 52 12).toNat else none) with
    | none => (.unknownId, s)
    | some g =>
      if 4 ≤ g.outstanding then (.kickFull, s)
      else match s.readObject asid x.system (patchTable v) (8 * gPatches g.bytes) with
        | none => (.fault, s)
        | some ps => (.ok, (s.noteVa chipUnit asid x.system (patchTable v) (8 * gPatches g.bytes)).newInstance x g ps)

/-- KICK; a 32-bit write is discarded. -/
def execKick (q : Nat) (v : W64) (wide : Bool) (s : State) : Host.Outcome State Fault Refusal :=
  finish s (match s.queues[q]? with
    | none => s
    | some x =>
      if !wide then s.modQueue q fun y => { y with status := (y.status &&& 0xFFFF00FF) ||| 2 ||| BitVec.ofNat 32 (Status.range.code * 256) }
      else
        let (st, s1) := s.takeKick x v
        s1.modQueue q fun y => y.kicked st)

/-! ## Instances (R57 to R61) -/

/-- An instance. -/
def State.inst? (s : State) (uid : Nat) : Option GraphInst := s.insts.find? fun i => i.uid = uid

/-- An instance's record changed. -/
def State.modInst (s : State) (uid : Nat) (f : GraphInst → GraphInst) : State := { s with insts := updWhere (fun i => i.uid = uid) f s.insts }

/-- The object of an instance. -/
def State.instBytes (s : State) (i : GraphInst) : List Byte := (((s.graphs.find? fun g => g.id = i.graph).map (·.bytes)).getD [])

/-- The place a context's tables give an address, whatever rights its page grants. -/
def State.placeUnder (s : State) (asid va : Nat) : Option Nat :=
  match s.lookup chipUnit asid va with
  | .leaf pte base _ => if pteHost pte then (s.ats (pteFrame pte + (va - base))).map hostKey else some (devKey (pteFrame pte + (va - base)))
  | _ => none

/-- The lines of regions leave every L1 and every remote-data cache, under whatever address and context they were filled; an L1 line that holds bytes of an interval
held on its core stays (R58). -/
def State.dropRegions (s : State) (asid : Nat) (rs : List (Nat × Nat)) : State :=
  let places := rs.flatMap fun r => (pageChunks r.1 r.2).filterMap fun x => (s.placeUnder asid x.1).map fun key => (key, x.2)
  let hit (l : Line) : Bool := places.any fun p => overlap (l.line * 128) 128 p.1 p.2
  { s with l1 := s.l1.filter fun l => !hit l || s.lineOwned l l.owner, rdc := s.rdc.filter fun l => !hit l }

/-- A node's parameter store: its image with the instance's patch values at their slots. -/
def nodeParams (b : List Byte) (i : GraphInst) (n : Nat) : List Byte :=
  let image := (b.drop (fld (gNode b n) 4 4)).take (fld (gNode b n) 8 2)
  (List.range (gPatches b)).foldl (fun im k =>
    let p := gPatch b k
    if fld p 0 2 = n then im.take (fld p 2 2) ++ leBytes (i.patches.getD k 0).toNat (fld p 4 1) ++ im.drop (fld p 2 2 + fld p 4 1) else im) image

/-- How a node of an instance stands. -/
def GraphInst.node (i : GraphInst) (n : Nat) : NodeState := i.nodes.getD n .ended

/-- A node's state set; failed: it was refused or left a team dead. -/
def State.setNode (s : State) (uid n : Nat) (st : NodeState) (failed : Bool) : State :=
  s.modInst uid fun i => { i with nodes := i.nodes.set n st, failed := if failed then i.failed ++ [n] else i.failed }

/-- A node grid's context and system flag refuse it as too large now (R61). -/
def State.nodeTooLarge (s : State) (asid : Nat) (d : GridDesc) : Bool :=
  match (s.code? d.code).bind fun c => c.kernels[d.kernel]? with
  | some k => s.tooLarge asid k d
  | none => true

/-- A node starts: a join ends at once, a grid is accepted, or refused with TOO_LARGE. -/
def State.startNode (s : State) (i : GraphInst) (n : Nat) : State :=
  let b := s.instBytes i
  if isJoin b n then s.setNode i.uid n .ended false
  else
    let d := parseDesc (nodeDesc b n)
    if s.nodeTooLarge i.asid d then s.setNode i.uid n .ended true
    else
      let s1 := s.setNode i.uid n (.running s.nextGrid) false
      s1.addGrid i.asid i.system d none (nodeParams b i n) 1 none i.prio (.node i.uid n)

/-- GRAPH_INSTANCE_START (subject: instance): entry edges invalidate their regions and the nodes without a producer start. -/
def execGraphInstanceStart (s : State) : Host.Outcome State Fault Refusal :=
  finish s (match s.inst? (s.subj 0) with
    | none => s
    | some i =>
      let b := s.instBytes i
      if i.started || (!gReentrant b && s.insts.any fun j => j.graph = i.graph && j.number < i.number) then s
      else
        let entry := (List.range (gEdges b)).filter fun e => producer b e = 0xFFFF
        let s1 := entry.foldl (fun s e => s.dropRegions i.asid (edgeRegions b e)) s
        let s2 := s1.modInst i.uid fun j => { j with started := true, edges := j.edges.zipIdx.map fun x => x.1 || entry.contains x.2 }
        let first := (List.range (gNodes b)).filter fun n => !((List.range (gEdges b)).any fun e => consumer b e = n && producer b e ≠ 0xFFFF)
        first.foldl (fun s n => s.startNode i n) s2)

/-- EDGE_CLEAN (subject: instance, edge): the producer has retired, so its writes are at their homes; the edge's regions are invalidated. -/
def execEdgeClean (s : State) : Host.Outcome State Fault Refusal :=
  let e := s.subj 1
  finish s (match s.inst? (s.subj 0) with
    | none => s
    | some i =>
      let b := s.instBytes i
      if gEdges b ≤ e || i.edges.getD e true || producer b e = 0xFFFF || i.node (producer b e) ≠ .ended then s
      else (s.dropRegions i.asid (edgeRegions b e)).modInst i.uid fun j => { j with edges := j.edges.set e true })

/-- GRAPH_NODE_START (subject: instance, node): every incoming edge has finished. -/
def execGraphNodeStart (s : State) : Host.Outcome State Fault Refusal :=
  let n := s.subj 1
  finish s (match s.inst? (s.subj 0) with
    | none => s
    | some i =>
      let b := s.instBytes i
      if !i.started || gNodes b ≤ n || i.node n ≠ .waiting || (List.range (gEdges b)).any (fun e => consumer b e = n && !i.edges.getD e true) then s
      else s.startNode i n)

/-- GRAPH_INSTANCE_COMPLETE (subject: instance): the done word, the events of failed nodes, the kick given back. DESIGN CHOICE (log 59): a done word that cannot be
written is lost and the instance completes; the events GRAPH_NODE_FAILED of all its failed nodes are raised now, not as each node fails. -/
def execGraphInstanceComplete (s : State) : Host.Outcome State Fault Refusal :=
  finish s (match s.inst? (s.subj 0) with
    | none => s
    | some i =>
      let b := s.instBytes i
      let exits := (List.range (gNodes b)).filter fun n => !((List.range (gEdges b)).any fun e => producer b e = n && consumer b e ≠ 0xFFFF)
      let open_ := (List.range (gEdges b)).any fun e => consumer b e = 0xFFFF && !i.edges.getD e true
      if !i.started || open_ || !(exits.all fun n => i.node n = .ended) then s
      else
        let word := i.number + if i.failed.isEmpty then 0 else 2 ^ 63
        let s1 := if fld b 0x28 8 = 0 then s else (s.writeObject i.asid i.system (fld b 0x28 8) (leBytes word 8)).getD s
        let s2 := i.failed.foldl (fun s n => s.raise 4 1 (leBytes i.graph 2 ++ leBytes n 2 ++ leBytes i.number 4)) s1
        { s2 with insts := s2.insts.filter (fun j => j.uid ≠ i.uid),
                  graphs := updWhere (fun g => g.id = i.graph) (fun g => { g with outstanding := g.outstanding - 1 }) s2.graphs })

/-! ## Grid slots (R61, R63) -/

/-- GRID_SLOT_FREED: the earliest waiting grid takes a free slot; a co-resident node grid that fits no longer is refused then. -/
def execGridSlotFreed (s : State) : Host.Outcome State Fault Refusal :=
  finish s (if 4096 ≤ s.liveGrids then s
    else match s.grids.find? (·.queued) with
      | none => s
      | some x => match x.onEnd with
        | .node uid n =>
          if s.nodeTooLarge x.asid x.desc then ({ s with grids := s.grids.filter fun y => y.id ≠ x.id } : State).setNode uid n .ended true
          else s.promote
        | _ => s.promote)

end Sys2Proof.Machine
end

