-- ==== Sys2Proof/Machine/Bringup.lean ====
section
/-! DEFINITION. The start sequence (R11 to R20), power windows (R10), the management mailbox and attestation (R21 to R23). These steps, and only these, change
State.boot. -/

namespace Sys2Proof.Machine

/-! ## The record (R15) -/

/-- One entry as its 32-bit word. -/
def BringupEntry.word (e : BringupEntry) : Nat :=
  e.step * 2 ^ 24 + e.inst * 2 ^ 18 + e.attempts * 2 ^ 14 + e.status * 2 ^ 11 + (if e.altUsed then 2 ^ 10 else 0) + e.detail

/-- The record: header word, then every entry. -/
def Boot.record (b : Boot) : List Byte := leBytes (if b.preferB then 1 else 0) 4 ++ b.entries.flatMap fun e => leBytes e.word 4

/-- An entry changed. -/
def Boot.modEntry (b : Boot) (k : Nat) (f : BringupEntry → BringupEntry) : Boot := { b with entries := b.entries.modify k f }

/-- An entry's plan replaced. -/
def Boot.setPlan (b : Boot) (k : Nat) (p : Option Plan) : Boot := { b with plan := b.plan.set k p }

/-! ## Dependencies (R14) -/

/-- ROM_CHECK's place in the record. -/
def romEntry : Nat := 0
/-- FUSE_LOAD. -/
def fuseEntry : Nat := 1
/-- POWER_RAMP. -/
def rampEntry : Nat := 2
/-- HOST_LINK. -/
def linkEntry : Nat := 65
/-- FW_LOAD. -/
def fwEntry : Nat := 90
/-- SERVE_FULL. -/
def fullEntry : Nat := 91

/-- How a dependency stands. -/
inductive Dep where
  | met | open_ | never
  deriving DecidableEq, Repr

/-- An instance that has ended without passing. -/
def Boot.endedBad (b : Boot) (k : Nat) : Bool := (b.planAt k).isNone && !b.passed k

/-- A dependency on one instance. -/
def Boot.depOn (b : Boot) (k : Nat) : Dep := if b.passed k then .met else if b.endedBad k then .never else .open_

/-- A dependency on at least one SWITCH_TRAIN. -/
def Boot.depSwitch (b : Boot) : Dep :=
  if b.passed (switchEntry 0) || b.passed (switchEntry 1) then .met
  else if b.endedBad (switchEntry 0) && b.endedBad (switchEntry 1) then .never else .open_

/-- How the dependency of an entry stands (the table of R14); SERVE_FULL's is never met once an instance has failed. -/
def Boot.dep (b : Boot) (k : Nat) : Dep :=
  if k = 0 then .met
  else if k ≤ 2 then b.depOn (k - 1)
  else if k ≤ 4 then b.depOn rampEntry
  else if k ≤ 16 then b.depSwitch
  else if k ≤ 64 then b.depOn (dieEntry ((k - 17) / 12))
  else if k = 65 then b.depOn (dieEntry 0)
  else if k ≤ 89 then b.depOn (switchEntry ((k - 66) / 12))
  else if k = 90 then b.depOn linkEntry
  else if (List.range 91).any fun j => (b.planAt j).isNone && b.statusAt j == 3 then .never
  else if (List.range 91).all fun j => (b.planAt j).isNone then .met else .open_

/-- The step of an entry has an alternate way. -/
def hasAlternate (k : Nat) : Bool := k == 0 || (3 ≤ k && k ≤ 89)

/-- An instance starts: RUNNING, its start counted, ALTUSED set before an alternate attempt (R15, R16). -/
def BringupEntry.start (e : BringupEntry) (p : Plan) : BringupEntry :=
  { e with attempts := min 15 (e.attempts + 1), status := 5, altUsed := e.altUsed || p == .alternate }

/-- An entry still to run and not running is SKIPPED with DETAIL 0x3FF once its dependency can no longer be met. -/
def Boot.skipOne (b : Boot) (k : Nat) : Boot :=
  if (b.planAt k).isSome && b.statusAt k ≠ 5 && b.dep k = .never then (b.modEntry k fun e => { e with status := 4, detail := 0x3FF }).setPlan k none else b

/-- An entry starts once its dependency is met. SERVE_FULL starts as it passes. -/
def Boot.startOne (b : Boot) (k : Nat) : Boot :=
  match b.planAt k with
  | none => b
  | some p => if b.statusAt k = 5 || k = fullEntry || b.dep k ≠ .met then b else b.modEntry k fun e => e.start p

/-- The device must enter the recovery state: a step whose row says so has come to its turn and ended without passing, or both switch dies have. DESIGN CHOICE
(log 57): of HOST_LINK, die 0 and both switch dies this holds too at the start at which they fail, their alternate way untried: R14 and R16 state recovery for
the next start and give the present one no way on. -/
def Boot.mustRecover (b : Boot) : Bool :=
  ([romEntry, fuseEntry, rampEntry, dieEntry 0, linkEntry, fwEntry].any fun k => b.endedBad k && b.dep k = .met)
    || (b.depSwitch == .never && b.dep (switchEntry 0) = .met)

/-- R18: what reduced service needs has passed. -/
def Boot.canServe (b : Boot) : Bool :=
  [romEntry, fuseEntry, rampEntry, linkEntry, fwEntry].all b.passed && b.depSwitch == .met && (List.range 8).any b.towerUp

/-- The sequence goes on: entries are skipped; recovery begins, or entries start in record order and reduced service may begin. In the recovery state none starts. -/
def Boot.settle (b : Boot) : Boot :=
  if b.service = .off || b.service = .full then b
  else
    let b0 := (List.range 92).foldl Boot.skipOne b
    if b0.service = .recovery then b0
    else if b0.mustRecover then { b0 with service := .recovery }
    else
      let b1 := (List.range 92).foldl Boot.startOne b0
      if b1.service = .starting && b1.canServe then { b1 with service := .reduced } else b1

/-! ## DEVICE_START (R16) -/

/-- How one instance runs at this start, from what its entry holds, and the entry with an interrupted run counted as FAILED. -/
def planEntry (k : Nat) (e : BringupEntry) : BringupEntry × Option Plan :=
  let e1 := if e.status = 5 then { e with status := 3 } else e
  match e1.status with
  | 1 => (e1, some .normal)
  | 2 => (e1, some .alternate)
  | 3 => if hasAlternate k && !e1.altUsed then (e1, some .alternate)
         else if 3 ≤ k && k ≤ 89 && k ≠ linkEntry && k ≠ dieEntry 0 then ({ e1 with status := 4 }, none)
         else (e1, none)
  | 4 => if e1.detail = 0x3FF then (e1, some .normal) else (e1, none)
  | _ => (e1, some .normal)

/-- The record as a start finds it: reset if CLEAR_BRINGUP or a new image asked for it. -/
def Boot.startEntries (b : Boot) : List BringupEntry := if b.clearNext then freshRecord else b.entries

/-- The start begins. No scheduler firmware stands loaded until FW_LOAD, and R23 gives no digest for a report asked for before: it reads 0. DESIGN CHOICE (log 64). -/
def Boot.begin_ (b : Boot) : Boot :=
  let ps := b.startEntries.zipIdx.map fun x => planEntry x.2 x.1
  ({ b with clearNext := false, entries := ps.map (·.1), plan := ps.map (·.2), service := .starting, link := none, clock := 1200,
            idleCycles := false, fwDigest := 0, reply := [] } : Boot).settle

/-- DEVICE_START. -/
def execDeviceStart (s : State) : Host.Outcome State Fault Refusal :=
  .next (if s.boot.service = .off then { s with boot := s.boot.begin_ } else s)

/-! ## A step instance ends (R14, R15, R20) -/

/-- A waiting co-resident grid that can no longer fit is refused with TOO_LARGE, as at acceptance (R19). -/
def State.refuseGrid (s : State) (x : Grid) : State :=
  let s1 := { s with grids := s.grids.filter fun y => y.id ≠ x.id }
  let s2 := match x.descVa with
    | some va => (s1.writeObject x.asid x.system (va + 0x3C) (leBytes Status.tooLarge.code 4)).getD s1
    | none => s1
  match x.onEnd with
  | .none => s2
  | .hurdle g i off => s2.arrive g i off 1 [.package] [] 2
  | .ring q n => match (s2.queues[q]?).bind fun y => y.pending.find? fun p => p.1 = n with
    | some p => (s2.unpend q n).endEntry q p.2 0 .tooLarge
    | none => s2
  | .node uid n => s2.setNode uid n .ended true

/-- The co-resident grids that wait to be placed whole and no longer fit. -/
def State.refuseUnfit (s : State) : State :=
  (s.grids.filter fun x => x.desc.coResident && (x.queued || !x.unplaced.isEmpty) && match s.kernelOf x with
    | some k => s.tooLarge x.asid k x.desc
    | none => false).foldl State.refuseGrid s

/-- The entry's run ends: its final status, then the sequence goes on. -/
def Boot.endStep (b : Boot) (k : Nat) (ok : Bool) (detail : Nat) : Boot :=
  let alt := b.planAt k == some .alternate
  ((b.modEntry k fun e => { e with status := if !ok then 3 else if alt then 2 else 1, detail := if ok then 0 else detail }).setPlan k none).settle

/-- The instance runs now; one that was running when the device entered the recovery state ends there (R15). -/
def Boot.running (b : Boot) (k : Nat) : Bool := b.service != .off && (b.planAt k).isSome && b.statusAt k == 5

/-- A step instance ends, passing or failing with a DETAIL. A failure during reduced service raises UNIT_FAILED; waiting grids are looked at. -/
def State.endStep (s : State) (k : Nat) (ok : Bool) (detail : BitVec 10) : State :=
  if !s.boot.running k then s
  else
    let e := s.boot.entries.getD k { step := 0, inst := 0, attempts := 0, status := 0, altUsed := false, detail := 0 }
    let s1 := { s with boot := s.boot.endStep k ok detail.toNat }
    let s2 := if !ok && s.boot.service = .reduced then s1.raise 2 2 (leBytes e.step 1 ++ leBytes e.inst 1 ++ leBytes detail.toNat 2) else s1
    { s2.refuseUnfit with boot := s1.boot }

/-- FUSE_LOAD. -/
def execFuseLoad (ok : Bool) (detail : BitVec 10) (s : State) : Host.Outcome State Fault Refusal := .next (s.endStep fuseEntry ok detail)

/-- POWER_RAMP. -/
def execPowerRamp (ok : Bool) (detail : BitVec 10) (s : State) : Host.Outcome State Fault Refusal := .next (s.endStep rampEntry ok detail)

/-- SWITCH_TRAIN of a switch die. -/
def execSwitchTrain (n : Nat) (ok : Bool) (detail : BitVec 10) (s : State) : Host.Outcome State Fault Refusal :=
  .next (if n < 2 then s.endStep (switchEntry n) ok detail else s)

/-- TOWER_TRAIN of a tower. -/
def execTowerTrain (n : Nat) (ok : Bool) (detail : BitVec 10) (s : State) : Host.Outcome State Fault Refusal :=
  .next (if n < 8 then s.endStep (towerEntry n) ok detail else s)

/-- DIE_TEST of a compute die. -/
def execDieTest (n : Nat) (ok : Bool) (detail : BitVec 10) (s : State) : Host.Outcome State Fault Refusal :=
  .next (if n < 4 then s.endStep (dieEntry n) ok detail else s)

/-- BOND_TEST of a cluster. -/
def execBondTest (n : Nat) (ok : Bool) (detail : BitVec 10) (s : State) : Host.Outcome State Fault Refusal :=
  .next (if n < 48 then s.endStep (bondEntry n) ok detail else s)

/-- VILCOR_TRAIN of a port. -/
def execVilcorTrain (n : Nat) (ok : Bool) (detail : BitVec 10) (s : State) : Host.Outcome State Fault Refusal :=
  .next (if n < 24 then s.endStep (portEntry n) ok detail else s)

/-- HOST_LINK: ×16, or ×8 by its alternate way, at 64 GT/s (R7); a link that has come up at another rate has not passed. -/
def execHostLink (ok : Bool) (detail : BitVec 10) (rate : Nat) (s : State) : Host.Outcome State Fault Refusal :=
  let width := if s.boot.planAt linkEntry = some .alternate then 8 else 16
  let passed := ok && rate == 64
  let s1 := if passed && s.boot.running linkEntry then { s with boot := { s.boot with link := some (width, 64) } } else s
  .next (s1.endStep linkEntry passed detail)

/-- SERVE_FULL: every other instance has ended PASSED, PASSED_ALT or SKIPPED. -/
def execServeFull (s : State) : Host.Outcome State Fault Refusal :=
  let b := s.boot
  .next (if b.service = .reduced && (b.planAt fullEntry).isSome && b.dep fullEntry = .met then
      { s with boot := { (b.modEntry fullEntry fun e => { e.start .normal with status := 1, detail := 0 }).setPlan fullEntry none with service := .full } }
    else s)

/-! ## Firmware images (R11, R12) -/

/-- A big number as bytes, most significant first. -/
def beBytes (n k : Nat) : List Byte := (leBytes n k).reverse

/-- The image's header with the signature field zero; its layout is a DESIGN CHOICE (log 7). -/
def imageHeader (i : Image) : List Byte :=
  leBytes i.version 4 ++ leBytes i.length 4 ++ beBytes i.digest.toNat 32 ++ beBytes i.key.toNat 64 ++ leBytes 0 64

/-- A digest as a number, its first byte highest. -/
def digestOf (bs : List Byte) : BitVec 256 := BitVec.ofNat 256 (leNat (sha256 bs).reverse)

/-- R11: the four checks of an image. -/
def imageAccepted (i : Image) : Bool :=
  digestOf (beBytes i.key.toNat 64) == Config.fusedKeyDigest && Config.ecdsaVerify i.key (digestOf (imageHeader i)) i.sig && digestOf i.body == i.digest
    && Config.minSecVersion ≤ i.version

/-- FW_LOAD: the stage that runs checks the scheduler firmware's image by the rule the ROM checks its own by (R11), and the step passes only with an accepted one. -/
def execFwLoad (ok : Bool) (detail : BitVec 10) (img : Image) (s : State) : Host.Outcome State Fault Refusal :=
  let good := ok && imageAccepted img
  let s1 := if good && s.boot.running fwEntry then { s with boot := { s.boot with fwDigest := digestOf img.body } } else s
  .next (s1.endStep fwEntry good detail)

/-- The image of a slot is there and accepted. -/
def slotGood (i : Option Image) : Bool := i.any imageAccepted

/-- ROM_CHECK: the preferred slot and then the other; an entry found PASSED_ALT tries the other slot first (log 42). The DETAIL of a failure is a free value: R15
gives none (log 57). -/
def Boot.romCheck (b : Boot) : Boot :=
  let preferred := slotGood (if b.preferB then b.slotB else b.slotA)
  let other := slotGood (if b.preferB then b.slotA else b.slotB)
  let useOther := other && (b.planAt romEntry == some .alternate || !preferred)
  let b1 := if useOther || !preferred then b.modEntry romEntry fun e => { e with altUsed := true } else b
  let b2 := ({ b1 with runningB := if useOther then !b.preferB else b.preferB } : Boot).setPlan romEntry (some (if useOther then .alternate else .normal))
  b2.endStep romEntry (preferred || other) Config.romDetail.toNat

/-- ROM_CHECK. -/
def execRomCheck (s : State) : Host.Outcome State Fault Refusal :=
  .next (if s.boot.running romEntry then { s with boot := s.boot.romCheck } else s)

/-- The widths and rates the ROM tries, in its order (R13): ×16, ×8, ×4, each at 64 GT/s and then at each lower rate the partner offers, the higher first. -/
def linkTries (offered : List Nat) : List (Nat × Nat) :=
  [16, 8, 4].flatMap fun w => (64 :: (((List.range 64).filter fun r => 0 < r && offered.contains r).reverse)).map fun r => (w, r)

/-- RECOVERY_LINK_RETRY: the ROM tries the link (R13) and keeps the first width and rate that trains. -/
def execRecoveryLinkRetry (partner : LinkPartner) (s : State) : Host.Outcome State Fault Refusal :=
  .next (if s.boot.service = .recovery && s.boot.link.isNone then
      { s with boot := { s.boot with link := (linkTries partner.offered).find? partner.trains.contains } }
    else s)

/-! ## POWER_WINDOW (R10) -/

/-- A mask of the numbers below n that p accepts. -/
def maskOf (n : Nat) (p : Nat → Bool) : Nat := ((List.range n).map fun i => if p i then 2 ^ i else 0).sum

/-- The compute dies in service. -/
def Boot.dieMask (b : Boot) : Nat := maskOf 4 fun d => b.passed (dieEntry d)

/-- A 10 ms window ends with a mean draw: above 2600 W the clock falls by 50 MHz, or at 1.2 GHz idle cycles are inserted; below 2500 W they end and the
clock rises, in full service, towards 1.75 GHz. -/
def State.powerWindow (s : State) (mw : Nat) : State :=
  let b := s.boot
  if !(b.service == .reduced || b.service == .full) then s
  else if 2600000 < mw then
    if 1200 < b.clock then { s with boot := { b with clock := max 1200 (b.clock - 50) } }
    else if b.idleCycles then s
    else ({ s with boot := { b with idleCycles := true } } : State).raise 1 1 (leBytes b.dieMask 1)
  else if mw < 2500000 then
    let s1 := if b.idleCycles then ({ s with boot := { b with idleCycles := false } } : State).raise 1 2 (leBytes b.dieMask 1) else s
    if b.service = .full then { s1 with boot := { s1.boot with clock := min 1750 (b.clock + 50) } } else s1
  else s

/-- POWER_WINDOW. -/
def execPowerWindow (milliwatts : Nat) (s : State) : Host.Outcome State Fault Refusal := .next (s.powerWindow milliwatts)

/-! ## The mailbox (R21) -/

/-- The mailbox answers: a host link is up. -/
def Boot.mailboxOpen (b : Boot) : Bool := b.link.isSome && b.service != .off

/-- Completion of a command: a status byte, 0 for done and 1 for an unknown command (log 42), and what it returns. -/
def Boot.answer (b : Boot) (status : Nat) (bs : List Byte) : Boot := { b with reply := leBytes status 1 ++ bs }

/-- Clusters, towers, switch dies and compute dies in one mask (R23). -/
def unitMask (cluster tower switch die : Nat → Bool) : Nat := maskOf 48 cluster + 2 ^ 48 * maskOf 8 tower + 2 ^ 56 * maskOf 2 switch + 2 ^ 58 * maskOf 4 die

/-- A cluster in service. -/
def Boot.clusterUp (b : Boot) (c : Nat) : Bool := b.passed (dieEntry (dieOfCluster c)) && b.passed (bondEntry c)

/-- The in-service mask. -/
def Boot.inService (b : Boot) : Nat :=
  unitMask b.clusterUp b.towerUp (fun n => b.passed (switchEntry n)) (fun d => b.passed (dieEntry d))

/-- The pending mask, 0 in the recovery state. -/
def Boot.pendingMask (b : Boot) : Nat :=
  if b.service = .recovery then 0
  else unitMask (fun c => b.pendingAt (bondEntry c)) (fun t => b.pendingAt (towerEntry t)) (fun n => b.pendingAt (switchEntry n)) (fun d => b.pendingAt (dieEntry d))

/-- The security version of the running image; 0 where no image runs (log 42). -/
def Boot.secVersion (b : Boot) : Nat := if b.passed romEntry then ((if b.runningB then b.slotB else b.slotA).map (·.version)).getD 0 else 0

/-- The service state of the capability block. -/
def Boot.serviceCode (b : Boot) : Nat :=
  match b.service with
  | .recovery => 0
  | .reduced => 1
  | .full => 2
  | _ => Config.startingState.toNat

/-- The capability block (R22); a port that has lost training is not in service. -/
def State.capabilities (s : State) : List Byte :=
  let b := s.boot
  let clusters := ((List.range 48).filter b.clusterUp).length
  let towers := ((List.range 8).filter b.towerUp).length
  let portUp (p : Nat) : Bool := b.passed (portEntry p) && !s.portsDown.contains p
  let pendingPorts := if b.service = .recovery then 0 else maskOf 24 fun p => b.pendingAt (portEntry p)
  let link := match b.link with | some (w, r) => w + 256 * r | none => 0
  leBytes 1 4 ++ leBytes b.serviceCode 4 ++ leBytes b.clock 4 ++ leBytes ((List.range 4).filter fun d => b.passed (dieEntry d)).length 2 ++ leBytes clusters 2
    ++ leBytes (4 * clusters) 2 ++ leBytes towers 2 ++ leBytes (maskOf 24 portUp) 4 ++ leBytes b.inService 8 ++ leBytes b.pendingMask 8 ++ leBytes pendingPorts 4
    ++ leBytes link 4 ++ leBytes (towers * 2 ^ 36) 8 ++ leBytes (towers * 384 * 2 ^ 20) 8 ++ leBytes b.device 2 ++ leBytes b.devices 2 ++ leBytes b.secVersion 4
    ++ leBytes 0 56

/-- GET_CAPS; in the recovery state it answers with what R22 says of that state (log 42). -/
def execGetCaps (s : State) : Host.Outcome State Fault Refusal :=
  .next (if s.boot.mailboxOpen then { s with boot := s.boot.answer 0 s.capabilities } else s)

/-- GET_BRINGUP. -/
def execGetBringup (s : State) : Host.Outcome State Fault Refusal :=
  .next (if s.boot.mailboxOpen then { s with boot := s.boot.answer 0 s.boot.record } else s)

/-- CLEAR_BRINGUP: not among the commands the recovery state accepts (R12). -/
def execClearBringup (s : State) : Host.Outcome State Fault Refusal :=
  .next (if s.boot.mailboxOpen && s.boot.service ≠ .recovery then { s with boot := { s.boot with clearNext := true }.answer 0 [] } else s)

/-- The attestation report up to its signature (R23). -/
def Boot.report (b : Boot) (nonce : BitVec 256) : List Byte :=
  let image := if b.runningB then b.slotB else b.slotA
  leBytes 1 4 ++ leBytes b.secVersion 4 ++ leBytes Config.deviceId.toNat 16 ++ leBytes nonce.toNat 32 ++ (match image with | some i => sha256 i.body | none => leBytes 0 32)
    ++ beBytes b.fwDigest.toNat 32 ++ sha256 b.record ++ leBytes b.inService 8 ++ leBytes 0 32

/-- GET_ATTEST: the report, signed. -/
def execGetAttest (nonce : BitVec 256) (s : State) : Host.Outcome State Fault Refusal :=
  let r := s.boot.report nonce
  .next (if s.boot.mailboxOpen && s.boot.service ≠ .recovery then
      { s with boot := s.boot.answer 0 (r ++ beBytes (Config.ecdsaSign (digestOf r)).toNat 64) } else s)

/-- The slot in use: the running image's, or in the recovery state, where none runs, the preferred one. -/
def Boot.slotInUse (b : Boot) : Bool := if b.passed romEntry then b.runningB else b.preferB

/-- IMAGE_LOAD: the slot not in use, which becomes preferred; the record is reset at the next start (R16). -/
def execImageLoad (img : Image) (s : State) : Host.Outcome State Fault Refusal :=
  let b := s.boot
  let toB := !b.slotInUse
  .next (if b.mailboxOpen then
      { s with boot := ({ b with slotA := if toB then b.slotA else some img, slotB := if toB then some img else b.slotB, preferB := toB, clearNext := true } : Boot).answer 0 [] }
    else s)

/-- RESET: the device starts again; flash, the host's memory and translations, and what other devices and links are stay; the rest is as right after reset
(what device memory then holds: log 2). -/
def State.restart (s : State) : State :=
  { State.reset with
    agenda := s.agenda, nextOp := s.nextOp, draw := s.draw, mem := s.mem.filter fun c => isHostKey c.1, hostMap := s.hostMap, unreachable := s.unreachable,
    boot := { s.boot with service := .off, plan := [], link := none, reply := [] } }

/-- RESET. -/
def execReset (s : State) : Host.Outcome State Fault Refusal := .next (if s.boot.mailboxOpen then s.restart else s)

/-- MAILBOX_UNKNOWN_COMMAND. -/
def execMailboxUnknownCommand (code : Nat) (s : State) : Host.Outcome State Fault Refusal :=
  .next (if s.boot.mailboxOpen && !(1 ≤ code && code ≤ 6) then { s with boot := s.boot.answer 1 [] } else s)

end Sys2Proof.Machine
end

