-- ==== Sys2Proof/Machine/Control.lean ====
section
/-! DEFINITION. Control flow (R81, R82, R91 to R96 of 05), the trap words (13), the window words and NOP. -/

namespace Sys2Proof.Machine

/-- A taken transfer: the guard does not reach past it (R91). -/
def Thread.jump (t : Thread) (pc : Nat) : Thread := { t with pc := pc, gcnt := 0 }

/-- The target of BRA and CALL as an exact integer (R92, R93). -/
def relTarget (pc : Nat) (off : BitVec 22) : Int := (pc : Int) + 4 + 4 * off.toInt

/-- A code offset as sr.taddr holds it: 32 bits. -/
def offsetWord (t : Int) : Nat := (t % 2 ^ 32).toNat

/-- A target outside the code section takes PERMISSION (R81). -/
def Ctx.badTarget (c : Ctx) (t : Int) : List Fail := when (t < 0 || (c.code.size : Int) ≤ t) (Cause.permission.at_ (offsetWord t))

/-- A push at depth 1024 takes PERMISSION with the target (R82). -/
def Ctx.fullStack (c : Ctx) (t : Int) : List Fail := when (1024 ≤ c.t.stack.length) (Cause.permission.at_ (offsetWord t))

/-- CALL and CALLI push the return PC and WBASE (R82). -/
def Thread.push (t : Thread) (ret : Nat) : Thread := { t with stack := (ret, t.wbase) :: t.stack }

/-- The place of entry number k, from the bottom, of a thread's return stack in device memory (R82, R111; log 53). -/
def Ctx.stackKey (c : Ctx) (k : Nat) : Nat := c.team.stackKey c.t.ref.tid k

/-- R82: the top four entries stay on chip: a push beyond them spills the fifth from the top, a pop fills the fourth again. before: the thread as it issued. -/
def State.spillFill (s : State) (before : Ctx) : State :=
  match s.thread? before.t.ref with
  | none => s
  | some t =>
    let n := t.stack.length
    if before.t.stack.length + 1 = n && 4 < n then
      let e := t.stack.getD 4 (0, 0)
      s.homeWrite (before.stackKey (n - 5)) (leBytes e.1 4 ++ leBytes e.2 4)
    else if before.t.stack.length = n + 1 && 4 ≤ n then
      let bs := s.homeRead (before.stackKey (n - 4)) 8
      (s.noteRead (before.stackKey (n - 4)) 8).modThread t.ref fun u => { u with stack := u.stack.set 3 (fld bs 0 4, fld bs 4 4 % 512) }
    else s

/-- Spills and fills of the threads of a gang after a word; s is the state the word issued in. -/
def State.spills (s after : State) : State :=
  s.gang.foldl (fun u r => match s.ctx? r with | some c => u.spillFill c | none => u) after

/-- EXIT in a thread: it waits for the open pending sets, then the thread ends (R95). -/
def Thread.exit (before t : Thread) : Thread :=
  if before.awaiting then { before with status := .draining .exit } else { t with status := .exited, windows := [] }

/-! ## NOP, EXIT, WIN -/

/-- NOP. -/
def execNop (s : State) : Host.Outcome State Fault Refusal := s.plain .nop fun _ t => t

/-- EXIT (R95): it produces no next PC, so the fall-through check has nothing to check. -/
def execExit (s : State) : Host.Outcome State Fault Refusal :=
  finish s (s.short .exit (fun _ => false) (fun _ => []) fun c t => c.t.exit t)

/-- WIN (R96). -/
def execWin (b : BitVec 5) (s : State) : Host.Outcome State Fault Refusal := s.plain (.win b) fun _ t => { t with wbase := b.toNat * 16 }

/-- WINR (R96): a value that is no multiple of 16 up to 496 takes REGISTER_RANGE. -/
def execWinr (a : Reg) (s : State) : Host.Outcome State Fault Refusal :=
  finish s (s.short (.winr a) (fun _ => true)
    (fun c => let v := (c.t.rd a).toNat; when (v % 16 ≠ 0 || 496 < v) (Cause.registerRange.at_ v))
    fun c t => { t with wbase := (c.t.rd a).toNat })

/-! ## Transfers -/

/-- BRA (R92). -/
def execBra (p : BitVec 3) (neg : Bool) (off : BitVec 22) (s : State) : Host.Outcome State Fault Refusal :=
  finish s (s.short (.bra p neg off) (fun c => !c.t.predN p neg)
    (fun c => if c.t.predN p neg then c.badTarget (relTarget c.t.pc off) else [])
    fun c t => if c.t.predN p neg then t.jump (relTarget c.t.pc off).toNat else t)

/-- CALL (R93). -/
def execCall (off : BitVec 22) (s : State) : Host.Outcome State Fault Refusal :=
  finish s (s.spills (s.short (.call off) (fun _ => false)
    (fun c => let g := relTarget c.t.pc off; c.badTarget g ++ c.fullStack g)
    fun c t => (t.push (c.t.pc + 4)).jump (relTarget c.t.pc off).toNat))

/-- The checks of JMPI and CALLI on a target (R94). -/
def Ctx.jumpChecks (c : Ctx) (v : Nat) : List Fail := when (v % 4 ≠ 0) (Cause.alignment.at_ v) ++ c.badTarget v

/-- JMPI (R94). -/
def execJmpi (a : Reg) (s : State) : Host.Outcome State Fault Refusal :=
  finish s (s.short (.jmpi a) (fun _ => false) (fun c => c.jumpChecks (c.t.rd a).toNat) fun c t => t.jump (c.t.rd a).toNat)

/-- CALLI (R94). -/
def execCalli (a : Reg) (s : State) : Host.Outcome State Fault Refusal :=
  finish s (s.spills (s.short (.calli a) (fun _ => false) (fun c => let v := (c.t.rd a).toNat; c.jumpChecks v ++ c.fullStack v)
    fun c t => (t.push (c.t.pc + 4)).jump (c.t.rd a).toNat))

/-- In trap mode a RET at the depth saved at trap entry takes PERMISSION (R281); a popped PC outside the code section takes it by R81. -/
def Ctx.retChecks (c : Ctx) : List Fail :=
  match c.t.trap, c.t.stack with
  | some m, st => if st.length = m.depth then [Cause.permission.at_ (Config.openTaddr 0).toNat] else match st with
    | (pc, _) :: _ => c.badTarget pc
    | [] => []
  | none, (pc, _) :: _ => c.badTarget pc
  | none, [] => []

/-- RET (R82, R94): it pops an entry, or ends the thread as EXIT does at depth 0. -/
def execRet (s : State) : Host.Outcome State Fault Refusal :=
  finish s (s.spills (s.short .ret (fun _ => false) Ctx.retChecks fun c t =>
    match t.stack with
    | (pc, wbase) :: rest => { t.jump pc with wbase := wbase, stack := rest }
    | [] => c.t.exit t))

/-! ## Guards and traps -/

/-- GRD (R91): the value is latched with the count; only an active thread sets it. -/
def execGrd (p : BitVec 3) (neg : Bool) (cnt : BitVec 3) (s : State) : Host.Outcome State Fault Refusal :=
  s.plain (.grd p neg cnt) fun c t => { t with gval := c.t.predN p neg, gcnt := cnt.toNat + 1 }

/-- TRAP: USER_TRAP with the number. -/
def execTrap (n : BitVec 14) (s : State) : Host.Outcome State Fault Refusal :=
  finish s (s.short (.trap n) (fun _ => true) (fun _ => [Cause.userTrap.at_ n.toNat]) fun _ t => t)

/-- BRK: BREAKPOINT, or a breakpoint fault record when the grid is under debug and the thread not in trap mode (State.takeCause). -/
def execBrk (s : State) : Host.Outcome State Fault Refusal :=
  finish s (s.short .brk (fun _ => true) (fun _ => [Cause.breakpoint.at_ 0]) fun _ t => t)

/-- The checks of TRET; a skip past the last word takes PERMISSION by R81. -/
def Ctx.tretChecks (c : Ctx) : List Fail :=
  match c.t.trap with
  | none => [Cause.privilege.at_ 0]
  | some m =>
    when (c.t.stack.length ≠ m.depth) (Cause.permission.at_ (Config.openTaddr 1).toNat)
      ++ when (m.tinfo && c.code.size ≤ m.tpc + 4) (Cause.permission.at_ (m.tpc + 4))

/-- TRET: it waits for the open pending sets, then leaves trap mode. -/
def execTret (s : State) : Host.Outcome State Fault Refusal :=
  finish s (s.short .tret (fun _ => false) Ctx.tretChecks fun c _ =>
    if c.t.awaiting then { c.t with status := .draining .tret } else c.t.leaveTrap)

end Sys2Proof.Machine
end

