-- ==== Sys2Proof/Machine/Collective.lean ====
section
/-! DEFINITION. The cohort collectives (05, R91 to R94): they act on the members of one cohort that stand in the gang. -/

namespace Sys2Proof.Machine

/-- The members of a thread's cohort that the gang holds: present at the word, active or guarded off. -/
def State.present_ (s : State) (c : Ctx) : List Thread :=
  s.threads.filter fun u => s.gang.contains u.ref && u.ofTeam c.t.ref.grid c.t.ref.team && u.cohort == c.t.cohort && u.status == .ready

/-- The active members: not guarded off, and meeting no cause at the word. -/
def State.active (s : State) (i : Instr) (c : Ctx) : List Thread :=
  (s.present_ c).filter fun u => !u.guardedOff && ({ c with t := u }.shared i).isEmpty

/-- The member at a lane. -/
def atLane (ms : List Thread) (k : Nat) : Option Thread := ms.find? fun u => u.lane = k

/-- The active members in ascending lane order. -/
def State.lanes (s : State) (i : Instr) (c : Ctx) : List Thread := let ms := s.active i c; (List.range 64).filterMap (atLane ms)

/-- A collective that writes one register of each active member. -/
def State.collect (s : State) (i : Instr) (d : Reg) (v : Ctx → List Thread → W32) : Host.Outcome State Fault Refusal :=
  s.plain i fun c t => t.wr d (v c (s.lanes i c))

/-- A collective that writes one predicate of each active member. -/
def State.vote (s : State) (i : Instr) (p : BitVec 3) (v : Ctx → List Thread → Bool) : Host.Outcome State Fault Refusal :=
  s.plain i fun c t => t.setPred p (v c (s.lanes i c))

/-- CSYNC: nothing beyond the convergence. -/
def execCsync (s : State) : Host.Outcome State Fault Refusal := s.plain .csync fun _ t => t

/-- CPICK: true in the active member with the lowest lane, false in every other. -/
def execCpick (p : BitVec 3) (s : State) : Host.Outcome State Fault Refusal :=
  s.vote (.cpick p) p fun c ms => (ms.head?.map (·.ref)) == some c.t.ref

/-- PALL: true in every active member; true when there is none. -/
def execPall (p q : BitVec 3) (neg : Bool) (s : State) : Host.Outcome State Fault Refusal :=
  s.vote (.pall p q neg) p fun _ ms => ms.all fun u => u.predN q neg

/-- PANY: true in some active member. -/
def execPany (p q : BitVec 3) (neg : Bool) (s : State) : Host.Outcome State Fault Refusal :=
  s.vote (.pany p q neg) p fun _ ms => ms.any fun u => u.predN q neg

/-- PSAME: one value across the active members. -/
def execPsame (p q : BitVec 3) (neg : Bool) (s : State) : Host.Outcome State Fault Refusal :=
  s.vote (.psame p q neg) p fun _ ms => ms.all (fun u => u.predN q neg) || !(ms.any fun u => u.predN q neg)

/-- BALLOT: bit i is set when lane i is active and the predicate is true there. -/
def execBallot (d : Reg) (q : BitVec 3) (neg : Bool) (s : State) : Host.Outcome State Fault Refusal :=
  s.plain (.ballot d q neg) fun c t =>
    t.wr64 d (BitVec.ofNat 64 (((s.lanes (.ballot d q neg) c).map fun u => if u.predN q neg then 2 ^ u.lane else 0).sum))

/-- The source lane of XLANE; none when it is out of range. -/
def sourceLane (o : XlaneOp) (i : Nat) (k : Nat) : Option Nat :=
  match o with
  | .at => some (k % 64)
  | .below => if k ≤ i then some (i - k) else none
  | .above => if i + k ≤ 63 then some (i + k) else none
  | .flip => some (i ^^^ (k % 64))

/-- XLANE: field A of the source lane through that lane's own WBASE; 0 from an exited lane, and beyond its allocation. -/
def execXlane (o : XlaneOp) (d a b : Reg) (s : State) : Host.Outcome State Fault Refusal :=
  s.plain (.xlane o d a b) fun c t =>
    t.wr d (match sourceLane o c.t.lane (c.t.rd b).toNat with
      | none => c.t.rd a
      | some j => match atLane (s.present_ c) j with
        | none => 0
        | some u => u.rd a)

/-- The combination of CRED, exact and independent of order. -/
def credCombine (o : CredOp) (x y : W32) : W32 :=
  match o with
  | .add => x + y
  | .min => if x.slt y then x else y
  | .max => if x.slt y then y else x
  | .minu => if x.ult y then x else y
  | .maxu => if x.ult y then y else x
  | .and => x &&& y
  | .or => x ||| y
  | .xor => x ^^^ y

/-- A list folded from its first element. -/
def fold1 (f : W32 → W32 → W32) : List W32 → W32
  | [] => 0
  | x :: xs => xs.foldl f x

/-- CRED. -/
def execCred (o : CredOp) (d a : Reg) (s : State) : Host.Outcome State Fault Refusal :=
  s.collect (.cred o d a) d fun _ ms => fold1 (credCombine o) (ms.map fun u => u.rd a)

/-- Combine of FREDX: an absent lane gives the other's value. -/
def fredxCombine (o : FredxOp) : Option Nat → Option Nat → Option Nat
  | none, b => b
  | a, none => a
  | some a, some b => some (match o with | .add => fp32.add a b | .min => fp32.min a b | .max => fp32.max a b)

/-- One stage of the butterfly: lanes i and i + 2^k combine, the lower lane first. -/
def butterfly (o : FredxOp) (k : Nat) (x : List (Option Nat)) : List (Option Nat) :=
  (List.range 64).map fun i =>
    let lo := if i.testBit k then i - 2 ^ k else i
    fredxCombine o (x.getD lo none) (x.getD (lo + 2 ^ k) none)

/-- FREDX: the fixed butterfly on lane numbers, no flush. -/
def execFredx (o : FredxOp) (d a : Reg) (s : State) : Host.Outcome State Fault Refusal :=
  s.collect (.fredx o d a) d fun _ ms =>
    let x0 := (List.range 64).map fun k => (atLane ms k).map fun u => (u.rd a).toNat
    BitVec.ofNat 32 ((((List.range 6).foldl (fun x k => butterfly o k x) x0).getD 0 none).getD 0)

/-- SCAN.ADD: the active members below. -/
def execScanAdd (d a : Reg) (s : State) : Host.Outcome State Fault Refusal :=
  s.collect (.scanAdd d a) d fun c ms => ((ms.filter fun u => u.lane < c.t.lane).map fun u => u.rd a).foldl (· + ·) 0

/-- SCAN.ADDI: the active members at or below. -/
def execScanAddi (d a : Reg) (s : State) : Host.Outcome State Fault Refusal :=
  s.collect (.scanAddi d a) d fun c ms => ((ms.filter fun u => u.lane ≤ c.t.lane).map fun u => u.rd a).foldl (· + ·) 0

end Sys2Proof.Machine
end

