-- ==== Sys2Proof/Machine/FloatWords.lean ====
section
/-! DEFINITION. The FP32, packed 16-bit, FP64 and conversion words (06, R100 to R107): special operands of R103, FI and FO of R102. -/

namespace Sys2Proof.Machine

/-- An operand or result flushed when its flag asks it (R102), FP32. -/
def fz (on : Bool) (w : Nat) : Nat := fp32.flush on w

/-- An FP32 word of three operands: FI before, FO after. -/
def State.fpa (s : State) (i : Instr) (fi fo : Bool) (d a b : Reg) (f : Nat → Nat → Nat → Nat) : Host.Outcome State Fault Refusal :=
  s.write1 i d fun t => BitVec.ofNat 32 (fz fo (f (fz fi (t.rd a).toNat) (fz fi (t.rd b).toNat) (fz fi (t.rd d).toNat)))

/-- An FP32 function of one operand. -/
def State.fpu (s : State) (i : Instr) (fi fo : Bool) (d a : Reg) (f : Nat → Nat) : Host.Outcome State Fault Refusal :=
  s.write1 i d fun t => BitVec.ofNat 32 (fz fo (f (fz fi (t.rd a).toNat)))

/-- One half of a packed word (R117 of 06). -/
def half (x : W32) (high : Bool) : Nat := if high then x.toNat / 65536 else x.toNat % 65536

/-- A packed word: each half apart, in its format. -/
def packed (fmt : Fmt) (fi fo : Bool) (f : Nat → Nat → Nat → Nat) (x y z : W32) : W32 :=
  let one (h : Bool) : Nat := fmt.flush fo (f (fmt.flush fi (half x h)) (fmt.flush fi (half y h)) (fmt.flush fi (half z h)))
  BitVec.ofNat 32 (one true * 65536 + one false)

/-- A packed word of a gang. -/
def State.hp2 (s : State) (i : Instr) (fmt : Fmt) (fi fo : Bool) (d a b : Reg) (f : Nat → Nat → Nat → Nat) : Host.Outcome State Fault Refusal :=
  s.write1 i d fun t => packed fmt fi fo f (t.rd a) (t.rd b) (t.rd d)

/-- An FP64 word on pairs. -/
def State.dpa (s : State) (i : Instr) (fi fo : Bool) (d a b : Reg) (f : Nat → Nat → Nat → Nat) : Host.Outcome State Fault Refusal :=
  s.write2 i d fun t => BitVec.ofNat 64
    (fp64.flush fo (f (fp64.flush fi (t.rd64 a).toNat) (fp64.flush fi (t.rd64 b).toNat) (fp64.flush fi (t.rd64 d).toNat)))

/-! ## FPA -/

/-- FADD. -/
def execFadd (fi fo : Bool) (d a b : Reg) (s : State) : Host.Outcome State Fault Refusal := s.fpa (.fadd fi fo d a b) fi fo d a b (fun x y _ => fp32.add x y)

/-- FSUB. -/
def execFsub (fi fo : Bool) (d a b : Reg) (s : State) : Host.Outcome State Fault Refusal := s.fpa (.fsub fi fo d a b) fi fo d a b (fun x y _ => fp32.sub x y)

/-- FMUL. -/
def execFmul (fi fo : Bool) (d a b : Reg) (s : State) : Host.Outcome State Fault Refusal := s.fpa (.fmul fi fo d a b) fi fo d a b (fun x y _ => fp32.mul x y)

/-- FFMA. -/
def execFfma (fi fo : Bool) (d a b : Reg) (s : State) : Host.Outcome State Fault Refusal := s.fpa (.ffma fi fo d a b) fi fo d a b (fp32.fma)

/-- FFMS. -/
def execFfms (fi fo : Bool) (d a b : Reg) (s : State) : Host.Outcome State Fault Refusal := s.fpa (.ffms fi fo d a b) fi fo d a b (fp32.fms)

/-- FMIN. -/
def execFmin (fi fo : Bool) (d a b : Reg) (s : State) : Host.Outcome State Fault Refusal := s.fpa (.fmin fi fo d a b) fi fo d a b (fun x y _ => fp32.min x y)

/-- FMAX. -/
def execFmax (fi fo : Bool) (d a b : Reg) (s : State) : Host.Outcome State Fault Refusal := s.fpa (.fmax fi fo d a b) fi fo d a b (fun x y _ => fp32.max x y)

/-! ## FPU1 -/

/-- FABS: bit 31 cleared, a NaN too. -/
def execFabs (d a : Reg) (s : State) : Host.Outcome State Fault Refusal := s.write1 (.fabs d a) d fun t => t.rd a &&& 0x7FFFFFFF

/-- FNEG: bit 31 inverted, a NaN too. -/
def execFneg (d a : Reg) (s : State) : Host.Outcome State Fault Refusal := s.write1 (.fneg d a) d fun t => t.rd a ^^^ 0x80000000

/-- FRCP (R105, R106). -/
def execFrcp (fi fo : Bool) (d a : Reg) (s : State) : Host.Outcome State Fault Refusal := s.fpu (.frcp fi fo d a) fi fo d a (fun x => fp32.round (fp32.val x).recip)

/-- FRSQ (R105, R106). -/
def execFrsq (fi fo : Bool) (d a : Reg) (s : State) : Host.Outcome State Fault Refusal := s.fpu (.frsq fi fo d a) fi fo d a (fun x => fp32.round (fp32.val x).rsqrt)

/-- FSQRT (R105, R106). -/
def execFsqrt (fi fo : Bool) (d a : Reg) (s : State) : Host.Outcome State Fault Refusal := s.fpu (.fsqrt fi fo d a) fi fo d a (fun x => fp32.round (fp32.val x).sqrt)

/-- FEX2 (R105, R106). -/
def execFex2 (fi fo : Bool) (d a : Reg) (s : State) : Host.Outcome State Fault Refusal := s.fpu (.fex2 fi fo d a) fi fo d a (fun x => fex2Word (BitVec.ofNat 32 x))

/-- FLG2 (R105, R106). -/
def execFlg2 (fi fo : Bool) (d a : Reg) (s : State) : Host.Outcome State Fault Refusal := s.fpu (.flg2 fi fo d a) fi fo d a (fun x => flg2Word (BitVec.ofNat 32 x))

/-- FTANH (R105, R106). -/
def execFtanh (fi fo : Bool) (d a : Reg) (s : State) : Host.Outcome State Fault Refusal := s.fpu (.ftanh fi fo d a) fi fo d a (fun x => ftanhWord (BitVec.ofNat 32 x))

/-- FRNDNE (R105, R106). -/
def execFrndNe (fi fo : Bool) (d a : Reg) (s : State) : Host.Outcome State Fault Refusal := s.fpu (.frndNe fi fo d a) fi fo d a (fp32.integral .ne)

/-- FRNDZ (R105, R106). -/
def execFrndZ (fi fo : Bool) (d a : Reg) (s : State) : Host.Outcome State Fault Refusal := s.fpu (.frndZ fi fo d a) fi fo d a (fp32.integral .z)

/-- FRNDDN (R105, R106). -/
def execFrndDn (fi fo : Bool) (d a : Reg) (s : State) : Host.Outcome State Fault Refusal := s.fpu (.frndDn fi fo d a) fi fo d a (fp32.integral .dn)

/-- FRNDUP (R105, R106). -/
def execFrndUp (fi fo : Bool) (d a : Reg) (s : State) : Host.Outcome State Fault Refusal := s.fpu (.frndUp fi fo d a) fi fo d a (fp32.integral .up)

/-- FSIN (R105, R106). -/
def execFsin (fi fo : Bool) (d a : Reg) (s : State) : Host.Outcome State Fault Refusal := s.fpu (.fsin fi fo d a) fi fo d a (fun x => trigWord false (BitVec.ofNat 32 x))

/-- FCOS (R105, R106). -/
def execFcos (fi fo : Bool) (d a : Reg) (s : State) : Host.Outcome State Fault Refusal := s.fpu (.fcos fi fo d a) fi fo d a (fun x => trigWord true (BitVec.ofNat 32 x))

/-! ## FCMP -/

/-- FCMP. -/
def execFcmp (c : FpCond) (m : Combine) (fi : Bool) (p : BitVec 3) (a b : Reg) (s : State) : Host.Outcome State Fault Refusal :=
  s.writeP (.fcmp c m fi p a b) p fun t => combine m (fpCond fp32 c (fz fi (t.rd a).toNat) (fz fi (t.rd b).toNat)) (t.pred p)

/-! ## Packed 16-bit words -/

/-- PADD.H. -/
def execPaddH (fi fo : Bool) (d a b : Reg) (s : State) : Host.Outcome State Fault Refusal := s.hp2 (.paddH fi fo d a b) fp16 fi fo d a b (fun x y _ => fp16.add x y)

/-- PMUL.H. -/
def execPmulH (fi fo : Bool) (d a b : Reg) (s : State) : Host.Outcome State Fault Refusal := s.hp2 (.pmulH fi fo d a b) fp16 fi fo d a b (fun x y _ => fp16.mul x y)

/-- PFMA.H. -/
def execPfmaH (fi fo : Bool) (d a b : Reg) (s : State) : Host.Outcome State Fault Refusal := s.hp2 (.pfmaH fi fo d a b) fp16 fi fo d a b (fp16.fma)

/-- PMAX.H. -/
def execPmaxH (fi fo : Bool) (d a b : Reg) (s : State) : Host.Outcome State Fault Refusal := s.hp2 (.pmaxH fi fo d a b) fp16 fi fo d a b (fun x y _ => fp16.max x y)

/-- PADD.B. -/
def execPaddB (fi fo : Bool) (d a b : Reg) (s : State) : Host.Outcome State Fault Refusal := s.hp2 (.paddB fi fo d a b) bf16 fi fo d a b (fun x y _ => bf16.add x y)

/-- PMUL.B. -/
def execPmulB (fi fo : Bool) (d a b : Reg) (s : State) : Host.Outcome State Fault Refusal := s.hp2 (.pmulB fi fo d a b) bf16 fi fo d a b (fun x y _ => bf16.mul x y)

/-- PFMA.B. -/
def execPfmaB (fi fo : Bool) (d a b : Reg) (s : State) : Host.Outcome State Fault Refusal := s.hp2 (.pfmaB fi fo d a b) bf16 fi fo d a b (bf16.fma)

/-- PMAX.B. -/
def execPmaxB (fi fo : Bool) (d a b : Reg) (s : State) : Host.Outcome State Fault Refusal := s.hp2 (.pmaxB fi fo d a b) bf16 fi fo d a b (fun x y _ => bf16.max x y)

/-! ## FP64 -/

/-- DADD. -/
def execDadd (fi fo : Bool) (d a b : Reg) (s : State) : Host.Outcome State Fault Refusal := s.dpa (.dadd fi fo d a b) fi fo d a b (fun x y _ => fp64.add x y)

/-- DSUB. -/
def execDsub (fi fo : Bool) (d a b : Reg) (s : State) : Host.Outcome State Fault Refusal := s.dpa (.dsub fi fo d a b) fi fo d a b (fun x y _ => fp64.sub x y)

/-- DMUL. -/
def execDmul (fi fo : Bool) (d a b : Reg) (s : State) : Host.Outcome State Fault Refusal := s.dpa (.dmul fi fo d a b) fi fo d a b (fun x y _ => fp64.mul x y)

/-- DFMA. -/
def execDfma (fi fo : Bool) (d a b : Reg) (s : State) : Host.Outcome State Fault Refusal := s.dpa (.dfma fi fo d a b) fi fo d a b (fp64.fma)

/-- DMIN. -/
def execDmin (fi fo : Bool) (d a b : Reg) (s : State) : Host.Outcome State Fault Refusal := s.dpa (.dmin fi fo d a b) fi fo d a b (fun x y _ => fp64.min x y)

/-- DMAX. -/
def execDmax (fi fo : Bool) (d a b : Reg) (s : State) : Host.Outcome State Fault Refusal := s.dpa (.dmax fi fo d a b) fi fo d a b (fun x y _ => fp64.max x y)

/-- DCMP. -/
def execDcmp (c : FpCond) (m : Combine) (fi : Bool) (p : BitVec 3) (a b : Reg) (s : State) : Host.Outcome State Fault Refusal :=
  s.writeP (.dcmp c m fi p a b) p fun t => combine m (fpCond fp64 c (fp64.flush fi (t.rd64 a).toNat) (fp64.flush fi (t.rd64 b).toNat)) (t.pred p)

/-! ## CVT (R107) -/

/-- A value rounded to an integer of k bits held in its range (R107), as a word. -/
def toWord (k : Nat) (signed : Bool) (r : RMode) (v : FVal) : Nat :=
  let lo : Int := if signed then -(2 ^ (k - 1) : Int) else 0
  let hi : Int := if signed then 2 ^ (k - 1) - 1 else 2 ^ k - 1
  ((v.toInt r lo hi) % (2 ^ k : Int)).toNat

/-- CVT: the word or pair a code gives. -/
def cvtWord (c : CvtCode) (t : Thread) (a b : Reg) : Nat :=
  let w := (t.rd a).toNat
  let p := (t.rd64 a).toNat
  match c with
  | .f32F16 => fp16.to fp32 (w % 65536)
  | .f32Bf16 => bf16.to fp32 (w % 65536)
  | .f16x2F32 => fp32.to fp16 (t.rd b).toNat * 65536 + fp32.to fp16 w
  | .bf16x2F32 => fp32.to bf16 (t.rd b).toNat * 65536 + fp32.to bf16 w
  | .f64F32 => fp32.to fp64 w
  | .f32F64 => fp64.to fp32 p
  | .f32S32 => fp32.round (FVal.ofInt (t.rd a).toInt)
  | .f32U32 => fp32.round (FVal.ofInt w)
  | .s32F32 => toWord 32 true .z (fp32.val w)
  | .u32F32 => toWord 32 false .z (fp32.val w)
  | .s32F32Rn => toWord 32 true .ne (fp32.val w)
  | .f64S32 => fp64.round (FVal.ofInt (t.rd a).toInt)
  | .f64U32 => fp64.round (FVal.ofInt w)
  | .s32F64 => toWord 32 true .z (fp64.val p)
  | .f64S64 => fp64.round (FVal.ofInt (t.rd64 a).toInt)
  | .s64F64 => toWord 64 true .z (fp64.val p)

/-- The code writes a pair. -/
def cvtWide : CvtCode → Bool
  | .f64F32 | .f64S32 | .f64U32 | .f64S64 | .s64F64 => true
  | _ => false

/-- CVT. -/
def execCvt (c : CvtCode) (d a b : Reg) (s : State) : Host.Outcome State Fault Refusal :=
  s.plain (.cvt c d a b) fun _ t =>
    if cvtWide c then t.wr64 d (BitVec.ofNat 64 (cvtWord c t a b)) else t.wr d (BitVec.ofNat 32 (cvtWord c t a b))

end Sys2Proof.Machine
end

