-- ==== Sys2Proof/Machine/Matrix.lean ====
section
/-! DEFINITION. MMA (R150 to R155), its arithmetic (R156 to R162) and operand-fetch faults (R165). -/

namespace Sys2Proof.Machine

/-! ## Operand locations (R152) -/

/-- Bits of an element of a format (R133). -/
def elemBits (fmt : Nat) : Nat :=
  match fmt with
  | 0 | 1 | 5 => 16
  | 2 | 3 => 8
  | 4 => 4
  | 6 => 1
  | _ => 64

/-- The byte ranges of an operand as offsets from BASE: elements, and for scaled formats scales, and for E2M1 index entries. rows start at row0; nsc scales are
provided for each. -/
def operandSpans (v : Reservation) (row0 rows k0 k fmt block nsc : Nat) : List (Nat × Nat) :=
  let last := row0 + rows - 1
  let elems := (row0 * v.stride + k0 * elemBits fmt / 8, last * v.stride + ceilDiv ((k0 + k) * elemBits fmt) 8)
  if block = 0 then [elems]
  else
    let b0 := k0 / block
    let sc := v.scaleOff.getD 0
    let scales := (sc + row0 * v.sstride + b0, sc + last * v.sstride + b0 + nsc)
    if fmt = 4 then
      let ix := v.oidxOff.getD 0
      [elems, scales, (ix + 4 * (row0 * v.sstride + b0), ix + 4 * (last * v.sstride + b0 + ceilDiv k block))]
    else [elems, scales]

/-- The outlier values of an operand. -/
def outlierSpan (v : Reservation) (fmt : Nat) : List (Nat × Nat) :=
  if fmt = 4 then [(v.ovalOff.getD 0, v.ovalOff.getD 0 + 2 * v.ovalCount)] else []

/-! ## The parameter block (R150, R151) -/

/-- The format pairs of R151. -/
def formatPair (a b : Nat) : Bool := (a == b && (a ≤ 1 || (4 ≤ a && a ≤ 7))) || ((a == 2 || a == 3) && (b == 2 || b == 3))

/-- A parameter block's request, before the hurdle and slots are looked at. -/
def mmaOf (c : Ctx) (op since : Nat) (a b : Reservation) (bs : List Byte) : MmaReq :=
  let tile := fld bs 2 1
  let fmt := fld bs 3 1
  let flags := fld bs 0x19 1
  let h := fld bs 0x30 4
  { op := op, cluster := c.cluster, grid := c.t.ref.grid, team := c.t.ref.team, asid := c.asid, system := c.system, a := a, b := b, tile := tile % 4,
    acc := tile.testBit 2, aFmt := fmt % 16, bFmt := fmt / 16, m := fld bs 4 2, n := fld bs 6 2, k := fld bs 8 4, aRow0 := fld bs 0xC 4, ak0 := fld bs 0x10 4,
    bk0 := fld bs 0x14 4, block := fld bs 0x18 1, fi := flags.testBit 0, fo := flags.testBit 1, bop := flags.testBit 2, maskMode := flags / 8 % 4,
    tid := c.t.ref.tid, prio := fld bs 0x1A 1, rowShape := none, colShape := none, rowOrg := fld bs 0x24 4, colOrg := fld bs 0x28 4, maskVal := BitVec.ofNat 32 (fld bs 0x2C 4),
    hurdle := if h = 0xFFFFFFFF then none else some h, begun := false, kDone := 0, passes := 0, running := none, partials := [], since := since }

/-- Fields whose rule needs no reservation. -/
def blockOk (bs : List Byte) (m : MmaReq) : Bool :=
  let slotOk (x : Nat) : Bool := x ≤ 15 || x == 0xFF
  zeroField bs 0x1B 1 && zeroField bs 0x22 2 && zeroField bs 0x34 12 && fld bs 2 1 ≤ 7 && fld bs 0x19 1 ≤ 31 && m.maskMode ≤ 2 && m.prio ≤ 7
    && 1 ≤ m.m && m.m ≤ 256 && 1 ≤ m.n && m.n ≤ (if m.aFmt = 7 then 64 else 128) && 1 ≤ m.k && m.k ≤ 65536 && formatPair m.aFmt m.bFmt
    && slotOk (fld bs 0x20 1) && slotOk (fld bs 0x21 1)

/-- Fields that must agree with the reservations (R151). -/
def MmaReq.agrees (m : MmaReq) (sca scb : Nat) : Bool :=
  let scaled := 2 ≤ m.aFmt && m.aFmt ≤ 4
  m.a.format == m.aFmt && m.b.format == m.bFmt
    && (if scaled then
          (m.block == 16 || m.block == 32) && m.a.block == m.block && m.b.block == m.block && m.a.scaleOff.isSome && m.b.scaleOff.isSome
            && m.ak0 % m.block == 0 && m.bk0 % m.block == 0 && ceilDiv m.k m.block ≤ sca && ceilDiv m.k m.block ≤ scb
            && (m.aFmt != 4 || (m.a.oidxOff.isSome && m.a.ovalOff.isSome && m.b.oidxOff.isSome && m.b.ovalOff.isSome))
        else m.block == 0 && sca == 0 && scb == 0 && (m.aFmt != 6 || (m.ak0 % 8 == 0 && m.bk0 % 8 == 0)))
    && (!(m.aFmt == 5 || m.aFmt == 6) || (!m.fi && !m.fo)) && (m.aFmt != 7 || m.maskMode == 0)

/-- A's ranges. -/
def MmaReq.aSpans (m : MmaReq) (sca : Nat) : List (Nat × Nat) := operandSpans m.a m.aRow0 m.m m.ak0 m.k m.aFmt m.block sca
/-- B's ranges within a slice. -/
def MmaReq.bSpans (m : MmaReq) (scb : Nat) : List (Nat × Nat) := operandSpans m.b 0 1 m.bk0 m.k m.bFmt m.block scb

/-- The read locks (R153): A's ranges; B's, each one entry that holds in every slice it names (log 31). -/
def MmaReq.locks (m : MmaReq) (sca scb : Nat) : List Lock :=
  let aSpace : Space := if m.a.space = 2 then .global m.asid else .obuf m.cluster
  let lock (sp : Space) (lo hi n : Nat) : Lock := { op := m.op, cluster := m.cluster, write := false, space := sp, lo := lo, hi := hi, slices := n }
  ((m.aSpans sca ++ outlierSpan m.a m.aFmt).map fun x => lock aSpace (m.a.base + x.1) (m.a.base + x.2) 1)
    ++ ((m.bSpans scb ++ outlierSpan m.b m.bFmt).map fun x => lock (.bstore m.cluster) (m.b.base + x.1) (m.b.base + x.2) m.n)

/-! ## MMA (R153) -/

/-- The slot's snapshot when the team may name the slot. -/
def State.slotOption (s : State) (c : Ctx) (n : Nat) : Option Shape := if 15 < n then none else s.takeShape c n

/-- The block that the thread's MMA has copied at this stop (R153). -/
def Ctx.mmaBlock (c : Ctx) : Option (List Byte) :=
  match c.t.status, c.t.block with
  | .stopped (.again _ _ _), some (batch, bs) => if batch = c.t.slot.1 then some bs else none
  | _, _ => none

/-- MMA in one thread. OWNED_ELSEWHERE reports the BASE of A's reservation: R153 says only 'the address', DESIGN CHOICE (log 66). -/
def mmaWord (a : Reg) (c : Ctx) (_mark op : Nat) (s : State) : Lane :=
  let o := (c.t.rd a).toNat
  let bad := Cause.mmaParam.at_ o
  if (c.descFails o 64 64).isEmpty then
    let bs := c.mmaBlock.getD (s.teamRead c.team o 64)
    let rm := fld bs 0x20 1
    let rn := fld bs 0x21 1
    let sca := fld bs 0x1C 2
    let scb := fld bs 0x1E 2
    match s.heldReservation c (fld bs 0 1) with
    | some ra =>
      let held := s.heldReservation c (fld bs 1 1)
      let rb := held.getD ra
      let m0 := mmaOf c op (s.clockOf c.die) ra rb bs
      let inside (v : Reservation) (xs : List (Nat × Nat)) : Bool := xs.all fun x => x.2 ≤ v.len
      let hurdleOk := match m0.hurdle with
        | some h => h % 16 = 0 && h + 16 ≤ c.scratchSize
        | none => true
      let ok := held.isSome && blockOk bs m0 && (ra.space = 0 || ra.space = 2) && rb.space = 1 && s.tileHeld c m0.tile && m0.agrees sca scb
        && inside ra (m0.aSpans sca) && inside rb (m0.bSpans scb) && hurdleOk
      let slots := if m0.maskMode = 0 then [] else s.slotFails c rm ++ s.slotFails c rn
      let locks := m0.locks sca scb
      let owned := ra.space = 2 && 1 ≤ m0.m && 1 ≤ m0.k && locks.any fun l => l.space = .global c.asid &&
        s.intervals.any fun i => i.meets c.asid l.lo (l.hi - l.lo) && !i.heldBy c.t.ref.grid c.t.ref.team
      Lane.check (when (!ok) bad ++ slots ++ when owned (Cause.ownedElsewhere.at_ ra.base)) <|
        if s.loadsHeld c.t.ref || 32 ≤ (s.mmas.filter fun m => m.cluster = c.cluster).length || 256 < s.lockCount c.cluster + locks.length then
          .keep (s.modThread c.t.ref fun t => { t with block := some (c.t.slot.1, bs) }) 0
        else
          let x := s.slotOption c rm
          let y := s.slotOption c rn
          let s3 := s.settleLoads c.t.ref
          let s4 := if ra.space = 2 then s3.writeBack fun d => d.core = c.core && d.asid = c.asid && decide (ra.base ≤ d.va ∧ d.va < ra.base + ra.len) else s3
          .pass { s4 with mmas := s4.mmas ++ [{ m0 with rowShape := x, colShape := y }], locks := s4.locks ++ locks }
    | none => .fail [bad]
  else .fail (c.descFails o 64 64)

/-- MMA. -/
def execMma (l : BitVec 4) (a : Reg) (s : State) : Host.Outcome State Fault Refusal := s.long (.mma l a) (mmaWord a)

/-! ## Reading operands -/

/-- n bytes of an operand at an offset from BASE; idx is the column of B. A failure carries the cause and the address or buffer offset (R165). -/
def State.operandBytes (s : State) (m : MmaReq) (v : Reservation) (idx off n : Nat) : Except (Nat × Nat) (List Byte) :=
  match v.space with
  | 0 => .ok (s.rd (obufKey m.cluster (v.base + off)) n)
  | 1 => .ok (s.rd (bstoreKey m.cluster (idx * 0x40000 + v.base + off)) n)
  | _ =>
    let core := ((s.team? m.grid m.team).map (·.lastCore)).getD 0
    let chunks := pageChunks (v.base + off) n
    gatherFrom (fun i => match chunks[i]? with
      | none => .ok []
      | some x => match s.resolve core m.asid m.system x.1 x.2 .read with
        | .error _ => .error (0x1C, x.1)
        | .ok p => .ok (s.homeRead p.key x.2)) 0 chunks.length

/-- Codes of elements k0 to k1 of an operand row (B: column idx). -/
def State.operandCodes (s : State) (m : MmaReq) (v : Reservation) (fmt row idx kb k0 k1 : Nat) : Except (Nat × Nat) (List Nat) :=
  let bits := elemBits fmt
  let lo := (kb + k0) * bits / 8
  match s.operandBytes m v idx (row * v.stride + lo) (ceilDiv ((kb + k1) * bits) 8 - lo) with
  | .error f => .error f
  | .ok bs =>
    let all := leNat bs
    .ok ((List.range (k1 - k0)).map fun i => all / 2 ^ ((kb + k0 + i) * bits - 8 * lo) % 2 ^ bits)

/-- An element's value and whether it is a subnormal of its format (R156). -/
def elementVal (fmt code : Nat) : FVal × Bool :=
  match fmt with
  | 0 => (bf16.val code, bf16.isSub code)
  | 1 => (fp16.val code, fp16.isSub code)
  | 2 => (e4m3Val code, decide (0 < code % 128 ∧ code % 128 < 8))
  | 3 => (e5m2.val code, e5m2.isSub code)
  | _ => (e2m1Val code, code % 8 == 1)

/-- FI (R156): a subnormal becomes a zero of its sign. -/
def flushVal (fi : Bool) (x : FVal × Bool) : FVal :=
  match x with
  | (.num neg _ e, true) => if fi then .num neg 0 e else x.1
  | (v, _) => v

/-- The values of a block with E2M1 escapes replaced by the block's outliers in ascending k (R135); outs are the BF16 words from FIRST on. -/
def withOutliers (fi : Bool) (outs : Nat → Nat) : List Nat → Nat → List FVal
  | [], _ => []
  | c :: cs, n =>
    if c = 8 then flushVal fi (bf16.val (outs n), bf16.isSub (outs n)) :: withOutliers fi outs cs (n + 1)
    else flushVal fi (elementVal 4 c) :: withOutliers fi outs cs n

/-- One scale block of an operand row: its values, scaled; a wrong index entry is an operand-fetch fault (R165). Of several faults of a pass the record names the
first in this order, A's rows before B's, lowest row first, and for a wrong index entry the entry's address: the spec does not say which, DESIGN CHOICE (log 67). -/
def State.blockVals (s : State) (m : MmaReq) (v : Reservation) (fmt row idx b : Nat) (codes : List Nat) : Except (Nat × Nat) (List FVal) :=
  let at_ := row * v.sstride + b
  match s.operandBytes m v idx (v.scaleOff.getD 0 + at_) 1 with
  | .error f => .error f
  | .ok sc =>
    let scale := e8m0Val (leNat sc)
    let scaled (xs : List FVal) : List FVal := xs.map fun x => if scale = .nan then .nan else x.mul scale
    if fmt ≠ 4 then .ok (scaled (codes.map fun c => flushVal m.fi (elementVal fmt c)))
    else match s.operandBytes m v idx (v.oidxOff.getD 0 + 4 * at_) 4 with
      | .error f => .error f
      | .ok e =>
        let first := leNat e / 256
        let count := leNat e % 256
        let entry := v.base + v.oidxOff.getD 0 + 4 * at_ + (if v.space = 1 then idx * 0x40000 else 0)
        if (codes.filter (· = 8)).length ≠ count || v.ovalCount < first + count then .error (0x1C, entry)
        else match s.operandBytes m v idx (v.ovalOff.getD 0 + 2 * first) (2 * count) with
          | .error f => .error f
          | .ok outs => .ok (scaled (withOutliers m.fi (fun n => fld outs (2 * n) 2) codes 0))

/-- The values of elements k0 to k1 of an operand row, for formats 0 to 4. -/
def State.rowVals (s : State) (m : MmaReq) (v : Reservation) (fmt row idx kb k0 k1 : Nat) : Except (Nat × Nat) (List FVal) :=
  match s.operandCodes m v fmt row idx kb k0 k1 with
  | .error f => .error f
  | .ok codes =>
    if m.block = 0 then .ok (codes.map fun c => flushVal m.fi (elementVal fmt c))
    else gatherFrom (fun i => s.blockVals m v fmt row idx ((kb + k0) / m.block + i) ((codes.drop (i * m.block)).take m.block)) 0
      (ceilDiv codes.length m.block)

/-! ## Arithmetic (R157 to R161) -/

/-- Elements of a group (R157). -/
def groupSize (fmt : Nat) : Nat :=
  match fmt with
  | 0 | 1 => 16
  | 2 | 3 => 32
  | _ => 64

/-- A list cut into groups of g; fuel: how many. -/
def groupsOf {α : Type} (g : Nat) : Nat → List α → List (List α)
  | 0, _ => []
  | _, [] => []
  | fuel + 1, x :: xs => (x :: xs).take g :: groupsOf g fuel ((x :: xs).drop g)

/-- The group sum, rounded to FP32 (R157). -/
def groupSum (terms : List FVal) : Nat :=
  match terms with
  | [] => 0
  | t :: ts => fp32.round (ts.foldl FVal.add t)

/-- One element of formats 0 to 4 over a pass (R158). -/
def accumulate (g : Nat) (fo : Bool) (acc : Option Nat) (terms : List FVal) : Option Nat :=
  (groupsOf g terms.length terms).foldl (fun acc ts =>
    let x := groupSum ts
    some (fp32.flush fo (match acc with
      | none => x
      | some y => fp32.add y x))) acc

/-- One FP64 element over a pass (R159). -/
def accumulate64 (fo : Bool) (acc : Option Nat) (terms : List (Nat × Nat)) : Option Nat :=
  terms.foldl (fun acc t => some (fp64.flush fo (match acc with
    | none => fp64.mul t.1 t.2
    | some y => fp64.fma t.1 t.2 y))) acc

/-- One RES16 step (R160). -/
def resStep (acc : Nat) (t : Nat × Nat) : Nat :=
  let q (sh bits md : Nat) : Nat := (acc / 2 ^ sh % 2 ^ bits + t.1 / 2 ^ sh % 2 ^ bits * (t.2 / 2 ^ sh % 2 ^ bits)) % md
  let poison := acc.testBit 31 || resPoison t.1 || resPoison t.2
  q 0 5 31 + 32 * q 5 5 32 + 1024 * q 10 6 33 + (if poison then 2 ^ 31 else 0)

/-- One binary step (R161). -/
def bitStep (bop : Bool) (acc : Nat) (t : Nat × Nat) : Nat := (acc + (if bop then t.1 * t.2 else (t.1 + t.2) % 2)) % 2 ^ 32

/-- One integer element over a pass. -/
def accumulateInt (step : Nat → Nat × Nat → Nat) (acc : Option Nat) (terms : List (Nat × Nat)) : Option Nat :=
  some (terms.foldl step (acc.getD 0))

/-- What an element starts from: the tile's value, or empty (R158). -/
def State.accStart (s : State) (m : MmaReq) (i j : Nat) : Option Nat :=
  if !m.acc then none
  else if m.aFmt = 7 then some (s.tileWord m.cluster m.tile i (2 * j) + 2 ^ 32 * s.tileWord m.cluster m.tile i (2 * j + 1))
  else some (s.tileWord m.cluster m.tile i j)

/-- The partial result of an element before a pass. -/
def State.partialAt (s : State) (m : MmaReq) (i j : Nat) : Option Nat :=
  if m.kDone = 0 then s.accStart m i j else ((m.partials[i * m.n + j]?).bind (·.2)).map (·.toNat)

/-- The rows of one operand over a pass: their values, for formats 0 to 4. -/
def State.passVals (s : State) (m : MmaReq) (isB : Bool) (k0 k1 : Nat) : Except (Nat × Nat) (List (List FVal)) :=
  gatherFrom (fun i => match (if isB then s.rowVals m m.b m.bFmt 0 i m.bk0 k0 k1 else s.rowVals m m.a m.aFmt (m.aRow0 + i) i m.ak0 k0 k1) with
    | .error f => .error f
    | .ok xs => .ok [xs]) 0 (if isB then m.n else m.m)

/-- The rows of one operand over a pass: their codes, for formats 5 to 7; FI flushes FP64. -/
def State.passCodes (s : State) (m : MmaReq) (isB : Bool) (k0 k1 : Nat) : Except (Nat × Nat) (List (List Nat)) :=
  gatherFrom (fun i =>
    match (if isB then s.operandCodes m m.b m.bFmt 0 i m.bk0 k0 k1 else s.operandCodes m m.a m.aFmt (m.aRow0 + i) i m.ak0 k0 k1) with
    | .error f => .error f
    | .ok xs => .ok [if m.aFmt = 7 then xs.map (fp64.flush m.fi) else xs]) 0 (if isB then m.n else m.m)

/-- The sides of reading k values k0 to k1 of an operand row in global memory: its elements, and the scales and index entries of its blocks (R17). -/
def State.noteRow (s : State) (m : MmaReq) (v : Reservation) (fmt row kb k0 k1 : Nat) : State :=
  let note (s : State) (off n : Nat) : State := s.noteVa (((s.team? m.grid m.team).map (·.lastCore)).getD 0) m.asid m.system (v.base + off) n
  let lo := (kb + k0) * elemBits fmt / 8
  let s1 := note s (row * v.stride + lo) (ceilDiv ((kb + k1) * elemBits fmt) 8 - lo)
  if m.block = 0 || 4 < fmt then s1
  else
    let b := row * v.sstride + (kb + k0) / m.block
    let n := ceilDiv (k1 - k0) m.block
    let s2 := note s1 (v.scaleOff.getD 0 + b) n
    if fmt ≠ 4 then s2
    else (List.range n).foldl (fun s1 i => match s.operandBytes m v 0 (v.oidxOff.getD 0 + 4 * (b + i)) 4 with
      | .ok e => note s1 (v.ovalOff.getD 0 + 2 * (leNat e / 256)) (2 * (leNat e % 256))
      | .error _ => s1) (note s2 (v.oidxOff.getD 0 + 4 * b) (4 * n))

/-- The sides of a pass's reads of streamed A operands and of B operands in global memory. -/
def State.notePass (s : State) (m : MmaReq) : State :=
  let k0 := m.kDone
  let k1 := min (k0 + 512) m.k
  let s1 := if m.a.space = 2 then (List.range m.m).foldl (fun s i => s.noteRow m m.a m.aFmt (m.aRow0 + i) m.ak0 k0 k1) s else s
  if m.b.space = 2 then s1.noteRow m m.b m.bFmt 0 m.bk0 k0 k1 else s1

/-- Every element of the tile after a pass, row by row. -/
def State.eachElement {α : Type} (s : State) (m : MmaReq) (as bs : List (List α)) (f : Option Nat → List α → List α → Option Nat) :
    List (Nat × Option W64) :=
  as.zipIdx.flatMap fun a => bs.zipIdx.map fun b =>
    (a.2 * m.n + b.2, (f (s.partialAt m a.2 b.2) a.1 b.1).map (BitVec.ofNat 64))

/-- The results of the pass under way: the k values from kDone on (R154). -/
def State.computePass (s : State) (m : MmaReq) : Except (Nat × Nat) (List (Nat × Option W64)) :=
  let k0 := m.kDone
  let k1 := min (k0 + 512) m.k
  if m.aFmt ≤ 4 then
    match s.passVals m false k0 k1, s.passVals m true k0 k1 with
    | .ok as, .ok bs => .ok (s.eachElement m as bs fun acc x y => accumulate (groupSize m.aFmt) m.fo acc (List.zipWith FVal.mul x y))
    | .error f, _ => .error f
    | _, .error f => .error f
  else
    match s.passCodes m false k0 k1, s.passCodes m true k0 k1 with
    | .ok as, .ok bs =>
      .ok (s.eachElement m as bs fun acc x y =>
        match m.aFmt with
        | 5 => accumulateInt resStep acc (x.zip y)
        | 6 => accumulateInt (bitStep m.bop) acc (x.zip y)
        | _ => accumulate64 m.fo acc (x.zip y))
    | .error f, _ => .error f
    | _, .error f => .error f

/-! ## Passes (R154, R155) -/

/-- The request is the earliest pending operation on its tile and its locks are granted. -/
def State.eligible (s : State) (m : MmaReq) : Bool :=
  s.tileFirst m.cluster m.tile m.op && s.granted m.op && !s.earlierPending ⟨m.grid, m.team, m.tid⟩ m.op

/-- A request's record put in place. -/
def State.putMma (s : State) (m : MmaReq) : State := { s with mmas := updWhere (fun x => x.op = m.op) (fun _ => m) s.mmas }

/-- Steps 3 and 4 of R155: locks and entry go, then one relaxed arrival with the flags. -/
def State.endMma (s : State) (m : MmaReq) (flags : Nat) : State :=
  let s1 := ((({ s with mmas := s.mmas.filter fun x => x.op ≠ m.op } : State).unlock m.op).settleTiles m.cluster).freeReservations
  match m.hurdle with
  | some h => s1.arrive m.grid m.team h 1 [] [] flags
  | none => s1

/-- Masked elements and then the tile written, its kind set (R155, R162). -/
def State.writeTile (s : State) (m : MmaReq) : State :=
  let s1 := m.partials.foldl (fun s x =>
    let i := x.1 / m.n
    let j := x.1 % m.n
    let v := (x.2.getD 0).toNat
    if m.aFmt = 7 then s.wr (tileKey m.cluster m.tile (i * 512 + 8 * j)) (leBytes v 8)
    else
      let w := if m.maskMode ≠ 0 && selected m.rowShape m.colShape m.maskMode (m.rowOrg + i) (m.colOrg + j) then m.maskVal.toNat else v
      s.wr (tileKey m.cluster m.tile (i * 512 + 4 * j)) (leBytes w 4)) s
  s1.setTileKind m.cluster m.tile (kindOfFormat m.aFmt)

/-- A request that becomes eligible is judged: with ACC on a tile of another kind it ends at once with ERR (R155). -/
def State.judge (s : State) (m : MmaReq) : State :=
  let k := s.tileKind m.cluster m.tile
  if m.begun || !s.eligible m then s
  else if m.acc && k ≠ .cleared && k ≠ kindOfFormat m.aFmt then s.endMma m 2
  else s.putMma { m with begun := true }

/-- The effective priority of a request at a clock (R154). -/
def MmaReq.rank (m : MmaReq) (now : Nat) : Nat := min 15 (m.prio + (now - m.since) / 4096)

/-- Cycles of a pass over kk values of k (R154). -/
def passCycles (fmt kk : Nat) : Nat :=
  32 + match fmt with
  | 0 | 1 => kk
  | 2 | 3 => ceilDiv kk 2
  | 4 | 5 => ceilDiv kk 4
  | 6 => ceilDiv kk 16
  | _ => 16 * kk

/-- The request the arbiter grants: the highest rank, then the earliest registered. -/
def bestMma (now : Nat) (ms : List MmaReq) : Option MmaReq :=
  ms.foldl (fun best m => match best with
    | none => some m
    | some b => if b.rank now < m.rank now || (b.rank now = m.rank now && m.op < b.op) then some m else some b) none

/-- MMA_PASS (subject: cluster): requests that became eligible are judged; when the array is free, one is granted a pass. -/
def execMmaPass (s : State) : Host.Outcome State Fault Refusal :=
  let cl := s.subj 0
  let s1 := (s.mmas.filter fun m => m.cluster = cl).foldl State.judge s
  let now := s1.clockOf (dieOfCluster cl)
  finish s (if s1.mmas.any fun m => m.cluster = cl && m.running.isSome then s1
    else match bestMma now (s1.mmas.filter fun m => m.cluster = cl && m.begun && s1.eligible m) with
      | none => s1
      | some m => s1.putMma { m with running := some (now + passCycles m.aFmt (min 512 (m.k - m.kDone))) })

/-- An operand-fetch fault (R165): the team of the request is killed. -/
def State.operandFault (s : State) (m : MmaReq) (addr : Nat) : State :=
  s.killTeam m.grid m.team { cause := 0x1C, taddr := addr, passes := m.passes } false

/-- MMA_PASS_END: the pass under way on a cluster has lasted its cycles; its results are formed, or an operand-fetch fault kills the team: one the reads meet, or an
uncorrectable soft error at an offset. -/
def execMmaPassEnd (cluster : Nat) (softError : Option Nat) (s : State) : Host.Outcome State Fault Refusal :=
  let now := s.clockOf (dieOfCluster cluster)
  finish s (match s.mmas.find? fun m => m.cluster = cluster && m.running.isSome with
    | none => s
    | some m =>
      if now < m.running.getD 0 then s
      else match softError with
        | some off => s.operandFault m off
        | none => match s.computePass m with
          | .error f => (s.notePass m).operandFault m f.2
          | .ok ps =>
            let m1 := { m with partials := ps, kDone := min (m.kDone + 512) m.k, passes := m.passes + 1, since := now, running := none }
            if m1.kDone = m1.k then
              let core := ((s.team? m.grid m.team).map (·.lastCore)).getD 0
              let (x, s1) := (s.notePass m).lookOption core m.asid m.system m.rowShape
              let (y, s2) := s1.lookOption core m.asid m.system m.colShape
              (s2.writeTile { m1 with rowShape := x, colShape := y }).endMma m1 0
            else (s.notePass m).putMma m1)

end Sys2Proof.Machine
end

