-- ==== Sys2Proof/Machine/Ownership.lean ====
section
/-! DEFINITION. The ownership words OCLAIM, OMOVE and ORELS (R121 to R127). -/

namespace Sys2Proof.Machine

/-- The interval of a team that starts at an address and stands in its core's table. -/
def State.heldInterval (s : State) (c : Ctx) (base : Nat) : Option Interval :=
  s.intervals.find? fun i => i.asid = c.asid && i.base = base && i.heldBy c.t.ref.grid c.t.ref.team && i.core = some c.core

/-- Intervals in a core's range-permission table (R121). -/
def State.coreIntervals (s : State) (core : Nat) : Nat := (s.intervals.filter fun i => i.core = some core).length

/-- Intervals of memory homed on a die in its home range table (R121). -/
def State.homeIntervals (s : State) (die : Nat) : Nat := (s.intervals.filter fun i => i.home = die).length

/-- The L1 lines of the thread's core that hold a byte of a range leave, under whatever address they were filled (R124). -/
def State.dropRange (s : State) (c : Ctx) (base n : Nat) : State :=
  (pageChunks base n).foldl (fun s1 x => match s.translate c.core c.asid c.system x.1 .read with
    | .ok p => { s1 with l1 := dropLines s1.l1 c.core p.key x.2 }
    | .error _ => s1) s

/-- The dirty bytes of an interval are written back to their home (R125, R126). -/
def State.writeBackInterval (s : State) (i : Interval) : State :=
  s.writeBack fun d => d.asid = i.asid && decide (i.base ≤ d.va ∧ d.va < i.base + i.len) && i.core == some d.core

/-- The range reaches a page that is not device memory homed on a die. -/
def State.awayFromDie (s : State) (c : Ctx) (base len : Nat) : Bool :=
  touchesAperture base len || (pageStarts base len).any fun p =>
    isFabric p || match s.translate c.core c.asid c.system p .read with
    | .ok q => q.host || q.home != c.die
    | .error _ => false

/-- The checks of OCLAIM (R124). -/
def State.claimChecks (s : State) (c : Ctx) (a : W64) (len : Nat) (w : Bool) : List Fail :=
  let base := a.toNat
  let bad := Cause.permission.at_ base
  let shape := when (!validAddr a || len = 0 || !validAddr (a + BitVec.ofNat 64 (len - 1))) bad
  let others := s.intervals.filter fun i => i.meets c.asid base len && !i.heldBy c.t.ref.grid c.t.ref.team
  if shape.isEmpty then
    s.rangeFails c.core c.asid c.system base len (.claim w)
      ++ when (s.awayFromDie c base len) bad
      ++ when (s.intervals.any fun i => i.core = some c.core && i.meets c.asid base len) bad
      ++ when (others.any fun i => i.writable || w) (Cause.ownedElsewhere.at_ base)
      ++ when (s.lockHit c.die (.global c.asid) base len false) (Cause.rangeLock.at_ base)
      ++ when (32 ≤ s.coreIntervals c.core || 4096 ≤ s.homeIntervals c.die) bad
  else shape

/-- Stores of the core or atomics of the team to bytes of a range are still on their way. -/
def State.rangeBehind (s : State) (c : Ctx) (base len : Nat) : Bool :=
  (pageChunks base len).any fun x => match s.translate c.core c.asid c.system x.1 .read with
    | .ok p => s.bytesBehind c.core c.t.ref.grid c.t.ref.team p.key x.2
    | .error _ => false

/-- OCLAIM in one thread: earlier loads of the thread are read and earlier stores to the bytes reach their home first, so that no older byte comes to the home after
those the interval's release writes back (R126); then the interval stands in every table. -/
def oclaimWord (a b : Reg) (c : Ctx) (_mark _op : Nat) (s : State) : Lane :=
  let base := c.t.rd64 a
  let v := c.t.rd b
  let len := (v.extractLsb' 0 31).toNat
  let w := v.getLsbD 31
  Lane.check (s.claimChecks c base len w) <|
    if s.loadsHeld c.t.ref || s.rangeBehind c base.toNat len then .hold 0 false
    else
      let s1 := (s.settleLoads c.t.ref).dropRange c base.toNat len
      .pass { s1 with intervals := s1.intervals ++ [({ asid := c.asid, base := base.toNat, len := len, writable := w, grid := c.t.ref.grid,
                                                       team := c.t.ref.team, core := some c.core, home := c.die } : Interval)] }

/-- OCLAIM. -/
def execOclaim (l : BitVec 4) (a b : Reg) (s : State) : Host.Outcome State Fault Refusal := s.long (.oclaim l a b) (oclaimWord a b)

/-- The core's table has room for an interval that moves there: an entry, and no other interval of the core overlaps it, which R121 says never happens and R125
gives no check for: DESIGN CHOICE (log 56), such a move is refused like one to a full table. -/
def State.tableTakes (s : State) (core : Nat) (v : Interval) : Bool :=
  decide (s.coreIntervals core < 32) && !(s.intervals.any fun i => i.core == some core && i != v && i.meets v.asid v.base v.len)

/-- The core of an OMOVE's target when the move is allowed (R125). -/
def State.moveTarget (s : State) (c : Ctx) (v : Interval) (team : Nat) : Option Nat :=
  if team = c.t.ref.team then none
  else match (s.team? c.t.ref.grid team).bind (·.core) with
    | some core => if dieOfCore core = c.die && s.tableTakes core v then some core else none
    | none => none

/-- OMOVE in one thread: a release at die scope, then the entry moves, which is an acquire by the target team. -/
def omoveWord (a b : Reg) (c : Ctx) (mark op : Nat) (s : State) : Lane :=
  let base := (c.t.rd64 a).toNat
  let m := if mark = 0 then op else mark
  match (s.heldInterval c base).bind fun i => (s.moveTarget c i (c.t.rd b).toNat).map fun core => (i, core) with
  | some (i, core) =>
    if s.released c.t.ref c.core .die m then
      let s1 := (s.writeBackInterval i).acquire c.t.ref.grid core .die
      .pass { s1 with intervals := updWhere (fun x => x = i) (fun x => { x with team := (c.t.rd b).toNat, core := some core }) s1.intervals }
    else .hold m false
  | none => .fail [Cause.permission.at_ base]

/-- OMOVE. -/
def execOmove (l : BitVec 4) (a b : Reg) (s : State) : Host.Outcome State Fault Refusal := s.long (.omove l a b) (omoveWord a b)

/-- ORELS in one thread (R126): the thread's earlier loads are read first, the dirty bytes go home, the interval leaves every table. -/
def orelsWord (a : Reg) (c : Ctx) (_mark _op : Nat) (s : State) : Lane :=
  let base := (c.t.rd64 a).toNat
  match s.heldInterval c base with
  | some i =>
    if s.loadsHeld c.t.ref then .hold 0 false
    else
      let s1 := (s.settleLoads c.t.ref).writeBackInterval i
      .pass { s1 with intervals := s1.intervals.filter (· ≠ i) }
  | none => .fail [Cause.permission.at_ base]

/-- ORELS. -/
def execOrels (l : BitVec 4) (a : Reg) (s : State) : Host.Outcome State Fault Refusal := s.long (.orels l a) (orelsWord a)

end Sys2Proof.Machine
end

