-- ==== Sys2Proof/Machine/Starter.lean ====
section
/-! DEFINITION. The Starter (R83 to R87), the gathering of cohorts (R91, R93 of 05), and the accounting of cycles (R296). -/

namespace Sys2Proof.Machine

/-! ## Words as the Starter sees them -/

/-- The word a thread stands at; none where it does not decode. -/
def Ctx.word? (c : Ctx) : Option Instr :=
  match c.code.fetch c.t.pc with
  | none => none
  | some w => match decodeWord w with | .ok i => some i | .error _ => none

/-- A collective (R91 of 05). -/
def isCollective : Instr → Bool
  | .csync | .cpick _ | .pall _ _ _ | .pany _ _ _ | .psame _ _ _ | .ballot _ _ _ | .xlane _ _ _ _ | .cred _ _ _ | .fredx _ _ _
  | .scanAdd _ _ | .scanAddi _ _ => true
  | _ => false

/-- The single-instance units of a partition (R86). -/
inductive PartUnit where
  | memory | command | collective | special | walker
  deriving DecidableEq, Repr

/-- The single-instance unit a word needs, if any (R86). -/
def unitOf : Instr → Option PartUnit
  | .ldg _ _ _ _ _ | .ldgn _ _ _ _ _ | .ldgb _ _ _ _ _ | .lds _ _ _ _ _ | .stg _ _ _ _ _ | .stgb _ _ _ _ _ | .sts _ _ _ _ | .ldk _ _ _ _ _
  | .atom _ _ _ _ _ | .red _ _ _ _ | .rst _ _ _ _ _ | .ratom _ _ _ _ _ => some .memory
  | .launch _ _ _ | .oclaim _ _ _ | .omove _ _ _ | .orels _ _ | .pref _ _ _ | .fenceAcq _ _ | .fenceRel _ _ | .fenceAr _ _
  | .hinit _ _ _ | .arriveRel _ _ _ _ | .arriveRlx _ _ _ | .expect _ _ _ | .rcpy _ _ _ _ | .rmc _ _ _ _ | .rred _ _ _ _ | .join _ _ | .drain _ _ _
  | .cpy _ _ _ _ | .cpyg _ _ _ _ | .cpys _ _ _ _ | .cpyf _ _ _ _ | .obres _ _ | .obrel _ _ | .accclr _ _ | .accrd _ _ _ _ | .mma _ _
  | .rbind _ _ _ | .runbind _ _ | .rgld _ _ _ _ | .segred _ _ _ _ | .segnorm _ _ _ _ | .segscan _ _ _ _
  | .route _ _ _ _ | .rret _ _ _ _ | .epdef _ _ | .rasm _ _
  | .waitp _ _ _ | .htest _ _ | .qwait _ _ | .wake _ _ _ | .spawn _ _ _ | .heat _ | .tlbi _ _ => some .command
  | .csync | .cpick _ | .pall _ _ _ | .pany _ _ _ | .psame _ _ _ | .ballot _ _ _ | .xlane _ _ _ _ | .cred _ _ _ | .fredx _ _ _
  | .scanAdd _ _ | .scanAddi _ _ => some .collective
  | .frcp _ _ _ _ | .frsq _ _ _ _ | .fsqrt _ _ _ _ | .fex2 _ _ _ _ | .flg2 _ _ _ _ | .ftanh _ _ _ _ | .fsin _ _ _ _ | .fcos _ _ _ _ => some .special
  | .walk _ | .wnext _ _ | .wred _ _ | .wend _ _ => some .walker
  | _ => none

/-! ## Readiness (R83, R91 of 05) -/

/-- The thread stands at a SPAWN that is to carry accesses not performed yet: SPAWN is a release at team scope and waits for them by interlock (R79 of 04, log 39). -/
def State.spawnHeld (s : State) (t : Thread) : Bool :=
  match s.ctx? t.ref with
  | none => false
  | some c => match c.word? with
    | some (.spawn _ _ _) => !s.released t.ref c.core .team s.nextOp
    | _ => false

/-- Ready but for the gap of R83 and the gathering of a cohort. -/
def State.couldIssue (s : State) (t : Thread) : Bool :=
  t.status == .ready && !t.exhausted && !s.inFaultWait t.ref.grid t.ref.team && !(s.issueQ.any fun g => g.contains t.ref) && !s.spawnHeld t

/-- The thread issued in this cycle or in the one just before (R83). -/
def State.inGap (s : State) (t : Thread) : Bool :=
  match t.lastIssue with
  | none => false
  | some n => ((s.team? t.ref.grid t.ref.team).bind (·.core)).any fun c => decide (s.clockOf (dieOfCore c) ≤ n + 1)

/-- The members of a thread's cohort that have not exited. -/
def State.cohortOf (s : State) (t : Thread) : List Thread :=
  s.threads.filter fun u => u.ofTeam t.ref.grid t.ref.team && u.cohort == t.cohort && u.status != .exited

/-- The thread stands at a collective outside trap mode. -/
def State.atCollective (s : State) (t : Thread) : Bool :=
  t.trap.isNone && match (s.ctx? t.ref).bind Ctx.word? with | some i => isCollective i | none => false

/-- Every member of the cohort stands at the thread's PC outside trap mode, able to issue. -/
def State.cohortGathered (s : State) (t : Thread) : Bool :=
  (s.cohortOf t).all fun u => u.pc == t.pc && u.trap.isNone && s.couldIssue u && !s.inGap u

/-- R93 of 05: every member is ready at a collective, and they stand at two or more PCs. -/
def State.mismatched (s : State) (t : Thread) : Bool :=
  let ms := s.cohortOf t
  s.atCollective t && ms.any (fun u => u.pc != t.pc) && ms.all fun u => s.couldIssue u && !s.inGap u && s.atCollective u

/-- A thread is ready in this cycle. -/
def State.isReady (s : State) (t : Thread) : Bool :=
  s.couldIssue t && !s.inGap t && (s.ctx? t.ref).isSome && (!s.atCollective t || s.cohortGathered t)

/-! ## Classes (R84, R85, R87) -/

/-- The PC class of a thread: code object, kernel, PC, trap-mode bit. -/
def State.classKey (s : State) (t : Thread) : Nat × Nat × Nat × Bool :=
  match s.grid? t.ref.grid with
  | some g => (g.desc.code, g.desc.kernel, t.pc, t.trap.isSome)
  | none => (0, 0, t.pc, t.trap.isSome)

/-- The thread is older (R84): cohorts of different dies are compared on the scale of State.cycleBegan. Grid identifiers rise with acceptance. -/
def Thread.olderThan (t u : Thread) : Bool :=
  if t.born ≠ u.born then t.born < u.born
  else if t.ref.grid ≠ u.ref.grid then t.ref.grid < u.ref.grid
  else if t.ref.team ≠ u.ref.team then t.ref.team < u.ref.team
  else t.ref.tid < u.ref.tid

/-- A thread put in its place by age, oldest first. -/
def insertAge (t : Thread) : List Thread → List Thread
  | [] => [t]
  | u :: us => if u.olderThan t then u :: insertAge t us else t :: u :: us

/-- Threads by age, oldest first. -/
def byAge : List Thread → List Thread
  | [] => []
  | t :: ts => insertAge t (byAge ts)

/-- The greatest number of a list, 0 for none. -/
def greatest (l : List Nat) : Nat := l.foldl Nat.max 0

/-- A class of ready threads, oldest first, ranks before another (R85, R87). -/
def classBefore (a b : List Thread) : Bool :=
  let promoted (l : List Thread) : Nat := let n := greatest (l.map (·.starve)); if n ≥ 256 then n else 0
  let trap (l : List Thread) : Bool := (l.head?.map fun t => t.trap.isSome).getD false
  let depth (l : List Thread) : Nat := greatest (l.map fun t => t.stack.length)
  let pc (l : List Thread) : Nat := (l.head?.map (·.pc)).getD 0
  if promoted a ≠ promoted b then promoted b < promoted a
  else if trap a ≠ trap b then trap a
  else if depth a ≠ depth b then depth b < depth a
  else if pc a ≠ pc b then pc a < pc b
  else match a.head?, b.head? with
    | some t, some u => t.olderThan u
    | _, _ => false

/-- The classes of a list of threads given oldest first. -/
def State.classes (s : State) : List Thread → List (List Thread)
  | [] => []
  | t :: ts =>
    let rest := s.classes ts
    if rest.any (fun c => c.any fun u => s.classKey u = s.classKey t) then
      rest.map fun c => if c.any (fun u => s.classKey u = s.classKey t) then t :: c else c
    else [t] :: rest

/-- The first class in the key among a list of classes. -/
def firstClass : List (List Thread) → Option (List Thread)
  | [] => none
  | c :: cs =>
    match firstClass cs with
    | none => some c
    | some d => some (if classBefore d c then d else c)

/-- Whole cohorts, oldest first, while they fit in 64 lanes (R91 of 05): the first that does not fit ends the gathering. DESIGN CHOICE (log 69). -/
def gatherCohorts (room : Nat) (gang left : List Thread) : Nat → List Thread
  | 0 => gang
  | fuel + 1 =>
    match left with
    | [] => gang
    | t :: _ =>
      let mine := left.filter fun u => u.ofTeam t.ref.grid t.ref.team && u.cohort == t.cohort
      let rest := left.filter fun u => !(u.ofTeam t.ref.grid t.ref.team && u.cohort == t.cohort)
      if mine.length ≤ room then gatherCohorts (room - mine.length) (gang ++ mine) rest fuel else gang

/-- The gang of a class: up to 64 of its ready threads, oldest first; at a collective, whole cohorts (R85, R91 of 05). -/
def State.gangOf (s : State) (c : List Thread) : List Thread :=
  match c with
  | [] => []
  | t :: _ => if s.atCollective t then byAge (gatherCohorts 64 [] c c.length) else c.take 64

/-- The threads of a partition of a core that have not exited, oldest first. -/
def State.partThreads (s : State) (core part : Nat) : List Thread :=
  byAge (s.threads.filter fun t => t.cohort % 8 == part && t.status != .exited
    && ((s.team? t.ref.grid t.ref.team).bind (·.core)) == some core)

/-- The gangs of the two ports in this cycle, and the class that port 1 left because both needed one unit (R85, R86). -/
def State.ports (s : State) (core part : Nat) : List (List Thread) × List Thread :=
  let cs := s.classes ((s.partThreads core part).filter s.isReady)
  match firstClass cs with
  | none => ([], [])
  | some c0 =>
    let g0 := s.gangOf c0
    match firstClass (cs.filter fun c => c.head? != c0.head?) with
    | none => ([g0], [])
    | some c1 =>
      let unit (c : List Thread) : Option PartUnit := ((c.head?.bind fun t => s.ctx? t.ref).bind Ctx.word?).bind unitOf
      if (unit c0).isSome && unit c0 = unit c1 then ([g0], c1) else ([g0, s.gangOf c1], [])

/-- Every member of a mismatched cohort takes COLLECTIVE_MISMATCH (R93 of 05). -/
def State.takeMismatch (s : State) (core part : Nat) : State :=
  let bad := (s.partThreads core part).filter s.mismatched
  (byTid (bad.map (·.ref))).foldl (fun s r => s.takeCause r (Cause.collectiveMismatch.at_ 0)) s

/-- One cycle of one partition's Starter: mismatches are taken, the ports' gangs issue, the others count (R85 to R87);
while port 1 idles by R86, every ready thread that did not issue is held by that (R296). -/
def State.pick (s0 : State) (core part : Nat) : State :=
  let s := s0.takeMismatch core part
  let (gangs, idle) := s.ports core part
  let issued := (gangs.flatMap id).map (·.ref)
  let first := ((gangs.head?).getD []).map (·.ref)
  let mine := (s.partThreads core part).map (·.ref)
  let note (t : Thread) : Thread :=
    if issued.contains t.ref then { t with lastIssue := some (s.clockOf (dieOfCore core)), port := if first.contains t.ref then 0 else 1, starve := 0, lost := 0 }
    else if s.isReady t then { t with starve := t.starve + 1, lost := if idle.isEmpty then 9 else 8 }
    else { t with starve := 0, lost := if s.couldIssue t && s.inGap t then 8 else 0 }
  { s with threads := updWhere (fun t => mine.contains t.ref) note s.threads, issueQ := s.issueQ ++ gangs.map fun g => g.map (·.ref) }

/-- STARTER_PICK: the Starter of the partition State.subject names (core, partition) makes its choice (R85). -/
def execStarterPick (s : State) : Host.Outcome State Fault Refusal := finish s (s.pick (s.subj 0) (s.subj 1))

/-! ## Counting (R295, R296) -/

/-- A gang's word issues: words count once for each active thread (R295). -/
def State.noteIssue (s : State) (gang : List TRef) : State :=
  gang.foldl (fun s r =>
    match s.thread? r with
    | none => s
    | some t =>
      if t.guardedOff then s
      else s.modTeam r.grid r.team fun u => { u with count := { u.count with words := u.count.words + 1, issued := true } }) s

/-- An unfinished MMA of the team names the hurdle (R296, reason 13). -/
def State.mmaNames (s : State) (g i off : Nat) : Bool := s.mmas.any fun m => m.grid = g && m.team = i && m.hurdle = some off

/-- The hurdle is the inbox hurdle of an endpoint the team holds (R296, reason 14). -/
def State.inboxHurdle (s : State) (g i off : Nat) : Bool := s.endpoints.any fun e => e.grid = g && e.team = i && e.hurdle = off

/-- The thread issued in the cycle of its die that is not over, guarded off when it counts for nothing (R296). -/
def State.issuedNow (s : State) (t : Thread) : Bool :=
  match t.lastIssue, s.team? t.ref.grid t.ref.team with
  | some n, some u => n == s.clockOf (dieOfCore u.lastCore)
  | _, _ => false

/-- The stall reason of a thread by what it waits for itself. -/
def State.ownReason (s : State) (t : Thread) : Nat :=
  if t.lost = 8 || t.lost = 9 then t.lost
  else match t.status with
    | .ready => if t.exhausted then 1 else if s.issuedNow t then 16 else if s.inFaultWait t.ref.grid t.ref.team then 2 else if s.atCollective t then 7 else 8
    | .draining _ => 1
    | .trapWait _ => if t.awaiting then 1 else 2
    | .interlock => 8
    | .stopped (.again i _ _) => if t.pressed then 12 else match i with | .mma _ _ => 13 | _ => 2
    | .stopped _ | .faulted _ _ => 2
    | .waitHurdle off _ _ _ =>
      if s.mmaNames t.ref.grid t.ref.team off then 13 else if s.inboxHurdle t.ref.grid t.ref.team off then 14 else 3
    | .waitQueue _ => 4
    | .exited => 16

/-- The priorities of R296, highest first. -/
def reasonOrder : List Nat := [8, 9, 11, 1, 10, 12, 13, 2, 7, 5, 6, 14, 3, 4, 15]

/-- The stall reason of a thread that issued nothing in the cycle: of its own and its team's fault wait the first listed (R296). -/
def State.reasonOf (s : State) (t : Thread) : Nat :=
  let r := s.ownReason t
  if s.inFaultWait t.ref.grid t.ref.team && t.status != .exited && !([8, 9, 1, 10, 12, 13] : List Nat).contains r then 2 else r

/-- The stall counter of a team in a cycle in which it issued nothing (R296). -/
def State.teamReason (s : State) (t : Team) : Nat :=
  let live := (s.threadsOf t.grid t.idx).filter fun u => u.status != .exited
  let rs := live.map s.reasonOf ++ (if !(live.any fun u => u.ref.tid < s.teamSize t.grid) && s.heats.any (fun h => h.grid = t.grid && h.team = t.idx)
    then [15] else [])
  (reasonOrder.find? fun r => rs.contains r).getD 16

/-- One cycle of a resident team counted. -/
def State.countCycle (s : State) (t : Team) : Team :=
  if t.core.isNone then t
  else
    let k := t.count
    if k.issued then { t with count := { k with resident := k.resident + 1, issue := k.issue + 1, issued := false } }
    else
      let r := s.teamReason t - 1
      { t with count := { k with resident := k.resident + 1, stalls := k.stalls.set r (k.stalls.getD r 0 + 1) } }

/-- The team resides on a core of the die. -/
def State.onDie (s : State) (die g i : Nat) : Bool := ((s.team? g i).bind (·.core)).any fun c => dieOfCore c == die

/-- The sum of the dies' cycle counters: it grows with every cycle of any die. -/
def State.clockSum (s : State) : Nat := s.dieClock.sum

/-- A die's cycle counter advances, and its next cycle begins (R3). -/
def State.tickDie (s : State) (die : Nat) : State :=
  let s1 := { s with dieClock := s.dieClock.set die (s.clockOf die + 1) }
  { s1 with cycleBegan := s1.cycleBegan.set die s1.clockSum }

/-- The end of a die's cycle: the teams on it are counted (R296), the kills of the cycle take effect (R279), its cycle counter advances (R3). -/
def State.endCycle (s : State) (die : Nat) : State :=
  let s1 := { s with teams := updWhere (fun t => s.onDie die t.grid t.idx) s.countCycle s.teams,
                     threads := updWhere (fun t => s.onDie die t.ref.grid t.ref.team) (fun t => { t with lost := 0 }) s.threads }
  (s1.killDying die).tickDie die

end Sys2Proof.Machine
end

