-- ==== Sys2Proof/Machine/Issue.lean ====
section
/-! DEFINITION. Fetching: a gang that was picked, the word at its PC, and the round of the partitions' Starters when nothing else is to happen. -/

namespace Sys2Proof.Machine

/-- The threads of a picked gang that can still issue: a kill or a fault wait between pick and issue takes threads out. -/
def State.stillIssues (s : State) (gang : List TRef) : List TRef :=
  gang.filter fun r => match s.thread? r with
    | some t => t.status == .ready && !s.inFaultWait r.grid r.team
    | none => false

/-- The word at the gang's PC, decoded; none where the gang's code is gone. -/
def State.fetched (s : State) (gang : List TRef) : Option (Except Reject Instr) := do
  let r ← gang.head?
  let c ← s.ctx? r
  let w ← c.code.fetch c.t.pc
  some (decodeWord w)

/-- The gang issues: it becomes the gang of the word under way, and its issue is counted. -/
def State.issue (s : State) (gang : List TRef) : State := { s.noteIssue gang with gang := gang }

/-- The core a turn of a die's round names. -/
def turnCore (die turn : Nat) : Nat := 48 * die + turn / 8
/-- The partition of a turn. -/
def turnPart (turn : Nat) : Nat := turn % 8

/-- The ticks of a die's 100 MHz timer (R300). -/
def State.ticksOf (s : State) (die : Nat) : Nat := s.refTimer.getD die 0

/-- A power record of the die is due: its timer stands at a 100th tick whose record is not written (R300). -/
def State.powerDue (s : State) (die : Nat) : Bool :=
  s.ticksOf die % 100 == 0 && s.ticksOf die != 0 && s.trace.any fun r => r.die == die && r.power && r.powerAt != s.ticksOf die

/-- A die's cycle has ended: which die's cycle comes next, whether the package's own time and the die's 100 MHz timer advance before it, is free: no
machine-wide time base exists (R3, R300). A timer waits for the power record of its tick. -/
def State.nextDie (s : State) : State :=
  let (a, s1) := s.choose
  let (b, s2) := s1.choose
  let (c, s3) := s2.choose
  let tick := if s.powerDue s.turnDie then 0 else c % 2
  { s3 with turn := 0, turnDie := a % 4, cycle := s3.cycle + b % 2, refTimer := s3.refTimer.set s.turnDie (s3.ticksOf s.turnDie + tick) }

/-- The turn just taken is over; after the last of its 384 partitions the die's cycle ends (R3, R83). -/
def State.nextTurn (s : State) : State :=
  if s.turn + 1 < 384 then { s with turn := s.turn + 1 } else (s.endCycle s.turnDie).nextDie

/-! ## A program placed by hand -/

/-- The one thread of a program placed by hand. -/
def placedRef : TRef := { grid := 1, team := 0, tid := 0 }

/-- Its code: the words, then NOPs. -/
def placedCode (ws : List W32) : Code :=
  { id := 1, asid := 1, words := ws ++ List.replicate 16 0, konst := [],
    kernels := [{ entry := 0, trap := none, teamSize := 1, alloc := 512, scratch := 4096, carve := 0xFF, system := true, restartable := false,
                  params := 0 }] }

/-- Its grid: one team, launched by nobody. -/
def placedGrid : Grid :=
  { id := 1, asid := 1, system := true, descVa := none,
    desc := { code := 1, kernel := 0, teams := 1, spawn := 0, coResident := false, mask := none, carve := 0xFF, attempts := 0,
              scopes := List.replicate 8 none, blockBuf := 0, blockCap := 0, corr := 0 },
    params := [], depth := 1, parent := none, prio := 0, queued := false, unplaced := [], again := [], dead := [], retired := 0, onEnd := .none,
    debug := false, records := 0, discarded := 0 }

/-- The counters of a team that has just been placed. -/
def freshCount (core clock : Nat) : BlockCount :=
  { firstCore := core, evictions := 0, resident := 0, issue := 0, words := 0, firstClock := clock, stalls := List.replicate 16 0, issued := false }

/-- Its team, resident on core 0. -/
def placedTeam : Team :=
  { grid := 1, idx := 0, core := some 0, lastCore := 0, scratch := 0, held := false, saved := [], localSlot := 0, rstackSlot := 0, attempt := 0,
    lastCause := 0, heatTimer := 4096, cursor := 1, cohorts := [0], homeDie := 0, waitDie := 0, count := freshCount 0 0, killed := none,
    dying := none, relaunch := false, carve := 0 }

/-- A thread at its start (R78, R80): PC at the entry, v15 the stack pointer, v1 an argument, every other register 0. -/
def startThread (ref : TRef) (entry alloc sp arg born : Nat) : Thread :=
  { ref := ref, pc := entry, regs := ((List.replicate alloc (0 : W32)).set 15 (BitVec.ofNat 32 sp)).set 1 (BitVec.ofNat 32 arg), preds := 0,
    wbase := 0, stack := [], gval := false, gcnt := 0, trap := none, windows := [], status := .ready, taken := none, latch := 0, lastIssue := none, port := 0,
    starve := 0, lost := 0, born := born, slot := (0, 0) }

/-- A start record whose every step has passed. -/
def Boot.allPassed (b : Boot) : Boot :=
  { b with service := .full, entries := b.entries.map fun e => { e with status := 1 }, plan := b.entries.map fun _ => none }

end Sys2Proof.Machine
end

