-- ==== Sys2Proof/Machine/Placement.lean ====
section
/-! DEFINITION. Placement of teams (R67 to R70), carve changes (R72), eviction and resume (R73 to R76, R127, R173, R196, R204, R285 to R287). -/

namespace Sys2Proof.Machine

/-! ## Which index a cluster's distributor takes (R67, R68) -/

/-- The lowest index of the first of a cluster's own ranges of a grid, and the grid without it. Which of its own indices a distributor takes R67 leaves open:
DESIGN CHOICE (log 54). -/
def Grid.takeOwn (x : Grid) (cluster : Nat) : Option (Nat × Grid) :=
  (x.unplaced.find? fun u => u.cluster = cluster).map fun u =>
    let rest := x.unplaced.erase u
    (u.first, { x with unplaced := if u.count ≤ 1 then rest else { u with first := u.first + 1, count := u.count - 1 } :: rest })

/-- A range put in a list of ranges, highest indices first. -/
def putRange (u : Unplaced) : List Unplaced → List Unplaced
  | [] => [u]
  | v :: l => if v.first ≤ u.first then u :: v :: l else v :: putRange u l

/-- The n highest indices of ranges given highest first, and the ranges that stay. -/
def takeUpper : Nat → List Unplaced → List Unplaced × List Unplaced
  | _, [] => ([], [])
  | n, u :: l =>
    if n = 0 then ([], u :: l)
    else if u.count ≤ n then ((u :: (takeUpper (n - u.count) l).1), (takeUpper (n - u.count) l).2)
    else ([{ u with first := u.first + (u.count - n), count := n }], { u with count := u.count - n } :: l)

/-- Unplaced indices of the clusters a test selects: a distributor's range (R67). -/
def Grid.holding (x : Grid) (p : Nat → Bool) : Nat := ((x.unplaced.filter fun u => p u.cluster).map (·.count)).sum

/-- The upper floor(n/2) of the n indices of a distributor leave it (R68): those ranges, and the grid without them. -/
def Grid.stealFrom (x : Grid) (p : Nat → Bool) : List Unplaced × Grid :=
  let cut := takeUpper (x.holding p / 2) ((x.unplaced.filter fun u => p u.cluster).foldr putRange [])
  (cut.1, { x with unplaced := x.unplaced.filter (fun u => !p u.cluster) ++ cut.2 })

/-- What the chip distributor has kept is dealt out, once a core may take it (R67). -/
def State.deal (s : State) (r : Nat) (x : Grid) : Grid :=
  let kept := x.unplaced.filter (·.cluster == chipKeeps)
  if kept.isEmpty then x
  else { x with unplaced := x.unplaced.filter (·.cluster != chipKeeps) ++ s.dealOut r x.desc kept }

/-- What a cluster's distributor with no range of its own steals: from a cluster of its die that holds two or more; else its die steals from another die that holds
two or more and splits what it took among its clusters, by a number r, as R67 does (R68). Of several siblings the one whose range comes first in the grid's list
is taken: DESIGN CHOICE (log 54), R68 leaves it open. -/
def State.steal (s : State) (r : Nat) (x : Grid) (cluster : Nat) : Grid :=
  let die := dieOfCluster cluster
  match x.unplaced.find? fun u => dieOfCluster u.cluster = die && 2 ≤ x.holding (· == u.cluster) with
  | some u =>
    let (got, y) := x.stealFrom (· == u.cluster)
    { y with unplaced := y.unplaced ++ got.map fun v => { v with cluster := cluster } }
  | none => match x.unplaced.find? fun u => dieOfCluster u.cluster ≠ die && 2 ≤ x.holding (dieOfCluster · == dieOfCluster u.cluster) with
    | some u =>
      let (got, y) := x.stealFrom (dieOfCluster · == dieOfCluster u.cluster)
      let parts := splitRange r 0 ((got.map (·.count)).sum) (s.clusterWeights x.desc die)
      { y with unplaced := y.unplaced ++ parts.flatMap fun v => portion v 0 got.reverse }
    | none => x

/-- The index a cluster places next, none where what its die has stolen went to other clusters; and the grid as the distributors leave it (R67, R68). -/
def State.takeIndex (s : State) (r : Nat) (x0 : Grid) (cluster : Nat) : Option Nat × Grid :=
  let x := s.deal r x0
  match x.takeOwn cluster with
  | some t => (some t.1, t.2)
  | none =>
    let y := s.steal r x cluster
    match y.takeOwn cluster with
    | some t => (some t.1, t.2)
    | none => (none, y)

/-- A cluster has an index of a grid, or one that it or its die may steal, or the chip distributor is still to deal out (R67, R68). -/
def Grid.offers (x : Grid) (cluster : Nat) : Bool :=
  x.unplaced.any fun u => u.cluster == cluster || u.cluster == chipKeeps
    || if dieOfCluster u.cluster = dieOfCluster cluster then 2 ≤ x.holding (· == u.cluster) else 2 ≤ x.holding (dieOfCluster · == dieOfCluster u.cluster)

/-! ## Putting a team on a core -/

/-- The place of a team: core, scratch offset, slots. -/
structure Spot where
  core : Nat
  scratch : Nat
  localSlot : Nat
  rstackSlot : Nat
  deriving DecidableEq, Repr

/-- The stack size of a context's threads (R111). -/
def State.stackSize (s : State) (asid : Nat) : Nat := (((s.context? asid).bind (·.window)).map (·.2.2)).getD 0

/-- The bytes that follow the common part of a placement or eviction trace record (R298, log 37). -/
def moveBytes (t : Team) : List Byte := leBytes t.attempt 4 ++ leBytes t.count.evictions 4

/-- A team index becomes a resident team at a spot, its threads at their start (R80); the start of a child's team is an acquire at package scope (R64, R244). -/
def State.putTeam (s : State) (x : Grid) (k : Kernel) (idx attempt lastCause home : Nat) (p : Spot) : State :=
  let n := s.stackSize x.asid
  let t : Team := { grid := x.id, idx := idx, core := some p.core, lastCore := p.core, scratch := p.scratch, held := false, saved := [], localSlot := p.localSlot,
                    rstackSlot := p.rstackSlot, attempt := attempt, lastCause := lastCause, heatTimer := 4096, cursor := k.teamSize,
                    cohorts := List.range k.cohorts, homeDie := home, waitDie := dieOfCore p.core, count := freshCount p.core (s.clockOf (dieOfCore p.core)),
                    killed := none, dying := none, relaunch := false, carve := s.carveOf p.core }
  let start (i : Nat) : Thread := startThread { grid := x.id, team := idx, tid := i } k.entry k.alloc (p.localSlot + (i + 1) * n) 0 (s.beganOf (dieOfCore p.core))
  let s1 := if x.parent.isSome then s.acquire x.id p.core .package else s
  ({ s1 with teams := s1.teams ++ [t], threads := s1.threads ++ (List.range k.teamSize).map start } : State).traceTeam 2 p.core x.id idx 0xFFFFFFFF 0xFFFFFFFF
    (moveBytes t)

/-- The spot a new team of a grid gets on a core, if there is room. -/
def State.spotOn (s : State) (core : Nat) (x : Grid) (k : Kernel) : Option Spot :=
  match s.roomOn core x k (List.range k.cohorts) (effCarve k x.desc) none, s.freeSlots x k with
  | some o, some (a, b) => some ⟨core, o, a, b⟩
  | _, _ => none

/-! ## The carve code an empty core takes (R69, R72) -/

/-- The code a core would hold a team of a grid under: the one that is fixed, or, where placement chooses, its present one if a team fits under it, else the
lowest one under which a team fits. -/
def State.codeFor (s : State) (core : Nat) (x : Grid) (k : Kernel) : Nat :=
  match effCarve k x.desc with
  | some c => c
  | none => if 0 < teamsUnder k (s.carveOf core) then s.carveOf core else ((List.range 6).find? fun c => 0 < teamsUnder k c).getD (s.carveOf core)

/-- The core under another code, when it is in service and holds no team and no scratch range (R72). -/
def State.underCode (s : State) (core code : Nat) : State :=
  if (s.scratchOn core).isEmpty then { s with carve := s.carve.filter (fun p => p.1 ≠ core) ++ [(core, code)] } else s

/-- The spot a team of a grid could get on a core, be it after a change of the carve code of an empty core (R69). -/
def State.spotFor (s : State) (core : Nat) (x : Grid) (k : Kernel) : Option Spot := (s.underCode core (s.codeFor core x k)).spotOn core x k

/-! ## What waits, and its order (R48, R75) -/

/-- Teams of a grid put on a core while there is room, an empty one under the code it would take: how many, and the state with them. fuel: most teams of a core. -/
def State.fillCore (s : State) (core : Nat) (x : Grid) (k : Kernel) : Nat → Nat × State
  | 0 => (0, s)
  | fuel + 1 => match s.spotFor core x k with
    | none => (0, s)
    | some p => let r := ((s.underCode core (s.codeFor core x k)).putTeam x k (2 ^ 40 + 64 * core + fuel) 0 0 0 p).fillCore core x k fuel
      (r.1 + 1, r.2)

/-- A co-resident grid could be placed whole now: core after core is filled, and what they share is counted once (R70, R111). -/
def State.wholeFits (s : State) (x : Grid) (k : Kernel) : Bool :=
  let all := (List.range 192).foldl (fun acc c => let r := acc.2.fillCore c x k 64; (acc.1 + r.1, r.2)) ((0, s) : Nat × State)
  x.desc.teams - x.dead.length ≤ all.1

/-- A grid has teams to place one by one. -/
def Grid.waitsSingly (x : Grid) : Bool := !x.queued && !x.desc.coResident && (!x.unplaced.isEmpty || !x.again.isEmpty)

/-- A co-resident grid waits to be placed whole. -/
def Grid.waitsWhole (x : Grid) : Bool := !x.queued && x.desc.coResident && !x.unplaced.isEmpty

/-- The core's cluster has an index of the grid to place, or may steal one, or one waits for a new attempt (R68, R283). -/
def State.indexFor (s : State) (core : Nat) (x : Grid) : Bool := x.again.any (fun a => (s.team? x.id a.idx).isNone) || x.offers (clusterOfCore core)

/-- The core could take a team of a grid that is placed one by one: it has room, be it under another code, and its cluster gets an index. -/
def State.admits (s : State) (core : Nat) (x : Grid) (k : Kernel) : Bool := (s.spotFor core x k).isSome && s.indexFor core x

/-- A team of a grid can be placed on the core now: by its cluster's distributor, or with all of a co-resident grid; an empty core may change its code first. -/
def State.couldPlace (s : State) (core : Nat) (x : Grid) : Bool :=
  match s.kernelOf x with
  | none => false
  | some k => if x.waitsWhole then x.desc.allows core && s.wholeFits x k else x.waitsSingly && s.admits core x k

/-- The phase a waiting thread of a team awaits has passed, or its wait ended another way (R287). -/
def State.wakesAt (s : State) (t : Team) (u : Thread) : Bool :=
  match u.status with
  | .exited => false
  | .waitHurdle off p _ deadline =>
    (match s.tag? t.grid t.idx off with
      | none => true
      | some _ => let h := s.hurdle t off; phasePassed h.phase p || h.flag 0)
      || match deadline with
        | some limit => limit ≤ s.clockOf t.waitDie
        | none => false
  | .waitQueue node => leNat (s.homeRead (node + 8) 4) == 1
  | .ready => !u.exhausted
  | .draining _ | .trapWait _ => !u.awaiting
  | .stopped _ | .interlock | .faulted _ _ => true

/-- The wake condition of a thread of the team holds; in fault wait the team awaits every answer (R74, R287). -/
def State.anyWakes (s : State) (t : Team) : Bool := !s.inFaultWait t.grid t.idx && (s.threadsOf t.grid t.idx).any (s.wakesAt t)

/-- R75: an evicted team is ready to resume. -/
def State.readyToResume (s : State) (t : Team) : Bool := t.core.isNone && t.killed.isNone && s.anyWakes t

/-- An interval that the team holds shares a byte with another team's on the core: intervals of one core never overlap (R121). -/
def State.intervalsMeet (s : State) (t : Team) (core : Nat) : Bool :=
  s.intervals.any fun v => v.heldBy t.grid t.idx && s.intervals.any fun i => i.core == some core && !i.heldBy t.grid t.idx && i.meets v.asid v.base v.len

/-- Where a team comes back to on a core: its held offset there, or a free one; with room for its intervals, ragged slots and endpoints (R75, R127, R173), its
intervals apart from those of the core (R121). -/
def State.resumeSpot (s : State) (t : Team) (x : Grid) (k : Kernel) (core : Nat) : Option Nat :=
  let mine := s.ragged.filter fun r => r.grid = t.grid && r.team = t.idx
  if t.held && core ≠ t.lastCore then none
  else if 32 < (s.intervals.filter fun i => i.core = some core || i.heldBy t.grid t.idx).length then none
  else if s.intervalsMeet t core then none
  else if mine.any fun r => s.ragged.any fun q => q.core = some core && q.slot = r.slot then none
  else if 16 < (s.endpoints.filter fun e => (e.core = core && !e.away) || (e.grid = t.grid && e.team = t.idx)).length then none
  else s.roomOn core x k t.cohorts (some t.carve) (if t.held then some t.scratch else none)

/-! ## Coming back (R75, R127, R173, R196, R285 to R287) -/

/-- A spilled row copied into the first empty inbox slot of an endpoint (R196). -/
def State.unspill (s : State) (t : Team) (system : Bool) (e : Endpoint) (n : Nat) : State :=
  match s.endpoint? e.asid e.id with
  | none => s
  | some e1 =>
    match lowestFree e1.cap fun k => !(s.fullSlots e1).contains k with
    | none => s
    | some k =>
      let bs := s.readVa chipUnit e1.asid system (e1.spill + n * e1.slotBytes) e1.slotBytes
      ((s.noteVa chipUnit e1.asid system (e1.spill + n * e1.slotBytes) e1.slotBytes).teamLand t (e1.inbox + k * e1.slotBytes) bs).putEndpoint { e1 with full := e1.full.filter (· ≠ k) ++ [k], freeing := e1.freeing.filter fun f => f.1 ≠ k }

/-- An endpoint comes back: spilled rows in spill order, then AWAY and DEST. -/
def State.endpointBack (s : State) (t : Team) (system : Bool) (e : Endpoint) : State :=
  let s1 := (List.range e.spilled).foldl (fun s n => s.unspill t system e n) (s.putEndpoint { e with core := t.lastCore })
  match s1.endpoint? e.asid e.id with
  | none => s1
  | some e1 => (s1.putEndpoint { e1 with away := false, spilled := 0 }).teamLand t (e.recordOff + 0x20)
      (leBytes (t.lastCore + 256 * dieOfCore t.lastCore + 65536 * s.boot.device) 4 ++ leBytes (2 ^ 31) 4)

/-- A ragged slot bound again on the new core, its record snapshot afresh (R173). -/
def State.rebind (s : State) (core asid : Nat) (system : Bool) (r : RaggedSlot) : RaggedSlot :=
  { r with core := some core, shape := (s.readShape core asid system r.lock r.va).getD r.shape }

/-- What the threads of a team wait for is looked at once it is back: hurdles, nodes (R287). -/
def State.testTeam (s : State) (t : Team) : State :=
  (s.threadsOf t.grid t.idx).foldl (fun s u => match u.status with
    | .waitHurdle off _ _ _ => s.testWaiter off u.ref
    | .waitQueue node => if leNat (s.homeRead (node + 8) 4) = 1 then s.wakeAt node else s
    | _ => s) s

/-- R75: the acquire of a team that comes back on another core: the core's lines outside intervals it holds, and, on another die, that die's remote-data cache. -/
def State.moveAcquire (s : State) (core from_ : Nat) : State :=
  if core = from_ then s
  else if dieOfCore core = dieOfCore from_ then s.dropL1 core
  else { s.dropL1 core with rdc := s.rdc.filter fun l => l.owner ≠ dieOfCore core }

/-- The four entries of a return stack that stand on chip, read back from the thread's part of the team's slot (R82, R286). -/
def State.refill (s : State) (t : Team) (u : Thread) : State :=
  let n := u.stack.length
  (List.range (min 4 n)).foldl (fun s k =>
    let key := t.stackKey u.ref.tid (n - 1 - k)
    let bs := s.homeRead key 8
    (s.noteRead key 8).modThread u.ref fun v => { v with stack := v.stack.set k (fld bs 0 4, fld bs 4 4 % 512) }) s

/-- A team is back on a core at a scratch offset: the acquire of a move (R75) before its intervals stand there, its context restored (R286), deadlines carried over
to the die's clock (R212); of its last issue nothing is known in the cycles of another die (R3). -/
def State.resumeOne (s : State) (t : Team) (x : Grid) (k : Kernel) (core o : Nat) : State :=
  let die := dieOfCore core
  let n := roundUp k.scratch 128
  let t1 : Team := { t with core := some core, lastCore := core, scratch := o, held := false, saved := [], waitDie := die }
  let mine (r : TRef) : Bool := r.grid == t.grid && r.team == t.idx
  let back (u : Thread) : Thread :=
    { u with latch := 0, lastIssue := if die = dieOfCore t.lastCore then u.lastIssue else none, status := match u.status with
      | .waitHurdle off p d (some limit) => .waitHurdle off p d (some (limit - s.clockOf t.waitDie + s.clockOf die))
      | st => st }
  let sa := s.moveAcquire core t.lastCore
  let s0 := if t.held then sa else t.saved.foldl (fun s c => s.wr (scratchKey core o + c.1) [c.2]) (sa.zero (scratchKey core o) n)
  let s1 := ({ s0 with
    intervals := updWhere (fun i => i.heldBy t.grid t.idx) (fun i => { i with core := some core }) s0.intervals,
    threads := updWhere (fun u => mine u.ref) back s0.threads,
    loads := updWhere (fun l => mine l.thread && l.source = .scratch) (fun l => { l with place := scratchKey core (o + l.va) }) s0.loads } : State).modTeam t.grid t.idx fun _ => t1
  let s2 := (s1.endpoints.filter fun e => e.grid = t.grid && e.team = t.idx).foldl (fun s e => s.endpointBack t1 k.system e) s1
  let mySlots := s2.ragged.filter fun r => r.grid = t.grid && r.team = t.idx
  let s3 := mySlots.foldl (fun s r => s.noteVa core x.asid k.system r.va r.shape.extent)
    { s2 with ragged := updWhere (fun r => r.grid = t.grid && r.team = t.idx) (s2.rebind core x.asid k.system) s2.ragged }
  let s4 := (s3.liveOf t.grid t.idx).foldl (fun s u => s.refill t1 u) s3
  (s4.traceTeam 2 core t.grid t.idx 0xFFFFFFFF 0xFFFFFFFF (moveBytes t1)).testTeam t1

/-- Teams of a grid resumed on the cores given; none where one has no room. -/
def State.resumeAll (s : State) (x : Grid) (k : Kernel) : List (Nat × Nat) → Option State
  | [] => some s
  | (i, core) :: rest => match s.team? x.id i with
    | none => none
    | some t => if t.core.isSome || t.killed.isSome then none else match s.resumeSpot t x k core with
      | some o => (s.resumeOne t x k core o).resumeAll x k rest
      | none => none

/-- One place held for a new attempt of an evicted co-resident grid is resident again, where there is room beside all others (R70). -/
def State.placeBack (s : State) (x : Grid) (k : Kernel) (a : Again) : Option State :=
  match a.place with
  | none => some s
  | some t =>
    if t.core.isSome then some s
    else (s.roomOn t.lastCore x k t.cohorts (some t.carve) (some t.scratch)).map fun _ =>
      s.modGrid x.id fun y => { y with again := updWhere (fun b => b = a) (fun b => { b with place := some { t with core := some t.lastCore } }) y.again }

/-- The places held for new attempts of a co-resident grid that was evicted are resident again with it (R70). -/
def State.heldBack (s : State) (x : Grid) (k : Kernel) : Option State := x.again.foldl (fun acc a => acc.bind fun s => s.placeBack x k a) (some s)

/-- The teams of a co-resident grid that are away could all come back to their cores. -/
def State.gridFits (s : State) (x : Grid) (k : Kernel) : Bool :=
  ((s.resumeAll x k ((s.teams.filter fun t => t.grid = x.id && t.core.isNone && t.killed.isNone).map fun t => (t.idx, t.lastCore))).bind
    fun s1 => s1.heldBack x k).isSome

/-- A team that is ready could come back to the core, an empty one under the team's code (R72, R76). -/
def State.admitsBack (s : State) (core : Nat) (t : Team) (x : Grid) (k : Kernel) : Bool := ((s.underCode core t.carve).resumeSpot t x k core).isSome

/-- An evicted team of a grid that is ready could come back to the core now, one of a co-resident grid with all of it. -/
def State.couldResume (s : State) (core : Nat) (x : Grid) : Bool :=
  match s.kernelOf x with
  | none => false
  | some k =>
    let away := s.teams.filter fun t => t.grid = x.id && t.core.isNone
    away.any s.readyToResume && if x.desc.coResident then (away.any fun t => t.lastCore = core) && s.gridFits x k
      else away.any fun t => s.readyToResume t && s.admitsBack core t x k

/-- Something of a higher rank could take the core: a grid of higher priority or earlier acceptance, placed singly or whole, or a team of no lower priority that is
ready to resume (R48, R75). -/
def State.outranked (s : State) (core : Nat) (x : Grid) : Bool :=
  s.grids.any fun y => ((x.prio < y.prio || (x.prio = y.prio && y.id < x.id)) && s.couldPlace core y) || (x.prio ≤ y.prio && s.couldResume core y)

/-! ## TEAM_PLACE -/

/-- A team index to place on a core: its number, attempt, cause, home; and the grid as the distributors leave it. One that waits for a new attempt goes before one
never placed: DESIGN CHOICE (log 54), R67 leaves it open. -/
def State.nextIndex (s : State) (x : Grid) (r core : Nat) : Option Again × Grid :=
  match x.again.find? fun a => (s.team? x.id a.idx).isNone with
  | some a => (some a, { x with again := x.again.erase a })
  | none =>
    let (i, y) := s.takeIndex r x (clusterOfCore core)
    (i.map fun i => { idx := i, attempt := 0, lastCause := 0, home := dieOfCore core, place := none }, y)

/-- One team of a grid placed on a core. -/
def State.placeOne (s : State) (x : Grid) (k : Kernel) (core : Nat) : State :=
  let (r, s1) := s.choose
  if s.outranked core x then s
  else match s.spotOn core x k with
    | none => s1
    | some p =>
      let (next, y) := s.nextIndex x r core
      let s2 := s1.modGrid x.id fun z => { z with unplaced := y.unplaced, again := y.again }
      match next with
      | some a => s2.putTeam x k a.idx a.attempt a.lastCause a.home p
      | none => s2

/-- A new attempt of a co-resident team at the place held for it (R70, R283), while the grid is resident. -/
def State.placeHeld (s : State) (x : Grid) (k : Kernel) (core : Nat) : State :=
  match x.again.find? fun a => (s.team? x.id a.idx).isNone && (a.place.map (·.core)) = some (some core) with
  | some a => match a.place with
    | some t =>
      if s.teams.any fun u => u.grid = x.id && u.core.isNone then s
      else (s.modGrid x.id fun z => { z with again := z.again.erase a }).putTeam x k a.idx a.attempt a.lastCause a.home ⟨core, t.scratch, t.localSlot, t.rstackSlot⟩
    | none => s
  | none => s

/-- Teams of a co-resident grid placed on the cores of a list of (index, core); none where one has no room. -/
def State.placeAll (s : State) (x : Grid) (k : Kernel) : List (Nat × Nat) → Option State
  | [] => some s
  | (idx, core) :: rest => match s.spotOn core x k with
    | some p => (s.putTeam x k idx 0 0 (dieOfCore core) p).placeAll x k rest
    | none => none

/-- TEAM_PLACE: a team of the grid is placed on the one core named; of a co-resident grid, its
teams not dead in index order on the cores of the list, all at once (R70). What ranks before it is served first (R48, R75). -/
def execTeamPlace (grid : Nat) (cores : List Nat) (s : State) : Host.Outcome State Fault Refusal :=
  finish s (match s.grid? grid with
    | none => s
    | some x =>
      match s.kernelOf x with
      | none => s
      | some k =>
        if x.queued then s
        else if !x.desc.coResident then match cores with
          | [core] => s.placeOne x k core
          | _ => s
        else if x.unplaced.isEmpty then match cores with
          | [core] => s.placeHeld x k core
          | _ => s
        else
          let live := (List.range x.desc.teams).filter fun i => !x.dead.contains i
          if cores.length ≠ live.length || cores.any (fun c => s.outranked c x) then s
          else (({ s with grids := updWhere (fun y => y.id = grid) (fun y => { y with unplaced := [] }) s.grids } : State).placeAll x k (live.zip cores)).getD s)

/-! ## CARVE_CHANGE (R72) -/

/-- A team of the grid that could be placed on the core calls for a carve code it does not have (R72), and nothing of a higher rank could take the core
(R48, R75). -/
def State.wantsCarve (s : State) (core code : Nat) (x : Grid) (k : Kernel) : Bool :=
  x.desc.allows core && code == s.codeFor core x k && s.couldPlace core x && !s.outranked core x

/-- An evicted team that is ready calls for its carve code on an empty core (R75), and nothing of a higher priority could take the core. -/
def State.wantsCarveBack (s : State) (core code : Nat) (t : Team) (x : Grid) (k : Kernel) : Bool :=
  s.readyToResume t && t.carve == code && s.admitsBack core t x k
    && !(s.grids.any fun y => x.prio < y.prio && (s.couldPlace core y || s.couldResume core y))

/-- CARVE_CHANGE: an empty core takes a code that a waiting team calls for; its L1 is written back and emptied. -/
def execCarveChange (core code : Nat) (s : State) : Host.Outcome State Fault Refusal :=
  let wanted := s.grids.any fun x => match s.kernelOf x with
    | some k => s.wantsCarve core code x k || s.teams.any fun t => t.grid == x.id && s.wantsCarveBack core code t x k
    | none => false
  finish s (if 5 < code || !s.boot.coreUp core || code = s.carveOf core || !(s.scratchOn core).isEmpty || !wanted then s
    else
      let s1 := s.writeBack fun d => d.core = core
      { s1 with l1 := s1.l1.filter (fun l => l.owner ≠ core), carve := s1.carve.filter (fun p => p.1 ≠ core) ++ [(core, code)] })

/-! ## When a team can leave (R73, R148, R192, R285) -/

/-- The core itself holds a byte at a place for a load: dirty, or in a store on its way that the load returns (R116, R119, R122). -/
def State.holdsByte (s : State) (l : Load) (core key : Nat) : Bool :=
  s.dirty.any (fun d => d.core == core && d.place == key)
    || s.wtb.any fun w => w.core == core && !w.explicit && (l.source != .memory true || w.knownTo l.thread) && (w.byteAt key).isSome

/-- A load finds its bytes on its core or, LDG, in a cached line of the core or its die (R118, R119). -/
def State.hitsNear (s : State) (l : Load) : Bool :=
  let core := s.coreOf l.thread
  (List.range l.size).all (fun i => s.holdsByte l core (l.place + i))
    || (l.source != .memory true && ((lineOf s.l1 core (l.place / 128)).isSome || (lineOf s.rdc (dieOfCore core) (l.place / 128)).isSome))

/-- A load that places its thread at a blocking point: parked on an absent line, or awaiting a remote home (R114, R118). -/
def State.blockingLoad (s : State) (op : Nat) : Bool := s.loads.any fun l => l.op = op && (s.parked l || (l.remote && !s.hitsNear l))

/-- The thread waits at a collective for other members of its cohort (R91 of 05). -/
def State.awaitsCohort (s : State) (t : Thread) : Bool := s.atCollective t && (s.cohortOf t).any fun u => u.pc != t.pc || u.trap.isSome

/-- R73: the thread is at a blocking point, or has exited. One that waits at a collective too cannot issue for more than its load. -/
def State.atBlockingPoint (s : State) (t : Thread) : Bool :=
  match t.status with
  | .exited | .waitHurdle _ _ _ _ | .waitQueue _ => true
  | .ready =>
    let ws := t.windows.filter fun w => w.left = 0
    !s.awaitsCohort t && !ws.isEmpty && ws.all fun w => s.blockingLoad w.op
  | .draining _ | .trapWait _ =>
    let ws := t.windows.filter (·.awaits)
    !ws.isEmpty && ws.all fun w => s.blockingLoad w.op
  | .stopped _ | .interlock | .faulted _ _ => false

/-- A row of a side lies in the team's scratch, in a buffer, or in the aperture bytes of that scratch. -/
def State.ownData (s : State) (t : Team) (rows rowBytes stride : Nat) (x : Side) : Bool :=
  match x with
  | .scratch _ | .obuf _ | .bstore _ => true
  | .global va => (List.range rows).any fun i => overlap (va + i * stride) rowBytes (apertureAddr t.lastCore t.scratch) (s.scratchRange ((s.grid? t.grid).getD placedGrid, t)).2
  | .none | .fabric _ => false

/-- R285: the engine operation reads or writes data that would have to move with the team. -/
def State.pinsTeam (s : State) (t : Team) (e : EngineOp) : Bool :=
  let src := s.ownData t e.srcRows e.rowBytes e.sstride e.src
  let dst := s.ownData t e.dstRows e.rowBytes e.dstride e.dst
  e.grid == t.grid && e.team == t.idx &&
    match e.kind with
    | .cpyg _ _ | .cpys _ _ | .accrd _ _ _ _ _ _ _ _ | .accclr _ | .route _ _ _ _ _ _ _ _ _ _ => true
    | .rgld _ _ _ _ _ tags => tags.isSome || dst
    | .segred _ _ _ _ _ _ _ flags => flags.isSome || dst
    | .rred c => c.data.length < e.rowBytes && src
    | _ => src || dst

/-- The bytes of a team's image in the save area: scratch and registers. DESIGN CHOICE (log 38). -/
def State.imageBytes (s : State) (t : Team) : Nat :=
  (s.scratchRange ((s.grid? t.grid).getD placedGrid, t)).2 + ((s.threadsOf t.grid t.idx).map fun u => 4 * u.regs.length).sum

/-- R285: the context's save area has room for the team's image beside those it holds. -/
def State.saveRoom (s : State) (t : Team) : Bool :=
  let asid := s.asidOf t.grid
  match (s.context? asid).bind (·.save) with
  | none => false
  | some (_, len) => ((s.teams.filter fun u => u.core.isNone && s.asidOf u.grid = asid).map s.imageBytes).sum + s.imageBytes t ≤ len

/-- A thread is suspended at its precise stop with OMOVE, OCLAIM, FENCE or TLBI (R285). -/
def State.atOwnerStop (s : State) (u : Thread) : Bool :=
  match u.status with
  | .stopped _ => match (s.ctx? u.ref).bind Ctx.word? with
    | some (.omove _ _ _) | some (.oclaim _ _ _) | some (.fenceAcq _ _) | some (.fenceRel _ _) | some (.fenceAr _ _) | some (.tlbi _ _) => true
    | _ => false
  | _ => false

/-- R73, R79, R148, R192, R285: a resident team is evictable. No store that its threads have read from their core is still on its way either (R246), and
the cycle it last issued in has been counted (R295). -/
def State.evictable (s : State) (t : Team) : Bool :=
  let mine (r : TRef) : Bool := r.grid == t.grid && r.team == t.idx
  t.core.isSome && t.killed.isNone && t.dying.isNone && !t.count.issued
    && (s.inFaultWait t.grid t.idx || (s.threadsOf t.grid t.idx).all s.atBlockingPoint)
    && !((s.threadsOf t.grid t.idx).any s.atOwnerStop) && !(s.fences.any fun f => mine f.thread)
    && !(s.heats.any fun h => h.grid = t.grid && h.team = t.idx)
    && !(s.reservations.any fun v => v.grid = t.grid && v.team = t.idx && v.space ≠ 2)
    && !(s.tables.any fun r => r.heldBy t.grid t.idx)
    && !(s.engines.any (s.pinsTeam t)) && !(s.mmas.any fun m => m.grid = t.grid && m.team = t.idx)
    && s.saveRoom t
    && !(s.wtb.any fun w => (mine w.thread && !w.explicit) || w.seen.any mine)
    && !(s.atoms.any fun a => mine a.thread && !a.explicit && match a.req with | .atom _ => true | _ => false)

/-! ## Leaving a core (R285, R286) -/

/-- The cells of a team's scratch, by offset. -/
def State.scratchCells (s : State) (t : Team) (n : Nat) : List Host.Cell :=
  let key := scratchKey t.lastCore t.scratch
  (s.mem.filter fun c => key ≤ c.1 && c.1 < key + n).map fun c => (c.1 - key, c.2)

/-- An endpoint goes AWAY (R196). -/
def State.endpointAway (s : State) (t : Team) (e : Endpoint) : State :=
  let room := if e.spill = 0 then 0 else min e.spillCap (e.cap - (s.fullSlots e).length)
  (s.teamLand t (e.recordOff + 0x24) (leBytes (2 ^ 31 + 2 ^ 30) 4)).putEndpoint { e with away := true, spillRoom := room, spilled := 0 }

/-- The entries of a return stack that stand on chip, written to the thread's part of the team's slot (R82, R286). -/
def State.spillAll (s : State) (t : Team) (u : Thread) : State :=
  let n := u.stack.length
  ((u.stack.take 4).zipIdx).foldl (fun s e => s.homeWrite (t.stackKey u.ref.tid (n - 1 - e.2)) (leBytes e.1.1 4 ++ leBytes e.1.2 4)) s

/-- A team leaves its core, its context saved (R286); no thread of it is ready any more (R87). -/
def State.evictOne (s : State) (t : Team) : State :=
  match s.grid? t.grid with
  | none => s
  | some x =>
    let n := (s.scratchRange (x, t)).2
    let held := x.desc.coResident || s.hurdles.any fun h => h.grid = t.grid && h.team = t.idx && (s.hurdle t h.off).flag 4
    let s0 := (s.liveOf t.grid t.idx).foldl (fun s u => s.spillAll t u) s
    let s1 := s0.writeBack (s0.dirtyOf t.grid t.idx)
    let s2 := (s1.endpoints.filter fun e => e.grid = t.grid && e.team = t.idx).foldl (fun s e => s.endpointAway t e) s1
    let t1 : Team := { t with core := none, held := held, saved := if held then [] else s2.scratchCells t n, waitDie := dieOfCore t.lastCore,
                              count := { t.count with evictions := t.count.evictions + 1 } }
    let s3 := s2.modTeam t.grid t.idx fun _ => t1
    let s4 := { s3 with
      threads := updWhere (fun u => u.ofTeam t.grid t.idx) (fun u => { u with starve := 0 }) s3.threads,
      intervals := updWhere (fun i => i.heldBy t.grid t.idx) (fun i => { i with core := none }) s3.intervals,
      ragged := updWhere (fun r => r.grid = t.grid && r.team = t.idx) (fun r => { r with core := none }) s3.ragged }
    s4.traceTeam 3 t.lastCore t.grid t.idx 0xFFFFFFFF 0xFFFFFFFF (moveBytes t1)

/-! ## TEAM_RESUME -/

/-- TEAM_RESUME: a team that is ready comes back on the core named; of a co-resident grid, every evicted team on its own core once one of them is ready. -/
def execTeamResume (grid : Nat) (cores : List (Nat × Nat)) (s : State) : Host.Outcome State Fault Refusal :=
  finish s (match s.grid? grid with
    | none => s
    | some x => match s.kernelOf x with
      | none => s
      | some k =>
        let away := s.teams.filter fun t => t.grid = grid && t.core.isNone && t.killed.isNone
        let whole := x.desc.coResident && away.length = cores.length && away.all (fun t => cores.any fun c => c.1 = t.idx)
        let single := !x.desc.coResident && cores.length = 1
        let ready := cores.any fun c => match s.team? grid c.1 with
          | some t => s.readyToResume t
          | none => false
        let later := s.grids.any fun y => x.prio < y.prio && cores.any fun c => s.couldPlace c.2 y || s.couldResume c.2 y
        if (whole || single) && ready && !later then
          ((s.resumeAll x k cores).bind fun s1 => if x.desc.coResident then s1.heldBack x k else some s1).getD s
        else s)

/-! ## TEAM_EVICT -/

/-- The pairs of a flat list. -/
def pairsOf : List Nat → List (Nat × Nat)
  | a :: b :: r => (a, b) :: pairsOf r
  | _ => []

/-- The teams that leave with the teams named: of a co-resident grid all (R70, R73). -/
def State.leaving (s : State) (ps : List (Nat × Nat)) : List Team :=
  ps.flatMap fun p => match s.team? p.1 p.2, s.grid? p.1 with
    | some t, some x => if x.desc.coResident then s.teams.filter fun u => u.grid = x.id && u.killed.isNone else [t]
    | _, _ => []

/-- The state without the teams; none where one of them may not leave, or a wake condition has come to hold (R74). -/
def State.evictAll (s : State) : List Team → Option State
  | [] => some s
  | u :: us => match s.team? u.grid u.idx with
    | some t => if s.evictable t && !s.anyWakes t then (s.evictOne t).evictAll us else none
    | none => none

/-- What waits for room with at least a priority: grids with teams to place, and evicted teams ready to resume (R74). -/
def State.waiters (s : State) (prio : Nat) : List (Grid × Option Team) :=
  ((s.grids.filter fun x => prio ≤ x.prio && (x.waitsWhole || x.waitsSingly)).map fun x => (x, none))
  ++ (s.teams.filter fun t => s.readyToResume t).flatMap fun t => ((s.grids.filter fun x => x.id = t.grid && prio ≤ x.prio).map fun x => (x, some t))

/-- There is room for what waits on one of the cores; for a co-resident grid, for all of it (R70, R74). -/
def State.holds (s : State) (cores : List Nat) (w : Grid × Option Team) : Bool :=
  match s.kernelOf w.1, w.2 with
  | none, _ => false
  | some k, none => if w.1.desc.coResident then s.wholeFits w.1 k else cores.any fun c => s.admits c w.1 k
  | some k, some t => if w.1.desc.coResident then s.gridFits w.1 k else cores.any fun c => s.admitsBack c t w.1 k

/-- TEAM_EVICT (subject: grid and index of one team or more): the teams are evicted, all needed to make room for one team that waits with equal or higher
priority (R74, R76); of a co-resident grid all teams together. -/
def execTeamEvict (s : State) : Host.Outcome State Fault Refusal :=
  let ps := pairsOf s.subject
  let go := s.leaving ps
  let prio := (go.map fun u => (((s.grid? u.grid).map (·.prio)).getD 0)).foldl max 0
  let cores := go.map (·.lastCore)
  let served (s1 : State) (w : Grid × Option Team) : Bool :=
    s1.holds cores w && (List.range ps.length).all fun k => match s.evictAll (s.leaving (ps.eraseIdx k)) with
      | some s2 => !s2.holds cores w
      | none => true
  finish s (match s.evictAll go with
    | none => s
    | some s1 => if !go.isEmpty && (s.waiters prio).any (served s1) then s1 else s)

end Sys2Proof.Machine
end

