-- ==== Sys2Proof/Machine/Spawning.lean ====
section
/-! DEFINITION. SPAWN, HEAT and the launch of heats (R77 to R81 of 04), LAUNCH (R63 to R66 of 03). -/

namespace Sys2Proof.Machine

/-! ## Heats (R77, R78) -/

/-- A heat launches: a new cohort of its team, one thread for each argument. -/
def State.launchHeat (s : State) (h : Heat) : State :=
  let s1 := { s with heats := s.heats.erase h }
  match s.team? h.grid h.team, (s.grid? h.grid).bind s.kernelOf with
  | some t, some k =>
    let n := (((s.context? (s.asidOf h.grid)).bind (·.window)).map (·.2.2)).getD 0
    let start (x : W32 × Nat) : Thread :=
      startThread { grid := h.grid, team := h.team, tid := h.base + x.2 } h.entry k.alloc (t.localSlot + (h.base + x.2 + 1) * n) x.1.toNat (s.beganOf (dieOfCore h.core))
    ({ s1 with threads := s1.threads ++ h.args.zipIdx.map start } : State).modTeam h.grid h.team fun u => { u with cohorts := u.cohorts ++ [h.base / 64] }
  | _, _ => s1

/-- A SPAWN of one thread: the status and the state (04, SPAWN). -/
def State.spawn (s : State) (c : Ctx) (entry : Nat) (arg : W32) : Nat × State :=
  let g := c.t.ref.grid
  let i := c.t.ref.team
  match s.team? g i with
  | none => (2, s)
  | some t =>
    let limit := c.kernel.teamSize + c.grid.desc.spawn
    let add (s : State) (h : Heat) : Nat × State :=
      if limit ≤ h.base + h.args.length then (2, s)
      else
        let h1 := { h with args := h.args ++ [arg] }
        let s1 := { s with heats := updWhere (fun x => x = h) (fun _ => h1) s.heats }
        (0, if h1.args.length = 64 then s1.launchHeat h1 else s1)
    match s.heats.find? fun h => h.grid = g && h.team = i && h.entry = entry with
    | some h => add s h
    | none =>
      let base := roundUp t.cursor 64
      if 16 ≤ (s.heats.filter fun h => h.core = c.core).length then (1, s)
      else if limit ≤ base then (2, s)
      else if !s.cohortsFit c.core [(base / 64 % 8, 64 * c.kernel.alloc)] then (2, s)
      else
        let h : Heat := { core := c.core, grid := g, team := i, entry := entry, base := base, args := [], deadline := s.clockOf c.die + t.heatTimer }
        add (({ s with heats := s.heats ++ [h] } : State).modTeam g i fun u => { u with cursor := base + 64 }) h

/-- SPAWN. -/
def execSpawn (d a b : Reg) (s : State) : Host.Outcome State Fault Refusal :=
  s.inTurn (.spawn d a b)
    (fun c => let e := (c.t.rd a).toNat; when (e % 4 ≠ 0) (Cause.alignment.at_ e) ++ when (c.code.size ≤ e) (Cause.permission.at_ e))
    (fun c s => let r := s.spawn c (c.t.rd a).toNat (c.t.rd b); r.2.modThread c.t.ref fun t => t.wr d (BitVec.ofNat 32 r.1))

/-- The timer HEAT sets: v[A] inside 256 to 65,536. -/
def heatTimer (v : W32) : Nat := min 65536 (max 256 v.toNat)

/-- HEAT. -/
def execHeat (a : Reg) (s : State) : Host.Outcome State Fault Refusal :=
  s.inTurn (.heat a) (fun _ => []) (fun c s => s.modTeam c.t.ref.grid c.t.ref.team fun u => { u with heatTimer := heatTimer (c.t.rd a) })

/-- HEAT_DEADLINE (subject: core, place among its heats): at its deadline the heat launches. -/
def execHeatDeadline (s : State) : Host.Outcome State Fault Refusal :=
  finish s (match (s.heats.filter fun h => h.core = s.subj 0)[s.subj 1]? with
    | none => s
    | some h => if h.deadline ≤ s.clockOf (dieOfCore h.core) then s.launchHeat h else s)

/-! ## LAUNCH -/

/-- Check_Read and Check_Write on n bytes (00; R109, R110, R258, R289). -/
def State.spanFails (s : State) (c : Ctx) (va n : Nat) (write : Bool) : List Fail :=
  let bad := Cause.permission.at_ va
  let right : Right := if write then .write else .read
  if rangeValid va n then
      (pageChunks va n).flatMap fun x => match s.resolve c.core c.asid c.system x.1 x.2 right with
        | .ok p => when (write && p.aperture && s.placeTagged p.key x.2) bad
        | .error f => [f]
    else [bad]

/-- Dirty bytes of the thread's core in a range are written back before the device reads them. -/
def State.flushSpan (s : State) (c : Ctx) (va n : Nat) : State :=
  s.writeBack fun d => d.core = c.core && d.asid = c.asid && va ≤ d.va && d.va < va + n

/-- A device-written word of a thread's context: the home has it, and the core and die of the thread keep no older copy. -/
def State.writeFor (s : State) (c : Ctx) (va : Nat) (bs : List Byte) : State :=
  match s.objectPlaces c.asid c.system va bs.length .write with
  | none => s
  | some ps => ps.foldl (fun s x => s.forget c.core x.1 x.2) (s.writeChunks ps bs)

/-- Steps 2 to 4 of R50 for a child, and its acceptance. -/
def State.launchChild (s : State) (c : Ctx) (va : Nat) (h : Option Nat) : Status × State :=
  match s.readObject c.asid c.system va 320 with
  | none => (.fault, s)
  | some bs =>
    match s.checkDesc c.asid c.system bs false with
    | (.ok, some k) =>
      let par := fld bs 0x10 8
      let s1 := (s.noteVa chipUnit c.asid c.system va 320).flushSpan c par k.params
      match s1.readObject c.asid c.system par k.params with
      | none => (.fault, s1)
      | some ps =>
        let s1 := s1.noteVa chipUnit c.asid c.system par k.params
        if s1.noSlot then (.noSlot, s1)
        else (.ok, s1.addGrid c.asid c.grid.system (parseDesc bs) (some va) ps (c.grid.depth + 1) (some (c.t.ref.grid, c.t.ref.team)) c.grid.prio
          (match h with | some off => .hurdle c.t.ref.grid c.t.ref.team off | none => .none))
    | (st, _) => (st, s)

/-- LAUNCH in one thread: a release at package scope, then the child (R64). -/
def launchWord (a b : Reg) (c : Ctx) (mark op : Nat) (s : State) : Lane :=
  let desc := (c.t.rd64 a).toNat
  let h := (c.t.rd b).toNat
  let m := if mark = 0 then op else mark
  let base := when (c.t.ref.tid ≠ 0) (Cause.privilege.at_ 0) ++ when (c.grid.depth = 10) (Cause.launchDepth.at_ desc)
    ++ when (desc % 64 ≠ 0) (Cause.alignment.at_ desc) ++ s.spanFails c desc 320 false ++ s.spanFails c (desc + 0x3C) 4 true
    ++ (if b = 0 then [] else c.hurdleChecks h)
  Lane.check (if mark = 0 then base else []) <|
    if !s.released c.t.ref c.core .package m || s.loadsHeld c.t.ref then .hold m false
    else
      let s1 := s.flushSpan c desc 320
      let (st, s2) := s1.launchChild c desc (if b = 0 then none else some h)
      let s3 := s2.writeFor c (desc + 0x3C) (leBytes st.code 4)
      .pass (if st = .ok || b = 0 then s3 else s3.arrive c.t.ref.grid c.t.ref.team h 1 [.package] [] 2)

/-- LAUNCH. -/
def execLaunch (l : BitVec 4) (a b : Reg) (s : State) : Host.Outcome State Fault Refusal := s.long (.launch l a b) (launchWord a b)

end Sys2Proof.Machine
end

