-- ==== Sys2Proof/Machine/Stops.lean ====
section
/-! DEFINITION. The steps around a precise stop: its end (R89), trap entry (R281), and the posting of fault and kill records (R280, R284, R291). -/

namespace Sys2Proof.Machine

/-! ## TLBI's word (13; its two halves stand here and in Translation) -/

/-- The translations an invalidation names (TLBI, TLB_INVALIDATE): kind 0 those of an ASID that map an address, kind 1 all of an ASID, kind 2 all. -/
def invalidates (kind asid va : Nat) (easid base size : Nat) : Bool :=
  match kind with
  | 0 => easid == asid && decide (base ≤ va ∧ va < base + size)
  | 1 => easid == asid
  | _ => true

/-- TLBI's drop, in every core TLB, cluster TLB and walker cache. -/
def State.dropTranslations (s : State) (kind asid va : Nat) : State :=
  let keep (e : TlbEntry) : Bool := !invalidates kind asid va e.asid e.base e.size
  { s with
    tlb := s.tlb.filter keep, tlb2 := s.tlb2.filter keep,
    walkCache := s.walkCache.filter fun w => !invalidates kind asid va w.asid (w.top * 2 ^ 30) (2 ^ 30) }

/-- The operation is moving bytes now: it has begun, and it is no contribution that is complete and only awaits its result. -/
def EngineOp.moving (e : EngineOp) : Bool :=
  e.started && match e.kind with
    | .rred c => c.data.length != e.rowBytes
    | _ => true

/-- TLBI's wait: an access, copy, MMA operand read or engine write numbered below the mark that may have used a dropped entry is under way (log 9: every
one of the context counts; an operation keeps no note of the entries it used). -/
def State.usesOld (s : State) (kind asid mark : Nat) : Bool :=
  let mine (g : Nat) : Bool := kind == 2 || s.asidOf g == asid
  s.loads.any (fun l => l.op < mark && l.value.isNone && (match l.source with | .memory _ => true | _ => false) && mine l.thread.grid)
    || s.atoms.any (fun a => a.op < mark && !a.performed && mine a.thread.grid)
    || s.wtb.any (fun w => w.op < mark && mine w.thread.grid)
    || s.engines.any (fun e => e.op < mark && e.moving && (kind == 2 || e.asid == asid))
    || s.mmas.any (fun m => m.op < mark && m.begun && (kind == 2 || m.asid == asid))

/-- TLBI in one thread: checks, the drop, and the wait for what used a dropped entry. -/
def tlbiWord (a b : Reg) (c : Ctx) (mark op : Nat) (s : State) : Lane :=
  let v := c.t.rd b
  let asid := (v.extractLsb' 0 16).toNat
  let kind := (v.extractLsb' 16 2).toNat
  let addr := c.t.rd64 a
  if mark ≠ 0 then (if s.usesOld kind asid mark then .hold mark false else .pass s)
  else
    Lane.check (when (kind == 3 || v.extractLsb' 18 14 != 0) (Cause.permission.at_ v.toNat)
        ++ when (kind == 0 && !validAddr addr) (Cause.permission.at_ addr.toNat)) <|
      let s1 := s.dropTranslations kind asid addr.toNat
      if s1.usesOld kind asid op then .keep s1 op else .pass s1

/-! ## The words that may be looked at again -/

/-- The word a suspended thread performs when it is looked at again; none for the words that never wait at their stop. -/
def stoppedWord (i : Instr) (batch : Nat) : Option (Ctx → Nat → Nat → State → Lane) :=
  match i with
  | .ldg _ sz d a off => some (loadWord false sz.bytes .plain d a off)
  | .ldgn _ sz d a off => some (loadWord true sz.bytes .plain d a off)
  | .ldgb _ sz d a off => some (loadWord false sz.bytes (subWiden sz) d a off)
  | .lds _ sz d a off => some (ldsWord sz.bytes d a off)
  | .ldk _ sz d a off => some (ldkWord sz.bytes d a off)
  | .stg streaming sz d a off => some (storeWord streaming sz.bytes d a off)
  | .stgb streaming sz d a off => some (storeWord streaming sz.bytes d a off)
  | .sts sz d a off => some (stsWord sz.bytes d a off)
  | .pref _ a b => some (prefWord a b)
  | .atom op _ w d a => some (atomWord batch true op w d a)
  | .red op w d a => some (atomWord batch false op w d a)
  | .ratom op _ ch d a => some (ratomWord batch op ch d a)
  | .rst ch sz d a off => some (rstWord ch sz.bytes d a off)
  | .qwait a b => some (qwaitWord batch a b)
  | .wake d a b => some (wakeWord batch d a b)
  | .oclaim _ a b => some (oclaimWord a b)
  | .omove _ a b => some (omoveWord a b)
  | .orels _ a => some (orelsWord a)
  | .fenceAcq _ sc => some (fenceWord true false sc)
  | .fenceRel _ sc => some (fenceWord false true sc)
  | .fenceAr _ sc => some (fenceWord true true sc)
  | .hinit _ a b => some (hinitWord a b)
  | .arriveRel _ sc a b => some (arriveRelWord sc a b)
  | .arriveRlx _ a b => some (arriveRlxWord a b)
  | .expect _ a b => some (expectWord a b)
  | .waitp d a b => some (waitpWord d a b)
  | .htest d a => some (htestWord d a)
  | .join t src => some (joinWord t src)
  | .drain _ ch a => some (drainWord ch a)
  | .cpy _ ch a b => some (copyWord .cpy ch a b)
  | .cpyg _ ch a b => some (copyWord .cpyg ch a b)
  | .cpys _ ch a b => some (copyWord .cpys ch a b)
  | .cpyf _ ch a b => some (copyWord .cpyf ch a b)
  | .rcpy _ ch a b => some (rcpyWord ch a b)
  | .rmc _ ch a b => some (rmcWord ch a b)
  | .rred _ ch a b => some (rredWord ch a b)
  | .obres _ a => some (obresWord a)
  | .obrel _ a => some (obrelWord a)
  | .accclr _ a => some (accclrWord a)
  | .accrd _ ch a b => some (accrdWord ch a b)
  | .mma _ a => some (mmaWord a)
  | .rbind _ a b => some (rbindWord a b)
  | .runbind _ a => some (runbindWord a)
  | .rgld _ ch a b => some (rgldWord ch a b)
  | .segred _ ch a b => some (segWord false ch a b)
  | .segscan _ ch a b => some (segWord true ch a b)
  | .segnorm _ ch a b => some (segnormWord ch a b)
  | .walk a => some (walkerWord i a false 0 (fun _ => []) (fun _ => .walk))
  | .wnext d a => some (walkerWord i a true d (fun _ => []) (fun _ => .next))
  | .wred a b => some (wredWord a b)
  | .wend a b => some (walkerWord i a false 0 (wendChecks b) fun c => .fin (c.t.rd b).toNat)
  | .route _ ch a b => some (routeWord ch a b)
  | .rret _ ch a b => some (rretWord ch a b)
  | .epdef _ a => some (epdefWord a)
  | .rasm _ a => some (rasmWord a)
  | .launch _ a b => some (launchWord a b)
  | .tlbi a b => some (tlbiWord a b)
  | _ => none

/-! ## PRECISE_STOP_END (R89) -/

/-- What a killed team has left, or taken again, by a word that was under way, goes (R282). -/
def State.stripKilled (s : State) (c : Ctx) : State := if c.team.killed.isSome then s.strip c.t.ref.grid c.t.ref.team else s

/-- A waiting word is looked at again. -/
def State.lookAgain (s : State) (c : Ctx) (i : Instr) (mark : Nat) (due : Option Fail) : State :=
  match stoppedWord i c.t.slot.1 with
  | none => s
  | some word =>
    let s1 := s.laneGo c i mark due c.t.slot word
    (match i with
    | .drain _ ch _ => s1.clearViolation i ch c.t.ref
    | _ => if isServed i then s1.sendBatch c.t.slot.1 else s1).stripKilled c

/-- The stop of a thread ends: on a pass it goes on and its window counts from the next word, or, its team killed meanwhile, it ends with its word completed
(R282); on a failure its cause is delivered; a word that waits is looked at again. For a thread at no stop, a fence that can be performed is (R247). -/
def State.endStop (s : State) (r : TRef) : State :=
  match s.ctx? r with
  | none => s
  | some c =>
    match c.t.status with
    | .stopped .pass =>
      if c.team.killed.isSome then (s.modThread r fun t => { t with status := .ready }).stripKilled c
      else s.modThread r fun t => { t.step with status := .ready }
    | .stopped (.fail f) => (s.modThread r fun t => { t with status := .ready }).takeCause r f
    | .stopped (.again i m due) => s.lookAgain c i m due
    | _ => s.settleFences r

/-- PRECISE_STOP_END. -/
def execPreciseStopEnd (t : TRef) (s : State) : Host.Outcome State Fault Refusal := finish s (s.endStop t)

/-! ## TRAP_ENTRY (R281) -/

/-- A thread that waits for trap entry enters its handler, once its pending sets have cleared and its team is in no fault wait. -/
def State.trapEntry (s : State) (r : TRef) : State :=
  match s.ctx? r with
  | none => s
  | some c =>
    match c.t.status, c.kernel.trap with
    | .trapWait f, some entry =>
      if s.inFaultWait r.grid r.team || c.t.awaiting then s else s.modThread r fun t => t.enterTrap entry f
    | _, _ => s

/-- TRAP_ENTRY. -/
def execTrapEntry (t : TRef) (s : State) : Host.Outcome State Fault Refusal := finish s (s.trapEntry t)

/-! ## FAULT_RECORD_POST, KILL_RECORD_POST (R280, R284, R291) -/

/-- The queue takes a record now: it is enabled and not full. -/
def OutQueue.hasRoom (q : OutQueue) : Bool := q.size != 0 && !q.full

/-- The oldest fault record not yet in its queue is written there, then WRITE advances. -/
def State.postFault (s : State) : State :=
  match s.faultRecs.find? fun f => !f.posted with
  | none => s
  | some f =>
    if !s.faultQ.hasRoom then s
    else
      let (a, q) := s.faultQ.place f.bytes
      { s.wr a f.bytes with faultQ := q, faultRecs := updWhere (fun g => g.seq = f.seq) (fun g => { g with posted := true }) s.faultRecs }

/-- FAULT_RECORD_POST. -/
def execFaultRecordPost (s : State) : Host.Outcome State Fault Refusal := finish s s.postFault

/-- The oldest kill record held is written to its queue, then WRITE advances. -/
def State.postKill (s : State) : State :=
  match s.killQ.held with
  | [] => s
  | k :: rest =>
    if !s.killQ.hasRoom then s
    else
      let (a, q) := s.killQ.place k
      { s.wr a k with killQ := { q with held := rest } }

/-- KILL_RECORD_POST. -/
def execKillRecordPost (s : State) : Host.Outcome State Fault Refusal := finish s s.postKill

end Sys2Proof.Machine
end

