-- ==== Sys2Proof/Machine/Translation.lean ====
section
/-! DEFINITION. The privileged interface (R291, R292): the queues the device fills, host accesses and host translations (R117, R290), the command ring and its
commands but for tracing and dumping (Watch). -/

namespace Sys2Proof.Machine

/-! ## TLBI -/

/-- TLBI: takes PRIVILEGE at decode in a kernel whose system flag is clear. -/
def execTlbi (a b : Reg) (s : State) : Host.Outcome State Fault Refusal := s.long (.tlbi a b) (tlbiWord a b)

/-! ## The queues the device fills (R291) -/

/-- One of the three queues changed. -/
def State.modOut (s : State) (q : DevQueue) (f : OutQueue → OutQueue) : State :=
  match q with
  | .fault => { s with faultQ := f s.faultQ }
  | .kill => { s with killQ := f s.killQ }
  | .event => { s with eventQ := f s.eventQ }

/-- A write to BASE or SIZE: it takes effect while READ equals WRITE and the value lies in its range. -/
def OutQueue.configure (q : OutQueue) (r : RingReg) (v : W64) : OutQueue :=
  if q.read ≠ q.write then q
  else match r with
    | .base => if v.toNat % 64 = 0 then { q with base := v } else q
    | .size => if ringSizeOk (v.extractLsb' 0 32) then { q with size := v.extractLsb' 0 32 } else q

/-- QUEUE_CONFIG_WRITE. -/
def execQueueConfigWrite (q : DevQueue) (r : RingReg) (v : W64) (s : State) : Host.Outcome State Fault Refusal := finish s (s.modOut q fun x => x.configure r v)

/-- QUEUE_READ_WRITE. -/
def execQueueReadWrite (q : DevQueue) (v : W32) (s : State) : Host.Outcome State Fault Refusal := finish s (s.modOut q fun x => { x with read := v })

/-! ## Host translations and host accesses (R117, R19, R290) -/

/-- The host address that a frame's page is translated to now. -/
def State.hostPage (s : State) (page : Nat) : Option Nat := s.ats (page * 4096)

/-- An access under way may use the translation of a page: an access that names the host page, or an engine that moves bytes. -/
def State.pageInUse (s : State) (page : Nat) : Bool :=
  match s.hostPage page with
  | none => false
  | some h =>
    let on (k n : Nat) : Bool := overlap k n (hostKey h) 4096
    s.loads.any (fun l => l.value.isNone && on l.place l.size) || s.atoms.any (fun a => !a.performed && on a.place 8)
      || s.wtb.any (fun w => on w.place w.bytes.length) || s.engines.any EngineOp.moving || s.mmas.any (·.begun)

/-- ATS_INVALIDATION: once no use of the page is under way, die 0's entry leaves and the host's translation is the new one; until then nothing happens. -/
def execAtsInvalidation (page : Nat) (now : Option Nat) (s : State) : Host.Outcome State Fault Refusal :=
  finish s (if s.pageInUse page then s
    else { s with atc := s.atc.filter (fun p => p.1 ≠ page), hostMap := s.hostMap.filter (fun p => p.1 ≠ page) ++ [(page, now)] })

/-- The host's accesses to device memory reach it: the link is up, and not for CXL.io only as in the recovery state (R12, R13). -/
def Boot.memOpen (b : Boot) : Bool := b.link.isSome && b.service != .off && b.service != .recovery

/-- HOST_MEM_ACCESS: the host's CXL.mem access to device memory; in the recovery state nothing answers it. -/
def execHostMemAccess (addr : Nat) (write : Option (List Byte)) (len : Nat) (s : State) : Host.Outcome State Fault Refusal :=
  finish s (if !s.boot.memOpen then s else match write with
    | some bs => s.homeWrite (devKey addr) bs
    | none => s.noteRead (devKey addr) len)

/-- HOST_MEMORY_WRITE: the host writes its own memory, which die 0 caches coherently. -/
def execHostMemoryWrite (addr : Nat) (bytes : List Byte) (s : State) : Host.Outcome State Fault Refusal := finish s (s.wr (hostKey addr) bytes)

/-! ## The command ring (R291) -/

/-- Opcode of a command. -/
def privOp (bs : List Byte) : Nat := fld bs 0 4
/-- Operand A0 to A4. -/
def privA (bs : List Byte) (k : Nat) : Nat := fld bs (8 + 8 * k) 8
/-- Completion address. -/
def privDone (bs : List Byte) : Nat := fld bs 0x30 8
/-- Item k of an operand that lists several: 16 bits each (log 41). -/
def item (v k : Nat) : Nat := v / 65536 ^ k % 65536

/-- How many operands a command takes, from A0 on. -/
def privArity (op : Nat) : Nat := [0, 2, 2, 4, 3, 3, 5, 1, 2, 3, 2, 2, 2, 2, 4, 4, 2].getD op 0

/-- The command at HEAD, when it may start: the one before has ended. -/
def State.privHead (s : State) : Option (List Byte) :=
  let x := s.priv
  if !s.serving || x.size = 0 || x.head = x.tail || !x.pending.isEmpty then none
  else some (s.rd (hostKey (x.base.toNat + 64 * x.head.toNat)) 64)

/-- An unknown opcode, a zero field or an unused operand that is not zero (R46, R291). -/
def privReserved (bs : List Byte) : Bool :=
  !(1 ≤ privOp bs && privOp bs ≤ 16) || fld bs 0x38 8 ≠ 0 || (List.range 5).any fun k => privArity (privOp bs) ≤ k && privA bs k ≠ 0

/-- HEAD past a command. -/
def State.privAdvance (s : State) : State :=
  { s with priv := { s.priv with head := BitVec.ofNat 32 ((s.priv.head.toNat + 1) % s.priv.size.toNat), taken := s.priv.taken + 1 } }

/-- The completion record of a command. -/
def State.privRecord (s : State) (bs : List Byte) (st : Status) : State :=
  if privDone bs = 0 then s else s.wr (hostKey (privDone bs)) (leBytes (fld bs 4 4) 4 ++ leBytes 0 2 ++ leBytes st.code 1 ++ leBytes 0 1)

/-- A well-formed command at HEAD with an opcode. -/
def State.privFor (s : State) (op : Nat) : Option (List Byte) :=
  match s.privHead with
  | some bs => if privOp bs = op && !privReserved bs && privDone bs % 8 = 0 then some bs else none
  | none => none

/-- A command that ends in its step: its effect, HEAD, its completion record. -/
def State.privDo (s : State) (op : Nat) (f : List Byte → State → Status × State) : Host.Outcome State Fault Refusal :=
  finish s (match s.privFor op with
    | none => s
    | some bs => let (st, s1) := f bs s; s1.privAdvance.privRecord bs st)

/-- PRIV_UNKNOWN_COMMAND: a command that is malformed, or whose completion address is misaligned. -/
def execPrivUnknownCommand (s : State) : Host.Outcome State Fault Refusal :=
  finish s (match s.privHead with
    | none => s
    | some bs =>
      let s1 := s.privAdvance.modQueue privPage HostQueue.ringErr
      if privDone bs % 8 ≠ 0 then s1 else if privReserved bs then s1.privRecord bs .reserved else s)

/-! ## Contexts -/

/-- An ASID is known once its root table is set. -/
def State.asidKnown (s : State) (asid : Nat) : Bool := ((s.context? asid).bind (·.root)).isSome

/-- A context's settings changed. -/
def State.modContext (s : State) (asid : Nat) (f : Context → Context) : State :=
  match s.context? asid with
  | some _ => { s with contexts := updWhere (fun c => c.asid = asid) f s.contexts }
  | none => { s with contexts := s.contexts ++ [f { asid := asid, root := none, window := none, save := none }] }

/-- A queue holds entries not taken, or taken and not ended. -/
def HostQueue.busy (x : HostQueue) : Bool := x.head != x.tail || !x.pending.isEmpty
/-- The same of an RMA queue. -/
def RmaQueue.busy (x : RmaQueue) : Bool := x.head != x.tail || !x.inFlight.isEmpty || x.waits.isSome

/-- BIND_QUEUE (1): A0 kind, number; A1 ASID, system flag. -/
def bindQueue (bs : List Byte) (s : State) : Status × State :=
  let kind := item (privA bs 0) 0
  let n := item (privA bs 0) 1
  let asid := item (privA bs 1) 0
  let sys := item (privA bs 1) 1
  if 1 < kind || 1 < sys || (if kind = 0 then 64 else 16) ≤ n || 2 ^ 32 ≤ privA bs 0 || 2 ^ 32 ≤ privA bs 1 then (.range, s)
  else if !s.asidKnown asid then (.unknownId, s)
  else if kind = 0 then
    if (s.queues[n]?).any HostQueue.busy then (.inUse, s)
    else (.ok, { s with queues := s.queues.modify n fun x => { x with asid := some asid, system := sys == 1 } })
  else if (s.rmas[n]?).any RmaQueue.busy then (.inUse, s)
  else (.ok, { s with rmas := s.rmas.modify n fun x => { x with asid := some asid, system := sys == 1 } })

/-- BIND_QUEUE. -/
def execBindQueue (s : State) : Host.Outcome State Fault Refusal := s.privDo 1 bindQueue

/-- SET_ASID (2): A0 ASID; A1 root table. -/
def setAsid (bs : List Byte) (s : State) : Status × State :=
  if 65536 ≤ privA bs 0 || privA bs 1 % 4096 ≠ 0 then (.range, s)
  else (.ok, s.modContext (privA bs 0) fun c => { c with root := some (privA bs 1) })

/-- SET_ASID. -/
def execSetAsid (s : State) : Host.Outcome State Fault Refusal := s.privDo 2 setAsid

/-- Some team of a context lives: it is placed, or a place is held for its next attempt. -/
def State.teamLives (s : State) (p : Nat → Bool) : Bool := s.teams.any (fun t => p t.grid) || s.heldPlaces.any fun x => p x.1.id

/-- SET_LOCAL_WINDOW (3): A0 ASID; A1 base; A2 stack size; A3 window length (R111). -/
def setLocalWindow (bs : List Byte) (s : State) : Status × State :=
  let asid := privA bs 0
  let base := privA bs 1
  let stack := privA bs 2
  let len := privA bs 3
  if 65536 ≤ asid then (.range, s)
  else if !s.asidKnown asid then (.unknownId, s)
  else if base % 65536 ≠ 0 || len % 65536 ≠ 0 || 2 ^ 32 < base + len || stack % 256 ≠ 0 || stack < 256 || 65536 < stack then (.range, s)
  else if s.teamLives fun g => s.asidOf g == asid then (.inUse, s)
  else (.ok, s.modContext asid fun c => { c with window := some (base, len, stack) })

/-- SET_LOCAL_WINDOW. -/
def execSetLocalWindow (s : State) : Host.Outcome State Fault Refusal := s.privDo 3 setLocalWindow

/-- SET_SAVE_AREA (4): A0 ASID; A1 address; A2 bytes. -/
def setSaveArea (bs : List Byte) (s : State) : Status × State :=
  if 65536 ≤ privA bs 0 then (.range, s)
  else if !s.asidKnown (privA bs 0) then (.unknownId, s)
  else (.ok, s.modContext (privA bs 0) fun c => { c with save := some (privA bs 1, privA bs 2) })

/-- SET_SAVE_AREA. -/
def execSetSaveArea (s : State) : Host.Outcome State Fault Refusal := s.privDo 4 setSaveArea

/-- SET_RSTACK_AREA (16): A0 physical base; A1 length (R111). -/
def setRstackArea (bs : List Byte) (s : State) : Status × State :=
  if privA bs 0 % 65536 ≠ 0 || privA bs 1 % 65536 ≠ 0 then (.range, s)
  else if s.teamLives fun _ => true then (.inUse, s)
  else (.ok, { s with rstackArea := some (privA bs 0, privA bs 1) })

/-- SET_RSTACK_AREA. -/
def execSetRstackArea (s : State) : Host.Outcome State Fault Refusal := s.privDo 16 setRstackArea

/-! ## Die maps, regions, channels -/

/-- SET_DIE_MAP (5): A0 ASID, slot; A1 device, die, valid; A2 slot base (12). -/
def setDieMap (bs : List Byte) (s : State) : Status × State :=
  let asid := item (privA bs 0) 0
  let slot := item (privA bs 0) 1
  let d : DieId := { dev := item (privA bs 1) 0, die := item (privA bs 1) 1 }
  let valid := item (privA bs 1) 2
  let base := privA bs 2
  if 2 ^ 32 ≤ privA bs 0 || 2 ^ 48 ≤ privA bs 1 || 64 ≤ slot || 1 < valid then (.range, s)
  else if !s.asidKnown asid then (.unknownId, s)
  else
    let rest := s.dieMap.filter fun m => !(m.asid = asid && m.slot = slot)
    if valid = 0 then (.ok, { s with dieMap := rest })
    else if s.boot.devices ≤ d.dev || 4 ≤ d.die
        || (d.dev ≠ s.boot.device && !(isFabric base && fabricDev base = d.dev && fabricDie base = d.die)) || (d.dev = s.boot.device && isFabric base) then (.range, s)
    else (.ok, { s with dieMap := rest ++ [{ asid := asid, slot := slot, at_ := d, base := base }] })

/-- SET_DIE_MAP. -/
def execSetDieMap (s : State) : Host.Outcome State Fault Refusal := s.privDo 5 setDieMap

/-- The system flag of a context: that of a queue bound to it (R44). -/
def State.contextSystem (s : State) (asid : Nat) : Bool :=
  s.queues.any (fun x => x.asid == some asid && x.system) || s.rmas.any fun x => x.asid == some asid && x.system

/-- REGION_REGISTER (6): A0 ASID, die, region; A1 base; A2 length; A3 devmask; A4 rights, bit 0 read, bit 1 write, bit 2 atomic (R269). -/
def regionRegister (bs : List Byte) (s : State) : Status × State :=
  let asid := item (privA bs 0) 0
  let die := item (privA bs 0) 1
  let n := item (privA bs 0) 2
  let rights := privA bs 4
  if 2 ^ 48 ≤ privA bs 0 || 4 ≤ die || 16 ≤ n || privA bs 2 = 0 || 2 ^ 32 ≤ privA bs 2 || 8 ≤ rights then (.range, s)
  else if !s.asidKnown asid then (.unknownId, s)
  else if (s.region? asid die n).any fun r => !r.active then (.inUse, s)
  else
    let rest := s.regions.filter fun r => !(r.asid = asid && r.die = die && r.number = n)
    let r : Region := { asid := asid, die := die, number := n, system := s.contextSystem asid, base := privA bs 1, len := privA bs 2, accepted := 0,
                        devmask := BitVec.ofNat 64 (privA bs 3), read := rights.testBit 0, write := rights.testBit 1, atomic := rights.testBit 2, active := true }
    (.ok, ({ s with regions := rest ++ [r] } : State).settleRegions)

/-- REGION_REGISTER. -/
def execRegionRegister (s : State) : Host.Outcome State Fault Refusal := s.privDo 6 regionRegister

/-- REGION_REVOKE (7): A0 ASID, die, region (R271). -/
def regionRevoke (bs : List Byte) (s : State) : Status × State :=
  let asid := item (privA bs 0) 0
  let die := item (privA bs 0) 1
  let n := item (privA bs 0) 2
  if 2 ^ 48 ≤ privA bs 0 || 4 ≤ die || 16 ≤ n then (.range, s)
  else if !s.asidKnown asid then (.unknownId, s)
  else (.ok, ({ s with regions := updWhere (fun r => r.asid = asid && r.die = die && r.number = n) (fun r => { r with active := false }) s.regions } : State).settleRegions)

/-- REGION_REVOKE. -/
def execRegionRevoke (s : State) : Host.Outcome State Fault Refusal := s.privDo 7 regionRevoke

/-- A grid, and an index below its team count, are known from acceptance to retirement (R332). -/
def State.teamKnown (s : State) (g i : Nat) : Bool := (s.grid? g).any fun x => i < x.desc.teams

/-- R263, R264: what still stands on the channel's entries is lost, CLOSE goes to the destinations that can be reached, numbers restart in a new epoch. -/
def State.resetChannel (s : State) (k : ChanKey) : State :=
  let mine := s.srcEntries.filter fun e => e.key = k
  let s1 := mine.foldl (fun s e => if e.state = .broken then s else s.loseEntry k e.dst) s
  let c := s1.chanRec k
  let asid := match k with | .team g _ _ => s.asidOf g | .rma q => ((s.rmas[q]?).bind (·.asid)).getD 0
  let close (e : SrcEntry) : Packet :=
    { src := k, srcAt := s.here (s.chanHome k), dst := e.dst, asid := asid, kind := .close, seq := 0, epoch := c.epoch, op := 0, part := 0, body := .empty }
  let s2 := mine.foldl (fun s e => s.launchPacket (close e)) s1
  (({ s2 with srcEntries := s2.srcEntries.filter fun e => e.key ≠ k } : State).putChan { c with epoch := c.epoch + 1 }).afterChange k

/-- CHANNEL_RESET (8): A0 grid, team, 32 bits each; A1 channel. A channel that is not BROKEN is left as it is. -/
def channelReset (bs : List Byte) (s : State) : Status × State :=
  let g := privA bs 0 % 2 ^ 32
  let i := privA bs 0 / 2 ^ 32
  let k := ChanKey.team g i (privA bs 1)
  if 16 ≤ privA bs 1 then (.range, s)
  else if !s.teamKnown g i then (.unknownId, s)
  else if s.chanBroken k then (.ok, s.resetChannel k)
  else (.ok, s)

/-- CHANNEL_RESET. -/
def execChannelReset (s : State) : Host.Outcome State Fault Refusal := s.privDo 8 channelReset

/-- READ_VIOLQ (13): A0 buffer address; A1 records (R275). -/
def readViolq (bs : List Byte) (s : State) : Status × State :=
  let n := privA bs 1
  (.ok, { s.wr (hostKey (privA bs 0)) ((s.violQ.take n).flatMap id) with violQ := s.violQ.drop n })

/-- READ_VIOLQ. -/
def execReadViolq (s : State) : Host.Outcome State Fault Refusal := s.privDo 13 readViolq

/-! ## KILL (R332) -/

/-- One index of a grid ended by KILL; alone: the command names it alone. -/
def State.killIndex (s : State) (g i : Nat) (alone : Bool) : State :=
  match s.grid? g with
  | none => s
  | some x =>
    let die (s : State) : State := s.modGrid g fun y => { y with dead := y.dead ++ [i] }
    match x.again.find? fun a => a.idx = i with
    | some a =>
      let rec256 := s.killRecord g i a.attempt 0 { cause := 0x1F }
      let s1 := (s.holdKill rec256).modGrid g fun y => { y with again := y.again.erase a }
      die (s1.modTeam g i fun t => { t with relaunch := false })
    | none =>
      if (s.team? g i).any fun t => t.killed.isNone then s.killTeam g i { cause := 0x1F } true
      else if (x.queued && !x.dead.contains i) || x.unplaced.any fun u => u.first ≤ i && i < u.first + u.count then
        let s1 := if alone then s.holdKill (s.killRecord g i 0 4 { cause := 0x1F }) else s
        die (s1.modGrid g fun y => { y with unplaced := dropIndex i y.unplaced })
      else s

/-- Every index of a grid. -/
def State.killAll (s : State) (g : Nat) : State := (List.range (((s.grid? g).map fun x => x.desc.teams).getD 0)).foldl (fun s i => s.killIndex g i false) s

/-- The grids below some teams of a grid: children of those teams and every grid below these. A child is accepted after its parent. -/
def State.descendants (s : State) (g : Nat) (from_ : Nat → Bool) : List Nat :=
  s.grids.foldl (fun acc x => match x.parent with
    | some (p, i) => if (p = g && from_ i) || acc.contains p then acc ++ [x.id] else acc
    | none => acc) []

/-- KILL (9): A0 grid; A1 team, or 0xFFFF_FFFF for all; A2 bit 0 whole tree. -/
def kill (bs : List Byte) (s : State) : Status × State :=
  let g := privA bs 0
  let i := privA bs 1
  let all := i = 0xFFFFFFFF
  if 1 < privA bs 2 then (.range, s)
  else if (s.grid? g).isNone || !(all || s.teamKnown g i) then (.unknownId, s)
  else
    let below := if privA bs 2 = 1 then s.descendants g (fun j => all || j == i) else []
    let s1 := if all then s.killAll g else s.killIndex g i true
    (.ok, below.foldl State.killAll s1)

/-- KILL. -/
def execKill (s : State) : Host.Outcome State Fault Refusal := s.privDo 9 kill

/-! ## FAULT_REPLY (R280) -/

/-- The threads joined to a record. -/
def Thread.joinedTo (t : Thread) (seq : Nat) : Option Nat :=
  match t.status with
  | .faulted n a => if n = seq then some a else none
  | _ => none

/-- A thread's reply: 0 RETRY, it issues its word again; 1 ABORT, PERMISSION at the word, delivered now or, while its team is evicted, once it has
resumed; 2 SKIP, it continues at the next word. -/
def State.answerThread (s : State) (seq reply kind : Nat) (r : TRef) : State :=
  match (s.thread? r).bind fun t => t.joinedTo seq with
  | none => s
  | some a =>
    match reply with
    | 0 => s.modThread r fun t => { t with status := .ready }
    | 1 =>
      let f := Cause.permission.at_ (if kind = 4 then (Config.openTaddr 2).toNat else a)
      if (s.ctx? r).isSome then (s.modThread r fun t => { t with status := .ready }).takeCause r f
      else s.modThread r fun t => { t with status := .stopped (.fail f) }
    | _ => s.modThread r fun t => { t.step with status := .ready }

/-- FAULT_REPLY (10): A0 record sequence; A1 reply. -/
def faultReply (bs : List Byte) (s : State) : Status × State :=
  match s.faultRecs.find? fun f => f.seq = privA bs 0 && f.posted with
  | none => (.unknownId, s)
  | some f =>
    let reply := privA bs 1
    if 2 < reply || (reply = 2 && f.kind ≠ 4) then (.range, s)
    else
      let s1 := { s with faultRecs := s.faultRecs.erase f }
      let joined := (s.threads.filter fun t => (t.joinedTo f.seq).isSome).map (·.ref)
      (.ok, (byTid joined).foldl (fun s r => s.answerThread f.seq reply f.kind r) s1)

/-- FAULT_REPLY. -/
def execFaultReply (s : State) : Host.Outcome State Fault Refusal := s.privDo 10 faultReply

/-! ## TLB_INVALIDATE, DEBUG -/

/-- TLB_INVALIDATE (11): A0 kind, ASID; A1 address. The step starts the command, or, once what used a dropped translation has ended, ends it. -/
def State.tlbInvalidate (s : State) : State :=
  let kind (bs : List Byte) : Nat := item (privA bs 0) 0
  let asid (bs : List Byte) : Nat := item (privA bs 0) 1
  match s.priv.pending with
  | (mark, bs) :: _ =>
    if s.usesOld (kind bs) (asid bs) mark then s
    else ({ s with priv := { s.priv with pending := [] } } : State).privAdvance.privRecord bs .ok
  | [] =>
    match s.privFor 11 with
    | none => s
    | some bs =>
      let stop (st : Status) : State := s.privAdvance.privRecord bs st
      if 2 < kind bs || 2 ^ 32 ≤ privA bs 0 || (kind bs = 0 && !validAddr (BitVec.ofNat 64 (privA bs 1))) then stop .range
      else if kind bs ≠ 2 && !s.asidKnown (asid bs) then stop .unknownId
      else
        let s1 := s.dropTranslations (kind bs) (asid bs) (privA bs 1)
        if s1.usesOld (kind bs) (asid bs) s1.nextOp then { s1 with priv := { s1.priv with pending := [(s1.nextOp, bs)] } }
        else s1.privAdvance.privRecord bs .ok

/-- TLB_INVALIDATE. -/
def execTlbInvalidate (s : State) : Host.Outcome State Fault Refusal := finish s s.tlbInvalidate

/-- DEBUG (12): A0 grid; A1 bit 0 on. -/
def setDebug (bs : List Byte) (s : State) : Status × State :=
  if 1 < privA bs 1 then (.range, s)
  else if (s.grid? (privA bs 0)).isNone then (.unknownId, s)
  else (.ok, s.modGrid (privA bs 0) fun x => { x with debug := privA bs 1 == 1 })

/-- DEBUG. -/
def execDebug (s : State) : Host.Outcome State Fault Refusal := s.privDo 12 setDebug

end Sys2Proof.Machine
end

