-- ==== Sys2Proof/Machine/Rma.lean ====
section
/-! DEFINITION. RMA queues (R272, R273): their registers and the entries PUT, GET and WAIT. -/

namespace Sys2Proof.Machine

/-! ## Registers (R272) -/

/-- RESERVED, bit 3 of RSTATUS. -/
def RmaQueue.reserved (x : RmaQueue) : RmaQueue := { x with status := x.status ||| 8 }

/-- HALTED, bit 0 of RSTATUS. -/
def RmaQueue.halted (x : RmaQueue) : Bool := x.status.getLsbD 0

/-- RMA_RING_CONFIG_WRITE: RBASE and RSIZE under the rules of R44. -/
def execRmaRingConfigWrite (q : Nat) (r : RingReg) (v : W64) (s : State) : Host.Outcome State Fault Refusal :=
  finish s (s.modRma q fun x => match r with
    | .base => if x.head = x.tail && v.toNat % 64 = 0 then { x with base := v, head := 0, tail := 0 } else x.reserved
    | .size => if x.head = x.tail && ringSizeOk (v.extractLsb' 0 32) then { x with size := v.extractLsb' 0 32, head := 0, tail := 0 } else x.reserved)

/-- RMA_TAIL_WRITE. -/
def execRmaTailWrite (q : Nat) (v : W32) (s : State) : Host.Outcome State Fault Refusal :=
  finish s (s.modRma q fun x => if v.toNat < x.size.toNat then { x with tail := v } else x.reserved)

/-- RSTATUS_W1C: clearing HALTED lets the queue take entries again. -/
def execRstatusW1c (q : Nat) (v : W32) (s : State) : Host.Outcome State Fault Refusal :=
  finish s (s.modRma q fun x => { x with status := x.status &&& ~~~(v &&& 0xF) })

/-! ## The entry at HEAD (R272, R273) -/

/-- What stands at an RMA queue's HEAD: nothing while it is halted or a WAIT holds it. -/
def State.rmaHead (s : State) (q : Nat) : HeadEntry :=
  match s.rmas[q]? with
  | none => .none
  | some x => match x.asid with
    | none => .none
    | some asid =>
      if !s.serving || x.size = 0 || x.head = x.tail || x.halted || x.waits.isSome then .none
      else match s.readObject asid x.system (x.base.toNat + 64 * x.head.toNat) 64 with
        | none => .unreadable
        | some bs => .bytes bs

/-- LENGTH. -/
def rmaLen (bs : List Byte) : Nat := fld bs 4 4
/-- LOCAL. -/
def rmaLocal (bs : List Byte) : Nat := fld bs 8 8
/-- REMOTE. -/
def rmaRemote (bs : List Byte) : Nat := fld bs 0x10 8

/-- A malformed entry: unknown opcode, a field that must be zero, or a field outside its range (log 43). -/
def State.rmaReserved (s : State) (bs : List Byte) : Bool :=
  let op := entryOp bs
  !zeroField bs 1 1 || !zeroField bs 0x20 32 || match op with
    | 1 | 2 => !zeroField bs 2 2 || !zeroField bs 0x18 8 || rmaLen bs = 0 || 2 ^ 31 < rmaLen bs || !isFabric (rmaRemote bs) || !s.fabricOk (rmaRemote bs)
        || 2 ^ 32 < fabricOff (rmaRemote bs) + rmaLen bs
    | 3 => 16 ≤ fld bs 2 2 || rmaLen bs ≠ 0
    | _ => true

/-- HEAD past an entry. -/
def State.rmaAdvance (s : State) (q : Nat) : State :=
  let s1 := match s.rmas[q]? with
    | none => s
    | some x => s.noteVa chipUnit (x.asid.getD 0) x.system (x.base.toNat + 64 * x.head.toNat) 64
  s1.modRma q fun x => { x with head := BitVec.ofNat 32 ((x.head.toNat + 1) % x.size.toNat) }

/-- A well-formed entry at HEAD with an opcode. -/
def State.rmaFor (s : State) (q op : Nat) : Option (RmaQueue × List Byte) :=
  match s.rmas[q]?, s.rmaHead q with
  | some x, .bytes bs => if entryOp bs = op && !s.rmaReserved bs then some (x, bs) else none
  | _, _ => none

/-- RMA_ENTRY_RESERVED (subject: queue): a malformed entry sets RESERVED and HALTED; one that cannot be read is passed over as R46 states. -/
def execRmaEntryReserved (s : State) : Host.Outcome State Fault Refusal :=
  let q := s.subj 0
  finish s (match s.rmaHead q with
    | .none => s
    | .unreadable => (s.rmaAdvance q).modRma q RmaQueue.reserved
    | .bytes bs =>
      if s.rmaReserved bs then
        let at_ := ((s.rmas[q]?).map fun x => x.base.toNat + 64 * x.head.toNat).getD 0
        (s.rmaAdvance q).haltRma q 8 at_
      else s)

/-! ## PUT and GET -/

/-- The pieces of a transfer: offset and length, cut at 256-byte granules of the other device's addresses. fuel: the length. -/
def granules (start done left : Nat) : Nat → List (Nat × Nat)
  | 0 => []
  | fuel + 1 =>
    if left = 0 then []
    else
      let n := min left (256 - (start + done) % 256)
      (done, n) :: granules start (done + n) (left - n) fuel

/-- The die a fabric address names. -/
def fabricDest (va : Nat) : DieId := { dev := fabricDev va, die := fabricDie va }

/-- An entry taken on a BROKEN path: the queue halts. -/
def State.rmaBroken (s : State) (q : Nat) (va : Nat) : State := (s.rmaAdvance q).haltRma q 4 va

/-- The path to a destination is BROKEN. -/
def State.pathBroken (s : State) (k : ChanKey) (d : DieId) : Bool := (s.entry k d).state == .broken

/-- A transfer starts: it is in flight, and its packets wait at the queue's entry. -/
def State.rmaStart (s : State) (q : Nat) (x : RmaQueue) (bs : List Byte) (get : Bool) (ps : List Part) : State :=
  let (op, s1) := s.fresh
  let k := ChanKey.rma q
  let (ord, s2) := s1.openOp k op (if get then ps.length else 0) false
  let e : RmaEntry := { op := op, get := get, here := rmaLocal bs, there := rmaRemote bs, broken := false }
  let s3 := (s2.rmaAdvance q).modRma q fun y => { y with inFlight := y.inFlight ++ [e] }
  s3.sendParts k (s.chanHome k) (x.asid.getD 0) op ord 0 ps

/-- The part of a transfer at an offset of its REMOTE. -/
def remoteTarget (va off : Nat) : Target := .region (fabricRegion va) (fabricOff va + off)

/-- RMA_PUT (subject: queue): the bytes at LOCAL are read and sent; LOCAL that cannot be read stops the queue with VIOLATION (log 43). -/
def execRmaPut (s : State) : Host.Outcome State Fault Refusal :=
  let q := s.subj 0
  finish s (match s.rmaFor q 1 with
    | none => s
    | some (x, bs) =>
      let d := fabricDest (rmaRemote bs)
      if s.pathBroken (.rma q) d then s.rmaBroken q (rmaRemote bs)
      else if !s.roomFor (.rma q) d then s
      else match s.readObject (x.asid.getD 0) x.system (rmaLocal bs) (rmaLen bs) with
        | none => (s.rmaAdvance q).haltRma q 2 (rmaLocal bs)
        | some data =>
          (s.noteVa chipUnit (x.asid.getD 0) x.system (rmaLocal bs) (rmaLen bs)).rmaStart q x bs false ((granules (fabricOff (rmaRemote bs)) 0 (rmaLen bs) (rmaLen bs)).map fun g =>
            ({ dst := d, kind := .data, body := .write (remoteTarget (rmaRemote bs) g.1) ((data.drop g.1).take g.2) } : Part)))

/-- Each GET packet names its place in the transfer by its offset. -/
def State.rmaGet (s : State) (q : Nat) (x : RmaQueue) (bs : List Byte) : State :=
  let d := fabricDest (rmaRemote bs)
  let k := ChanKey.rma q
  let gs := granules (fabricOff (rmaRemote bs)) 0 (rmaLen bs) (rmaLen bs)
  let s1 := s.rmaStart q x bs true []
  let op := s.nextOp
  let ord := (s.chanRec k).nextOrd
  let s2 := gs.foldl (fun s g => s.enqueue k (s.chanHome k) (x.asid.getD 0) op ord g.1
    ({ dst := d, kind := .areq, body := .get (remoteTarget (rmaRemote bs) g.1) g.2 } : Part)) s1
  (s2.modOp k op fun o => { o with left := o.left + 2 * gs.length }).pump

/-- RMA_GET (subject: queue): what REMOTE holds is asked for. -/
def execRmaGet (s : State) : Host.Outcome State Fault Refusal :=
  let q := s.subj 0
  finish s (match s.rmaFor q 2 with
    | none => s
    | some (x, bs) =>
      let d := fabricDest (rmaRemote bs)
      if s.pathBroken (.rma q) d then s.rmaBroken q (rmaRemote bs)
      else if !s.roomFor (.rma q) d then s
      else s.rmaGet q x bs)

/-! ## WAIT -/

/-- The named queue has completed a count of entries. -/
def State.rmaReached (s : State) (n : Nat) (count : W64) : Bool := (s.rmas[n]?).any fun y => decide (count.toNat ≤ y.completed.toNat)

/-- A WAIT has ended: it completes in its place in ring order. -/
def State.rmaWaitEnd (s : State) (q : Nat) : State :=
  let (op, s1) := s.fresh
  let s2 := s1.modRma q fun x => { x with waits := none, inFlight := x.inFlight ++ [({ op := op, get := false, here := 0, there := 0, broken := false } : RmaEntry)] }
  s2.settleRma q (((s2.rmas[q]?).map fun x => x.inFlight.length).getD 0)

/-- RMA_WAIT (subject: queue). -/
def execRmaWait (s : State) : Host.Outcome State Fault Refusal :=
  let q := s.subj 0
  finish s (match s.rmaFor q 3 with
    | none => s
    | some (_, bs) =>
      let n := fld bs 2 2
      let count := BitVec.ofNat 64 (fld bs 0x18 8)
      let s1 := s.rmaAdvance q
      if s1.rmaReached n count then s1.rmaWaitEnd q else s1.modRma q fun x => { x with waits := some (n, count) })

/-- RMA_WAIT_SATISFIED (subject: queue). -/
def execRmaWaitSatisfied (s : State) : Host.Outcome State Fault Refusal :=
  let q := s.subj 0
  finish s (match (s.rmas[q]?).bind (·.waits) with
    | some (n, count) => if s.rmaReached n count then s.rmaWaitEnd q else s
    | none => s)

end Sys2Proof.Machine
end

