-- ==== Sys2Proof/Machine/Watch.lean ====
section
/-! DEFINITION. Retiring teams and grids (R293, R294), the trace stream (R297 to R300) and dumps (R301). -/

namespace Sys2Proof.Machine

/-! ## TEAM_RETIRE (R293) -/

/-- The team's channel operations are over. -/
def State.channelsOver (s : State) (g i : Nat) : Bool :=
  !(s.chanOps.any fun o => match o.key with
    | .team a b _ => a == g && b == i && !o.isOver
    | .rma _ => false)

/-- Every condition of R293; requests of its threads that are under way keep the team too, and so does a cycle it issued in until it has been counted (R295). -/
def State.mayRetire (s : State) (t : Team) : Bool :=
  let mine (r : TRef) : Bool := r.grid == t.grid && r.team == t.idx
  (s.threadsOf t.grid t.idx).all (fun u => u.status == .exited) && t.dying.isNone && !t.count.issued
    && !(s.heats.any fun h => h.grid = t.grid && h.team = t.idx) && !(s.atoms.any fun a => mine a.thread)
    && !(s.engines.any fun e => e.grid = t.grid && e.team = t.idx) && !(s.mmas.any fun m => m.grid = t.grid && m.team = t.idx)
    && !(s.tables.any fun r => r.heldBy t.grid t.idx) && s.channelsOver t.grid t.idx

/-- A source of the team's channels. -/
def ofTeam (g i : Nat) : ChanKey → Bool
  | .team a b _ => a == g && b == i
  | .rma _ => false

/-- Step 6: scratch with its tags and presence, slots, registers and cohorts go; channel entries go unless a new attempt keeps them (R259). -/
def State.freeTeam (s : State) (t : Team) : State :=
  let s1 := s.forgetLines t.grid t.idx
  let keep (k : ChanKey) : Bool := t.relaunch || !ofTeam t.grid t.idx k
  { s1 with
    teams := s1.teams.filter (fun u => !(u.grid = t.grid && u.idx = t.idx)), threads := s1.threads.filter (fun u => !u.ofTeam t.grid t.idx),
    hurdles := s1.hurdles.filter (fun h => !(h.grid = t.grid && h.team = t.idx)), drains := s1.drains.filter (fun d => !(ofTeam t.grid t.idx d.key)),
    chanOps := s1.chanOps.filter (fun o => !ofTeam t.grid t.idx o.key), chans := s1.chans.filter (fun c => keep c.key),
    srcEntries := s1.srcEntries.filter (fun e => keep e.key) }

/-- The six steps of R293 in their order; a killed team's exit was traced at its kill. -/
def State.retireTeam (s : State) (t : Team) : State :=
  let s1 := (((s.dropIntervals t.grid t.idx).dropRagged t.grid t.idx).dropEndpoints t.grid t.idx).dropTables t.grid t.idx
  let s2 := ({ s1 with reservations := s1.reservations.filter fun v => !(v.grid = t.grid && v.team = t.idx) } : State).appendBlock t
  let s3 := if t.killed.isSome then s2
    else (s2.traceTeam 4 t.lastCore t.grid t.idx 0xFFFFFFFF 0xFFFFFFFF (leBytes 0 1)).modGrid t.grid fun x => { x with retired := x.retired + 1 }
  (s3.freeTeam t).pump

/-- TEAM_RETIRE (subject: grid, team). -/
def execTeamRetire (s : State) : Host.Outcome State Fault Refusal :=
  finish s (match s.team? (s.subj 0) (s.subj 1) with
    | some t => if s.mayRetire t then s.retireTeam t else s
    | none => s)

/-! ## GRID_RETIRE (R294) -/

/-- Every index has retired or is dead, every child has retired, and the grid's writes have reached their homes (R62, R64). -/
def State.mayEnd (s : State) (x : Grid) : Bool :=
  (if x.queued then x.desc.teams ≤ x.dead.length else x.unplaced.isEmpty && x.again.isEmpty)
    && !(s.teams.any fun t => t.grid = x.id) && !(s.grids.any fun y => y.parent.any fun p => p.1 = x.id)
    && !(s.wtb.any fun w => w.thread.grid = x.id) && !(s.atoms.any fun a => a.thread.grid = x.id)

/-- Who waits for the grid hears of its end. -/
def State.tellEnd (s : State) (x : Grid) : State :=
  match x.onEnd with
  | .none => s
  | .hurdle g i off => s.arrive g i off 1 [.package] [] 0
  | .ring q n => match (s.queues[q]?).bind fun y => y.pending.find? fun p => p.1 = n with
    | some p => (s.unpend q n).endEntry q p.2 0 .ok
    | none => s
  | .node uid n => s.setNode uid n .ended (!x.dead.isEmpty)

/-- GRID_RETIRE (subject: grid): header record, completion, and the grid slot is free. -/
def execGridRetire (s : State) : Host.Outcome State Fault Refusal :=
  finish s (match s.grid? (s.subj 0) with
    | some x =>
      if s.mayEnd x then
        let s1 := (s.blockHeader x).tellEnd x
        { s1 with grids := s1.grids.filter fun y => y.id ≠ x.id }
      else s
    | none => s)

/-! ## TRACE_CONFIG, TRACE_SAMPLE, POWER_SAMPLE (R297, R298, R300) -/

/-- A power of two from 2^6 to 2^24. -/
def traceSizeOk (n : Nat) : Bool := (List.range 19).any fun i => n == 2 ^ (i + 6)

/-- A die's ring as a configuration starts it. -/
def freshRing (bs : List Byte) (die : Nat) : TraceRing :=
  { die := die, base := privA bs 1, size := privA bs 2, period := privA bs 3, samples := (privA bs 0).testBit 8, events := (privA bs 0).testBit 9,
    power := (privA bs 0).testBit 10, write := 0, lost := 0, overflow := false }

/-- A control block as a configuration leaves it: WRITE and LOST 0 and zeros after; READ is the host's (log 44). -/
def State.clearRing (s : State) (r : TraceRing) : State := (s.homeWrite (devKey r.start) (leBytes 0 4)).homeWrite (devKey (r.start + 8)) (leBytes 0 56)

/-- TRACE_CONFIG (14): A0 die mask and enables; A1 ring base; A2 ring size; A3 sample period. -/
def setTrace (bs : List Byte) (s : State) : Status × State :=
  let a0 := privA bs 0
  if a0 = 0 then (.ok, { s with trace := [] })
  else if a0 &&& 0x70F ≠ a0 || privA bs 1 % 64 ≠ 0 || 8 * 2 ^ 36 ≤ privA bs 1 || !traceSizeOk (privA bs 2) || privA bs 3 < 256 || 2 ^ 20 < privA bs 3 then (.range, s)
  else
    let rings := ((List.range 4).filter a0.testBit).map (freshRing bs)
    (.ok, { rings.foldl State.clearRing s with trace := rings })

/-- TRACE_CONFIG. -/
def execTraceConfig (s : State) : Host.Outcome State Fault Refusal := s.privDo 14 setTrace

/-- A partition of a core has written its sample of the cycle under way (R298). -/
def TraceRing.hasSample (r : TraceRing) (now : Nat) (p : Nat × Nat) : Bool := r.sampledAt == now && r.sampledOf.contains p

/-- The sample of a partition noted. -/
def TraceRing.noteSample (now : Nat) (p : Nat × Nat) (r : TraceRing) : TraceRing :=
  { r with sampledAt := now, sampledOf := (if r.sampledAt = now then r.sampledOf else []) ++ [p] }

/-- The thread a sample names, with its reason: the oldest that issued on port 0 in this cycle, be its word an EXIT, else the oldest that has not exited. -/
def State.sampled (s : State) (core part : Nat) : Option (Thread × Nat) :=
  let here := byAge (s.threads.filter fun t => t.cohort % 8 == part && ((s.team? t.ref.grid t.ref.team).bind (·.core)) == some core)
  match here.find? fun t => t.lastIssue = some (s.clockOf (dieOfCore core)) && t.port = 0 with
  | some t => some (t, 0)
  | none => (s.partThreads core part).head?.map fun t => (t, s.reasonOf t)

/-- TRACE_SAMPLE (subject: core, partition): at the end of a sample period, one record of the partition. -/
def execTraceSample (s : State) : Host.Outcome State Fault Refusal :=
  let core := s.subj 0
  let die := dieOfCore core
  let now := s.clockOf die
  finish s (match s.trace.find? fun r => r.die = die && r.samples with
    | none => s
    | some r =>
      if now % r.period ≠ 0 || r.hasSample now (core, s.subj 1) then s
      else match s.sampled core (s.subj 1) with
        | none => s
        | some (t, reason) =>
          let s1 : State := { s with trace := updWhere (fun x => x.die = die) (TraceRing.noteSample now (core, s.subj 1)) s.trace }
          s1.traceWrite die (traceHead 1 die core t.ref.grid now (s.corrOf t.ref.grid) t.ref.team t.ref.tid t.pc reason 0 ++ leBytes 0 24))

/-- A list in runs of three. -/
def runsOf3 : List Nat → List (List Nat)
  | a :: b :: c :: rest => [a, b, c] :: runsOf3 rest
  | [] => []
  | l => [l]

/-- The correlation numbers of the grids with teams resident on a die. -/
def State.corrsOn (s : State) (die : Nat) : List Nat :=
  ((s.teams.filter fun t => t.core.any fun c => dieOfCore c = die).map fun t => s.corrOf t.grid).eraseDups

/-- A record of a die that names no thread: power and grid set. -/
def State.dieRecord (s : State) (kind die count : Nat) (specific : List Byte) : State :=
  s.traceWrite die (traceHead kind die 0xFFFF 0xFFFFFFFF (s.clockOf die) 0 0xFFFFFFFF 0xFFFFFFFF 0xFFFFFFFF 0 count ++ (specific ++ leBytes 0 24).take 24)

/-- POWER_SAMPLE of a die, once on every 100th tick of its timer: its six rail currents, then the grids that have teams resident there, three to a record. -/
def execPowerSample (die : Nat) (rails : List W32) (s0 : State) : Host.Outcome State Fault Refusal :=
  let s : State := { s0 with trace := updWhere (fun r => r.die = die) (fun r => { r with powerAt := s0.ticksOf die }) s0.trace }
  let s1 := s.dieRecord 6 die 0 (rails.flatMap fun v => leBytes v.toNat 4)
  finish s0 (if !s0.powerDue die then s0
    else (runsOf3 (s1.corrsOn die)).foldl (fun s cs => s.dieRecord 7 die cs.length (cs.flatMap fun c => leBytes c 8)) s1)

/-! ## DUMP (R301) -/

/-- One thread of a dump: header and registers. -/
def State.dumpThread (s : State) (t : Thread) : List Byte :=
  let flags := (if t.trap.isSome then 1 else 0) + (if 0 < t.gcnt then 2 else 0) + (if s.atBlockingPoint t then 4 else 0)
  leBytes t.ref.tid 4 ++ leBytes t.pc 4 ++ leBytes t.stack.length 2 ++ leBytes t.wbase 2 ++ leBytes flags 1 ++ leBytes (s.reasonOf t) 1
    ++ leBytes (t.preds.toNat + 128) 1 ++ leBytes 0 1 ++ t.regs.flatMap fun r => leBytes r.toNat 4

/-- The threads of a team that have not exited, in ascending sr.tid. -/
def State.liveByTid (s : State) (g i : Nat) : List Thread :=
  (byTid (((s.threadsOf g i).filter fun t => t.status != .exited).map (·.ref))).filterMap s.thread?

/-- DUMP (15): A0 grid; A1 team; A2 buffer address; A3 buffer bytes. -/
def dump (bs : List Byte) (s : State) : Status × State :=
  let g := privA bs 0
  let i := privA bs 1
  if !s.teamKnown g i then (.unknownId, s)
  else match s.team? g i with
    | none => (.inUse, s)
    | some t =>
      if t.core.isSome && !s.inFaultWait g i then (.inUse, s)
      else
        let out := (s.liveByTid g i).flatMap s.dumpThread
        if privA bs 3 < out.length then (.range, s) else (.ok, s.wr (hostKey (privA bs 2)) out)

/-- DUMP. -/
def execDump (s : State) : Host.Outcome State Fault Refusal := s.privDo 15 dump

end Sys2Proof.Machine
end

