-- ==== Sys2Proof/Machine/Dispatch.lean ====
section
/-! DEFINITION. The dispatcher: one arm for each instruction and each step. -/

namespace Sys2Proof.Machine

def exec (i : Instr) (s : State) : Host.Outcome State Fault Refusal :=
  match i with
  | .nop => Sys2Proof.Machine.execNop s
  | .exit => Sys2Proof.Machine.execExit s
  | .brk => Sys2Proof.Machine.execBrk s
  | .trap n => Sys2Proof.Machine.execTrap n s
  | .tret => Sys2Proof.Machine.execTret s
  | .tlbi a b => Sys2Proof.Machine.execTlbi a b s
  | .csync => Sys2Proof.Machine.execCsync s
  | .cpick p => Sys2Proof.Machine.execCpick p s
  | .win b => Sys2Proof.Machine.execWin b s
  | .winr a => Sys2Proof.Machine.execWinr a s
  | .bra p neg off => Sys2Proof.Machine.execBra p neg off s
  | .call off => Sys2Proof.Machine.execCall off s
  | .jmpi a => Sys2Proof.Machine.execJmpi a s
  | .calli a => Sys2Proof.Machine.execCalli a s
  | .ret => Sys2Proof.Machine.execRet s
  | .grd p neg cnt => Sys2Proof.Machine.execGrd p neg cnt s
  | .pall p q neg => Sys2Proof.Machine.execPall p q neg s
  | .pany p q neg => Sys2Proof.Machine.execPany p q neg s
  | .psame p q neg => Sys2Proof.Machine.execPsame p q neg s
  | .ballot d q neg => Sys2Proof.Machine.execBallot d q neg s
  | .xlane o d a b => Sys2Proof.Machine.execXlane o d a b s
  | .cred o d a => Sys2Proof.Machine.execCred o d a s
  | .fredx o d a => Sys2Proof.Machine.execFredx o d a s
  | .scanAdd d a => Sys2Proof.Machine.execScanAdd d a s
  | .scanAddi d a => Sys2Proof.Machine.execScanAddi d a s
  | .spawn d a b => Sys2Proof.Machine.execSpawn d a b s
  | .heat a => Sys2Proof.Machine.execHeat a s
  | .launch l a b => Sys2Proof.Machine.execLaunch l a b s
  | .iadd d a b => Sys2Proof.Machine.execIadd d a b s
  | .isub d a b => Sys2Proof.Machine.execIsub d a b s
  | .imul d a b => Sys2Proof.Machine.execImul d a b s
  | .imulh d a b => Sys2Proof.Machine.execImulh d a b s
  | .imulhu d a b => Sys2Proof.Machine.execImulhu d a b s
  | .imac d a b => Sys2Proof.Machine.execImac d a b s
  | .imin d a b => Sys2Proof.Machine.execImin d a b s
  | .imax d a b => Sys2Proof.Machine.execImax d a b s
  | .umin d a b => Sys2Proof.Machine.execUmin d a b s
  | .umax d a b => Sys2Proof.Machine.execUmax d a b s
  | .and d a b => Sys2Proof.Machine.execAnd d a b s
  | .or d a b => Sys2Proof.Machine.execOr d a b s
  | .xor d a b => Sys2Proof.Machine.execXor d a b s
  | .andn d a b => Sys2Proof.Machine.execAndn d a b s
  | .shl d a b => Sys2Proof.Machine.execShl d a b s
  | .shr d a b => Sys2Proof.Machine.execShr d a b s
  | .sar d a b => Sys2Proof.Machine.execSar d a b s
  | .rotl d a b => Sys2Proof.Machine.execRotl d a b s
  | .bfx d a b => Sys2Proof.Machine.execBfx d a b s
  | .bfxs d a b => Sys2Proof.Machine.execBfxs d a b s
  | .bfi d a b => Sys2Proof.Machine.execBfi d a b s
  | .lea1 d a b => Sys2Proof.Machine.execLea1 d a b s
  | .lea2 d a b => Sys2Proof.Machine.execLea2 d a b s
  | .lea3 d a b => Sys2Proof.Machine.execLea3 d a b s
  | .mulw d a b => Sys2Proof.Machine.execMulw d a b s
  | .add64 d a b => Sys2Proof.Machine.execAdd64 d a b s
  | .sub64 d a b => Sys2Proof.Machine.execSub64 d a b s
  | .shl64 d a b => Sys2Proof.Machine.execShl64 d a b s
  | .shr64 d a b => Sys2Proof.Machine.execShr64 d a b s
  | .mov d a => Sys2Proof.Machine.execMov d a s
  | .not d a => Sys2Proof.Machine.execNot d a s
  | .ineg d a => Sys2Proof.Machine.execIneg d a s
  | .iabs d a => Sys2Proof.Machine.execIabs d a s
  | .clz d a => Sys2Proof.Machine.execClz d a s
  | .popc d a => Sys2Proof.Machine.execPopc d a s
  | .brev d a => Sys2Proof.Machine.execBrev d a s
  | .ptov d => Sys2Proof.Machine.execPtov d s
  | .vtop a => Sys2Proof.Machine.execVtop a s
  | .icmp c m p a b => Sys2Proof.Machine.execIcmp c m p a b s
  | .sel p neg d a b => Sys2Proof.Machine.execSel p neg d a b s
  | .pand d a b => Sys2Proof.Machine.execPand d a b s
  | .por d a b => Sys2Proof.Machine.execPor d a b s
  | .pxor d a b => Sys2Proof.Machine.execPxor d a b s
  | .pnot d a => Sys2Proof.Machine.execPnot d a s
  | .iaddi d a imm => Sys2Proof.Machine.execIaddi d a imm s
  | .andi d a imm => Sys2Proof.Machine.execAndi d a imm s
  | .ori d a imm => Sys2Proof.Machine.execOri d a imm s
  | .xori d a imm => Sys2Proof.Machine.execXori d a imm s
  | .shli d a n => Sys2Proof.Machine.execShli d a n s
  | .shri d a n => Sys2Proof.Machine.execShri d a n s
  | .sari d a n => Sys2Proof.Machine.execSari d a n s
  | .rotli d a n => Sys2Proof.Machine.execRotli d a n s
  | .icmpi c p a imm => Sys2Proof.Machine.execIcmpi c p a imm s
  | .movi d imm => Sys2Proof.Machine.execMovi d imm s
  | .movhi d imm => Sys2Proof.Machine.execMovhi d imm s
  | .srd d r => Sys2Proof.Machine.execSrd d r s
  | .swr a => Sys2Proof.Machine.execSwr a s
  | .movk d k => Sys2Proof.Machine.execMovk d k s
  | .fadd fi fo d a b => Sys2Proof.Machine.execFadd fi fo d a b s
  | .fsub fi fo d a b => Sys2Proof.Machine.execFsub fi fo d a b s
  | .fmul fi fo d a b => Sys2Proof.Machine.execFmul fi fo d a b s
  | .ffma fi fo d a b => Sys2Proof.Machine.execFfma fi fo d a b s
  | .ffms fi fo d a b => Sys2Proof.Machine.execFfms fi fo d a b s
  | .fmin fi fo d a b => Sys2Proof.Machine.execFmin fi fo d a b s
  | .fmax fi fo d a b => Sys2Proof.Machine.execFmax fi fo d a b s
  | .fabs d a => Sys2Proof.Machine.execFabs d a s
  | .fneg d a => Sys2Proof.Machine.execFneg d a s
  | .frcp fi fo d a => Sys2Proof.Machine.execFrcp fi fo d a s
  | .frsq fi fo d a => Sys2Proof.Machine.execFrsq fi fo d a s
  | .fsqrt fi fo d a => Sys2Proof.Machine.execFsqrt fi fo d a s
  | .fex2 fi fo d a => Sys2Proof.Machine.execFex2 fi fo d a s
  | .flg2 fi fo d a => Sys2Proof.Machine.execFlg2 fi fo d a s
  | .ftanh fi fo d a => Sys2Proof.Machine.execFtanh fi fo d a s
  | .frndNe fi fo d a => Sys2Proof.Machine.execFrndNe fi fo d a s
  | .frndZ fi fo d a => Sys2Proof.Machine.execFrndZ fi fo d a s
  | .frndDn fi fo d a => Sys2Proof.Machine.execFrndDn fi fo d a s
  | .frndUp fi fo d a => Sys2Proof.Machine.execFrndUp fi fo d a s
  | .fsin fi fo d a => Sys2Proof.Machine.execFsin fi fo d a s
  | .fcos fi fo d a => Sys2Proof.Machine.execFcos fi fo d a s
  | .fcmp c m fi p a b => Sys2Proof.Machine.execFcmp c m fi p a b s
  | .paddH fi fo d a b => Sys2Proof.Machine.execPaddH fi fo d a b s
  | .pmulH fi fo d a b => Sys2Proof.Machine.execPmulH fi fo d a b s
  | .pfmaH fi fo d a b => Sys2Proof.Machine.execPfmaH fi fo d a b s
  | .paddB fi fo d a b => Sys2Proof.Machine.execPaddB fi fo d a b s
  | .pmulB fi fo d a b => Sys2Proof.Machine.execPmulB fi fo d a b s
  | .pfmaB fi fo d a b => Sys2Proof.Machine.execPfmaB fi fo d a b s
  | .pmaxH fi fo d a b => Sys2Proof.Machine.execPmaxH fi fo d a b s
  | .pmaxB fi fo d a b => Sys2Proof.Machine.execPmaxB fi fo d a b s
  | .dadd fi fo d a b => Sys2Proof.Machine.execDadd fi fo d a b s
  | .dsub fi fo d a b => Sys2Proof.Machine.execDsub fi fo d a b s
  | .dmul fi fo d a b => Sys2Proof.Machine.execDmul fi fo d a b s
  | .dfma fi fo d a b => Sys2Proof.Machine.execDfma fi fo d a b s
  | .dmin fi fo d a b => Sys2Proof.Machine.execDmin fi fo d a b s
  | .dmax fi fo d a b => Sys2Proof.Machine.execDmax fi fo d a b s
  | .dcmp c m fi p a b => Sys2Proof.Machine.execDcmp c m fi p a b s
  | .cvt c d a b => Sys2Proof.Machine.execCvt c d a b s
  | .pack8E4m3 d a b => Sys2Proof.Machine.execPack8E4m3 d a b s
  | .pack8E5m2 d a b => Sys2Proof.Machine.execPack8E5m2 d a b s
  | .unpk8E4m3 d a => Sys2Proof.Machine.execUnpk8E4m3 d a s
  | .unpk8E5m2 d a => Sys2Proof.Machine.execUnpk8E5m2 d a s
  | .pack4 d a b => Sys2Proof.Machine.execPack4 d a b s
  | .unpk4 d a b => Sys2Proof.Machine.execUnpk4 d a b s
  | .resenc d a => Sys2Proof.Machine.execResenc d a s
  | .resdec d a => Sys2Proof.Machine.execResdec d a s
  | .scale8 d a b => Sys2Proof.Machine.execScale8 d a b s
  | .ldg l sz d a off => Sys2Proof.Machine.execLdg l sz d a off s
  | .ldgn l sz d a off => Sys2Proof.Machine.execLdgn l sz d a off s
  | .ldgb l sz d a off => Sys2Proof.Machine.execLdgb l sz d a off s
  | .lds l sz d a off => Sys2Proof.Machine.execLds l sz d a off s
  | .stg streaming sz d a off => Sys2Proof.Machine.execStg streaming sz d a off s
  | .stgb streaming sz d a off => Sys2Proof.Machine.execStgb streaming sz d a off s
  | .sts sz d a off => Sys2Proof.Machine.execSts sz d a off s
  | .ldk l sz d a off => Sys2Proof.Machine.execLdk l sz d a off s
  | .oclaim l a b => Sys2Proof.Machine.execOclaim l a b s
  | .omove l a b => Sys2Proof.Machine.execOmove l a b s
  | .orels l a => Sys2Proof.Machine.execOrels l a s
  | .pref l a b => Sys2Proof.Machine.execPref l a b s
  | .fenceAcq l sc => Sys2Proof.Machine.execFenceAcq l sc s
  | .fenceRel l sc => Sys2Proof.Machine.execFenceRel l sc s
  | .fenceAr l sc => Sys2Proof.Machine.execFenceAr l sc s
  | .hinit l a b => Sys2Proof.Machine.execHinit l a b s
  | .arriveRel l sc a b => Sys2Proof.Machine.execArriveRel l sc a b s
  | .arriveRlx l a b => Sys2Proof.Machine.execArriveRlx l a b s
  | .expect l a b => Sys2Proof.Machine.execExpect l a b s
  | .waitp d a b => Sys2Proof.Machine.execWaitp d a b s
  | .htest d a => Sys2Proof.Machine.execHtest d a s
  | .qwait a b => Sys2Proof.Machine.execQwait a b s
  | .wake d a b => Sys2Proof.Machine.execWake d a b s
  | .atom op l w d a => Sys2Proof.Machine.execAtom op l w d a s
  | .red op w d a => Sys2Proof.Machine.execRed op w d a s
  | .rst ch sz d a off => Sys2Proof.Machine.execRst ch sz d a off s
  | .ratom op l ch d a => Sys2Proof.Machine.execRatom op l ch d a s
  | .rcpy l ch a b => Sys2Proof.Machine.execRcpy l ch a b s
  | .rmc l ch a b => Sys2Proof.Machine.execRmc l ch a b s
  | .rred l ch a b => Sys2Proof.Machine.execRred l ch a b s
  | .join t src => Sys2Proof.Machine.execJoin t src s
  | .drain l ch a => Sys2Proof.Machine.execDrain l ch a s
  | .cpy l ch a b => Sys2Proof.Machine.execCpy l ch a b s
  | .cpyg l ch a b => Sys2Proof.Machine.execCpyg l ch a b s
  | .cpys l ch a b => Sys2Proof.Machine.execCpys l ch a b s
  | .cpyf l ch a b => Sys2Proof.Machine.execCpyf l ch a b s
  | .obres l a => Sys2Proof.Machine.execObres l a s
  | .obrel l a => Sys2Proof.Machine.execObrel l a s
  | .accclr l a => Sys2Proof.Machine.execAccclr l a s
  | .accrd l ch a b => Sys2Proof.Machine.execAccrd l ch a b s
  | .mma l a => Sys2Proof.Machine.execMma l a s
  | .rbind l a b => Sys2Proof.Machine.execRbind l a b s
  | .runbind l a => Sys2Proof.Machine.execRunbind l a s
  | .rgld l ch a b => Sys2Proof.Machine.execRgld l ch a b s
  | .segred l ch a b => Sys2Proof.Machine.execSegred l ch a b s
  | .segnorm l ch a b => Sys2Proof.Machine.execSegnorm l ch a b s
  | .segscan l ch a b => Sys2Proof.Machine.execSegscan l ch a b s
  | .walk a => Sys2Proof.Machine.execWalk a s
  | .wnext d a => Sys2Proof.Machine.execWnext d a s
  | .wred a b => Sys2Proof.Machine.execWred a b s
  | .wend a b => Sys2Proof.Machine.execWend a b s
  | .route l ch a b => Sys2Proof.Machine.execRoute l ch a b s
  | .rret l ch a b => Sys2Proof.Machine.execRret l ch a b s
  | .epdef l a => Sys2Proof.Machine.execEpdef l a s
  | .rasm l a => Sys2Proof.Machine.execRasm l a s
  | .fuseLoad ok detail => Sys2Proof.Machine.execFuseLoad ok detail s
  | .powerRamp ok detail => Sys2Proof.Machine.execPowerRamp ok detail s
  | .switchTrain n ok detail => Sys2Proof.Machine.execSwitchTrain n ok detail s
  | .towerTrain n ok detail => Sys2Proof.Machine.execTowerTrain n ok detail s
  | .dieTest n ok detail => Sys2Proof.Machine.execDieTest n ok detail s
  | .bondTest n ok detail => Sys2Proof.Machine.execBondTest n ok detail s
  | .hostLink ok detail rate => Sys2Proof.Machine.execHostLink ok detail rate s
  | .vilcorTrain n ok detail => Sys2Proof.Machine.execVilcorTrain n ok detail s
  | .fwLoad ok detail img => Sys2Proof.Machine.execFwLoad ok detail img s
  | .recoveryLinkRetry partner => Sys2Proof.Machine.execRecoveryLinkRetry partner s
  | .powerWindow milliwatts => Sys2Proof.Machine.execPowerWindow milliwatts s
  | .getAttest nonce => Sys2Proof.Machine.execGetAttest nonce s
  | .imageLoad img => Sys2Proof.Machine.execImageLoad img s
  | .mailboxUnknownCommand code => Sys2Proof.Machine.execMailboxUnknownCommand code s
  | .qbaseWrite q v => Sys2Proof.Machine.execQbaseWrite q v s
  | .qsizeWrite q v => Sys2Proof.Machine.execQsizeWrite q v s
  | .tailWrite q v => Sys2Proof.Machine.execTailWrite q v s
  | .qstatusW1c q v => Sys2Proof.Machine.execQstatusW1c q v s
  | .registerWrite q v => Sys2Proof.Machine.execRegisterWrite q v s
  | .kick q v wide => Sys2Proof.Machine.execKick q v wide s
  | .teamPlace grid cores => Sys2Proof.Machine.execTeamPlace grid cores s
  | .carveChange core code => Sys2Proof.Machine.execCarveChange core code s
  | .teamResume grid cores => Sys2Proof.Machine.execTeamResume grid cores s
  | .preciseStopEnd t => Sys2Proof.Machine.execPreciseStopEnd t s
  | .trapEntry t => Sys2Proof.Machine.execTrapEntry t s
  | .mmaPassEnd cluster softError => Sys2Proof.Machine.execMmaPassEnd cluster softError s
  | .waitpTimeout t => Sys2Proof.Machine.execWaitpTimeout t s
  | .channelPacketArrive a => Sys2Proof.Machine.execChannelPacketArrive a s
  | .ackSend e => Sys2Proof.Machine.execAckSend e s
  | .ackReceive a => Sys2Proof.Machine.execAckReceive a s
  | .nackReceive a => Sys2Proof.Machine.execNackReceive a s
  | .nackReplay e seq => Sys2Proof.Machine.execNackReplay e seq s
  | .arspReceive a => Sys2Proof.Machine.execArspReceive a s
  | .violReceive a => Sys2Proof.Machine.execViolReceive a s
  | .channelGapTimeout e => Sys2Proof.Machine.execChannelGapTimeout e s
  | .syncReqRetry e => Sys2Proof.Machine.execSyncReqRetry e s
  | .syncReqReceive a => Sys2Proof.Machine.execSyncReqReceive a s
  | .syncAckReceive a => Sys2Proof.Machine.execSyncAckReceive a s
  | .closeReceive a => Sys2Proof.Machine.execCloseReceive a s
  | .noPathReport d => Sys2Proof.Machine.execNoPathReport d s
  | .linkDown port lost => Sys2Proof.Machine.execLinkDown port lost s
  | .rredContributionArrive ext => Sys2Proof.Machine.execRredContributionArrive ext s
  | .rmaRingConfigWrite q r v => Sys2Proof.Machine.execRmaRingConfigWrite q r v s
  | .rmaTailWrite q v => Sys2Proof.Machine.execRmaTailWrite q v s
  | .rstatusW1c q v => Sys2Proof.Machine.execRstatusW1c q v s
  | .queueConfigWrite q r v => Sys2Proof.Machine.execQueueConfigWrite q r v s
  | .queueReadWrite q v => Sys2Proof.Machine.execQueueReadWrite q v s
  | .atsInvalidation page now => Sys2Proof.Machine.execAtsInvalidation page now s
  | .hostMemAccess addr write len => Sys2Proof.Machine.execHostMemAccess addr write len s
  | .powerSample die rails => Sys2Proof.Machine.execPowerSample die rails s
  | .pathReturn d => Sys2Proof.Machine.execPathReturn d s
  | .hostMemoryWrite addr bytes => Sys2Proof.Machine.execHostMemoryWrite addr bytes s
  | .deviceStart => Sys2Proof.Machine.execDeviceStart s
  | .romCheck => Sys2Proof.Machine.execRomCheck s
  | .serveFull => Sys2Proof.Machine.execServeFull s
  | .getCaps => Sys2Proof.Machine.execGetCaps s
  | .getBringup => Sys2Proof.Machine.execGetBringup s
  | .clearBringup => Sys2Proof.Machine.execClearBringup s
  | .reset => Sys2Proof.Machine.execReset s
  | .loadCode => Sys2Proof.Machine.execLoadCode s
  | .unloadCode => Sys2Proof.Machine.execUnloadCode s
  | .uploadGraph => Sys2Proof.Machine.execUploadGraph s
  | .releaseGraph => Sys2Proof.Machine.execReleaseGraph s
  | .ringLaunch => Sys2Proof.Machine.execRingLaunch s
  | .waitValue => Sys2Proof.Machine.execWaitValue s
  | .waitValueSatisfied => Sys2Proof.Machine.execWaitValueSatisfied s
  | .writeValue => Sys2Proof.Machine.execWriteValue s
  | .ringEntryReserved => Sys2Proof.Machine.execRingEntryReserved s
  | .graphInstanceStart => Sys2Proof.Machine.execGraphInstanceStart s
  | .edgeClean => Sys2Proof.Machine.execEdgeClean s
  | .graphNodeStart => Sys2Proof.Machine.execGraphNodeStart s
  | .graphInstanceComplete => Sys2Proof.Machine.execGraphInstanceComplete s
  | .gridSlotFreed => Sys2Proof.Machine.execGridSlotFreed s
  | .teamEvict => Sys2Proof.Machine.execTeamEvict s
  | .heatDeadline => Sys2Proof.Machine.execHeatDeadline s
  | .starterPick => Sys2Proof.Machine.execStarterPick s
  | .faultRecordPost => Sys2Proof.Machine.execFaultRecordPost s
  | .killRecordPost => Sys2Proof.Machine.execKillRecordPost s
  | .loadDataReturn => Sys2Proof.Machine.execLoadDataReturn s
  | .atomicService => Sys2Proof.Machine.execAtomicService s
  | .atomicReturn => Sys2Proof.Machine.execAtomicReturn s
  | .writeThroughAck => Sys2Proof.Machine.execWriteThroughAck s
  | .engineOpStart => Sys2Proof.Machine.execEngineOpStart s
  | .copyBytesLand => Sys2Proof.Machine.execCopyBytesLand s
  | .mmaPass => Sys2Proof.Machine.execMmaPass s
  | .accrdReadout => Sys2Proof.Machine.execAccrdReadout s
  | .relayRowArrive => Sys2Proof.Machine.execRelayRowArrive s
  | .relayDropNotice => Sys2Proof.Machine.execRelayDropNotice s
  | .relayReturnArrive => Sys2Proof.Machine.execRelayReturnArrive s
  | .reassemblyDeadline => Sys2Proof.Machine.execReassemblyDeadline s
  | .linkDegraded => Sys2Proof.Machine.execLinkDegraded s
  | .rredSlotExpire => Sys2Proof.Machine.execRredSlotExpire s
  | .rredExpiredMarkEnd => Sys2Proof.Machine.execRredExpiredMarkEnd s
  | .rmaPut => Sys2Proof.Machine.execRmaPut s
  | .rmaGet => Sys2Proof.Machine.execRmaGet s
  | .rmaWait => Sys2Proof.Machine.execRmaWait s
  | .rmaWaitSatisfied => Sys2Proof.Machine.execRmaWaitSatisfied s
  | .rmaEntryReserved => Sys2Proof.Machine.execRmaEntryReserved s
  | .bindQueue => Sys2Proof.Machine.execBindQueue s
  | .setAsid => Sys2Proof.Machine.execSetAsid s
  | .setLocalWindow => Sys2Proof.Machine.execSetLocalWindow s
  | .setSaveArea => Sys2Proof.Machine.execSetSaveArea s
  | .setDieMap => Sys2Proof.Machine.execSetDieMap s
  | .regionRegister => Sys2Proof.Machine.execRegionRegister s
  | .regionRevoke => Sys2Proof.Machine.execRegionRevoke s
  | .channelReset => Sys2Proof.Machine.execChannelReset s
  | .kill => Sys2Proof.Machine.execKill s
  | .faultReply => Sys2Proof.Machine.execFaultReply s
  | .tlbInvalidate => Sys2Proof.Machine.execTlbInvalidate s
  | .debug => Sys2Proof.Machine.execDebug s
  | .readViolq => Sys2Proof.Machine.execReadViolq s
  | .traceConfig => Sys2Proof.Machine.execTraceConfig s
  | .dump => Sys2Proof.Machine.execDump s
  | .setRstackArea => Sys2Proof.Machine.execSetRstackArea s
  | .privUnknownCommand => Sys2Proof.Machine.execPrivUnknownCommand s
  | .traceSample => Sys2Proof.Machine.execTraceSample s
  | .teamRetire => Sys2Proof.Machine.execTeamRetire s
  | .gridRetire => Sys2Proof.Machine.execGridRetire s

end Sys2Proof.Machine
end

