-- ==== Sys2Proof/Machine/Step.lean ====
section
/-! DEFINITION. One step of the device: the start sequence begins; else the agenda's next occurrence happens, when its moment has come; else the next picked
gang issues its word; else the next partition's Starter makes its choice (log 4). -/

namespace Sys2Proof.Machine

/-- The cores' part of time: the next gang picked issues its word, or the Starter whose turn it is makes its choice. -/
def coreStep (s : State) : Host.Outcome State Fault Refusal :=
  match s.issueQ with
  | picked :: rest =>
    let s1 := { s with issueQ := rest }
    match s1.stillIssues picked with
    | [] => .next s1
    | r :: rs =>
      match s1.fetched (r :: rs) with
      | none => .fault .gangWithoutCode
      | some (.error _) => finish s1 ((s1.issue (r :: rs)).takeAll (Cause.illegalEncoding.at_ 0))
      | some (.ok i) => exec i (s1.issue (r :: rs))
  | [] => exec .starterPick { s.nextTurn with subject := [turnCore s.turnDie s.turn, turnPart s.turn] }

/-- One step. -/
def step (s : State) : Host.Outcome State Fault Refusal :=
  if s.boot.service = .off then exec .deviceStart s
  else match s.agenda with
    | o :: rest =>
      if o.after = 0 then exec o.what { s with agenda := rest, subject := o.subject }
      else coreStep { s with agenda := { o with after := o.after - 1 } :: rest }
    | [] => coreStep s

/-- The instruction of nbits bits with the bits w, placed where step fetches next: a device in full service, one thread resident on core 0 at the word,
and its gang picked. -/
def State.withFetchWord (s : State) (_nbits w : Nat) : State :=
  { s with
    boot := s.boot.allPassed, agenda := [], issueQ := [[placedRef]], codes := [placedCode [BitVec.ofNat 32 w]], grids := [placedGrid],
    teams := [placedTeam], threads := [startThread placedRef 0 512 16384 0 0], faultRecs := [] }

end Sys2Proof.Machine
end

