-- ==== Sys2Proof/Laws/Encoding.lean ====
section
/-! SUPPORT. What each field reader reads from each word form: every field of a form comes back whole (R25, R34). -/

set_option Elab.async false

namespace Sys2Proof

/-- An append as a number. -/
theorem append_toNat {n m : Nat} (x : BitVec n) (y : BitVec m) : (x ++ y).toNat = x.toNat * 2 ^ m + y.toNat := by
  rw [BitVec.toNat_append, ← Nat.shiftLeft_add_eq_or_of_lt y.isLt, Nat.shiftLeft_eq]

/-- The word as a number. -/
theorem tWord_toNat (m : BitVec 6) (f : BitVec 5) (d a b : Reg) : (tWord m f d a b).toNat = ((((m.toNat) * 2 ^ 5 + f.toNat) * 2 ^ 7 + d.toNat) * 2 ^ 7 + a.toNat) * 2 ^ 7 + b.toNat := by
  change (m ++ f ++ d ++ a ++ b : BitVec (6+5+7+7+7)).toNat = _
  simp only [append_toNat]

@[simp] theorem majOf_tWord (m : BitVec 6) (f : BitVec 5) (d a b : Reg) : majOf (tWord m f d a b) = m := by
  apply BitVec.eq_of_toNat_eq
  have := m.isLt; have := f.isLt; have := d.isLt; have := a.isLt; have := b.isLt
  simp only [majOf, BitVec.extractLsb'_toNat, tWord_toNat, Nat.shiftRight_eq_div_pow]
  omega
@[simp] theorem tFN_tWord (m : BitVec 6) (f : BitVec 5) (d a b : Reg) : tFN (tWord m f d a b) = f := by
  apply BitVec.eq_of_toNat_eq
  have := m.isLt; have := f.isLt; have := d.isLt; have := a.isLt; have := b.isLt
  simp only [tFN, BitVec.extractLsb'_toNat, tWord_toNat, Nat.shiftRight_eq_div_pow]
  omega
@[simp] theorem tD_tWord (m : BitVec 6) (f : BitVec 5) (d a b : Reg) : tD (tWord m f d a b) = d := by
  apply BitVec.eq_of_toNat_eq
  have := m.isLt; have := f.isLt; have := d.isLt; have := a.isLt; have := b.isLt
  simp only [tD, BitVec.extractLsb'_toNat, tWord_toNat, Nat.shiftRight_eq_div_pow]
  omega
@[simp] theorem tA_tWord (m : BitVec 6) (f : BitVec 5) (d a b : Reg) : tA (tWord m f d a b) = a := by
  apply BitVec.eq_of_toNat_eq
  have := m.isLt; have := f.isLt; have := d.isLt; have := a.isLt; have := b.isLt
  simp only [tA, BitVec.extractLsb'_toNat, tWord_toNat, Nat.shiftRight_eq_div_pow]
  omega
@[simp] theorem tB_tWord (m : BitVec 6) (f : BitVec 5) (d a b : Reg) : tB (tWord m f d a b) = b := by
  apply BitVec.eq_of_toNat_eq
  have := m.isLt; have := f.isLt; have := d.isLt; have := a.isLt; have := b.isLt
  simp only [tB, BitVec.extractLsb'_toNat, tWord_toNat, Nat.shiftRight_eq_div_pow]
  omega

/-- The word as a number. -/
theorem iWord_toNat (m : BitVec 6) (d a : Reg) (i : BitVec 12) : (iWord m d a i).toNat = (((m.toNat) * 2 ^ 7 + d.toNat) * 2 ^ 7 + a.toNat) * 2 ^ 12 + i.toNat := by
  change (m ++ d ++ a ++ i : BitVec (6+7+7+12)).toNat = _
  simp only [append_toNat]

@[simp] theorem majOf_iWord (m : BitVec 6) (d a : Reg) (i : BitVec 12) : majOf (iWord m d a i) = m := by
  apply BitVec.eq_of_toNat_eq
  have := m.isLt; have := d.isLt; have := a.isLt; have := i.isLt
  simp only [majOf, BitVec.extractLsb'_toNat, iWord_toNat, Nat.shiftRight_eq_div_pow]
  omega
@[simp] theorem iD_iWord (m : BitVec 6) (d a : Reg) (i : BitVec 12) : iD (iWord m d a i) = d := by
  apply BitVec.eq_of_toNat_eq
  have := m.isLt; have := d.isLt; have := a.isLt; have := i.isLt
  simp only [iD, BitVec.extractLsb'_toNat, iWord_toNat, Nat.shiftRight_eq_div_pow]
  omega
@[simp] theorem iA_iWord (m : BitVec 6) (d a : Reg) (i : BitVec 12) : iA (iWord m d a i) = a := by
  apply BitVec.eq_of_toNat_eq
  have := m.isLt; have := d.isLt; have := a.isLt; have := i.isLt
  simp only [iA, BitVec.extractLsb'_toNat, iWord_toNat, Nat.shiftRight_eq_div_pow]
  omega
@[simp] theorem iImm_iWord (m : BitVec 6) (d a : Reg) (i : BitVec 12) : iImm (iWord m d a i) = i := by
  apply BitVec.eq_of_toNat_eq
  have := m.isLt; have := d.isLt; have := a.isLt; have := i.isLt
  simp only [iImm, BitVec.extractLsb'_toNat, iWord_toNat, Nat.shiftRight_eq_div_pow]
  omega

/-- The word as a number. -/
theorem kWord_toNat (m : BitVec 6) (d : Reg) (i : BitVec 19) : (kWord m d i).toNat = ((m.toNat) * 2 ^ 7 + d.toNat) * 2 ^ 19 + i.toNat := by
  change (m ++ d ++ i : BitVec (6+7+19)).toNat = _
  simp only [append_toNat]

@[simp] theorem majOf_kWord (m : BitVec 6) (d : Reg) (i : BitVec 19) : majOf (kWord m d i) = m := by
  apply BitVec.eq_of_toNat_eq
  have := m.isLt; have := d.isLt; have := i.isLt
  simp only [majOf, BitVec.extractLsb'_toNat, kWord_toNat, Nat.shiftRight_eq_div_pow]
  omega
@[simp] theorem iD_kWord (m : BitVec 6) (d : Reg) (i : BitVec 19) : iD (kWord m d i) = d := by
  apply BitVec.eq_of_toNat_eq
  have := m.isLt; have := d.isLt; have := i.isLt
  simp only [iD, BitVec.extractLsb'_toNat, kWord_toNat, Nat.shiftRight_eq_div_pow]
  omega
@[simp] theorem kImm_kWord (m : BitVec 6) (d : Reg) (i : BitVec 19) : kImm (kWord m d i) = i := by
  apply BitVec.eq_of_toNat_eq
  have := m.isLt; have := d.isLt; have := i.isLt
  simp only [kImm, BitVec.extractLsb'_toNat, kWord_toNat, Nat.shiftRight_eq_div_pow]
  omega

/-- The word as a number. -/
theorem fWord_toNat (m : BitVec 6) (f : BitVec 3) (x y : Bool) (d a b : Reg) : (fWord m f x y d a b).toNat = ((((((m.toNat) * 2 ^ 3 + f.toNat) * 2 ^ 1 + (BitVec.ofBool x).toNat) * 2 ^ 1 + (BitVec.ofBool y).toNat) * 2 ^ 7 + d.toNat) * 2 ^ 7 + a.toNat) * 2 ^ 7 + b.toNat := by
  change (m ++ f ++ BitVec.ofBool x ++ BitVec.ofBool y ++ d ++ a ++ b : BitVec (6+3+1+1+7+7+7)).toNat = _
  simp only [append_toNat]

@[simp] theorem majOf_fWord (m : BitVec 6) (f : BitVec 3) (x y : Bool) (d a b : Reg) : majOf (fWord m f x y d a b) = m := by
  apply BitVec.eq_of_toNat_eq
  have := m.isLt; have := f.isLt; have := d.isLt; have := a.isLt; have := b.isLt
  have := (BitVec.ofBool x).isLt
  have := (BitVec.ofBool y).isLt
  simp only [majOf, BitVec.extractLsb'_toNat, fWord_toNat, Nat.shiftRight_eq_div_pow]
  omega
@[simp] theorem fFN_fWord (m : BitVec 6) (f : BitVec 3) (x y : Bool) (d a b : Reg) : fFN (fWord m f x y d a b) = f := by
  apply BitVec.eq_of_toNat_eq
  have := m.isLt; have := f.isLt; have := d.isLt; have := a.isLt; have := b.isLt
  have := (BitVec.ofBool x).isLt
  have := (BitVec.ofBool y).isLt
  simp only [fFN, BitVec.extractLsb'_toNat, fWord_toNat, Nat.shiftRight_eq_div_pow]
  omega
@[simp] theorem fFI_fWord (m : BitVec 6) (f : BitVec 3) (x y : Bool) (d a b : Reg) : fFI (fWord m f x y d a b) = x := by
  have := m.isLt; have := f.isLt; have := d.isLt; have := a.isLt; have := b.isLt
  have := (BitVec.ofBool x).isLt
  have := (BitVec.ofBool y).isLt
  simp only [fFI, BitVec.getLsbD, fWord_toNat, Nat.testBit, Nat.shiftRight_eq_div_pow, Nat.one_and_eq_mod_two]
  generalize hx : (BitVec.ofBool x).toNat = nx at *
  generalize hy : (BitVec.ofBool y).toNat = ny at *
  have e : nx = x.toNat := by rw [← hx]; cases x <;> rfl
  cases x <;> simp at e ⊢ <;> omega
@[simp] theorem fFO_fWord (m : BitVec 6) (f : BitVec 3) (x y : Bool) (d a b : Reg) : fFO (fWord m f x y d a b) = y := by
  have := m.isLt; have := f.isLt; have := d.isLt; have := a.isLt; have := b.isLt
  have := (BitVec.ofBool x).isLt
  have := (BitVec.ofBool y).isLt
  simp only [fFO, BitVec.getLsbD, fWord_toNat, Nat.testBit, Nat.shiftRight_eq_div_pow, Nat.one_and_eq_mod_two]
  generalize hx : (BitVec.ofBool x).toNat = nx at *
  generalize hy : (BitVec.ofBool y).toNat = ny at *
  have e : ny = y.toNat := by rw [← hy]; cases y <;> rfl
  cases y <;> simp at e ⊢ <;> omega
@[simp] theorem tD_fWord (m : BitVec 6) (f : BitVec 3) (x y : Bool) (d a b : Reg) : tD (fWord m f x y d a b) = d := by
  apply BitVec.eq_of_toNat_eq
  have := m.isLt; have := f.isLt; have := d.isLt; have := a.isLt; have := b.isLt
  have := (BitVec.ofBool x).isLt
  have := (BitVec.ofBool y).isLt
  simp only [tD, BitVec.extractLsb'_toNat, fWord_toNat, Nat.shiftRight_eq_div_pow]
  omega
@[simp] theorem tA_fWord (m : BitVec 6) (f : BitVec 3) (x y : Bool) (d a b : Reg) : tA (fWord m f x y d a b) = a := by
  apply BitVec.eq_of_toNat_eq
  have := m.isLt; have := f.isLt; have := d.isLt; have := a.isLt; have := b.isLt
  have := (BitVec.ofBool x).isLt
  have := (BitVec.ofBool y).isLt
  simp only [tA, BitVec.extractLsb'_toNat, fWord_toNat, Nat.shiftRight_eq_div_pow]
  omega
@[simp] theorem tB_fWord (m : BitVec 6) (f : BitVec 3) (x y : Bool) (d a b : Reg) : tB (fWord m f x y d a b) = b := by
  apply BitVec.eq_of_toNat_eq
  have := m.isLt; have := f.isLt; have := d.isLt; have := a.isLt; have := b.isLt
  have := (BitVec.ofBool x).isLt
  have := (BitVec.ofBool y).isLt
  simp only [tB, BitVec.extractLsb'_toNat, fWord_toNat, Nat.shiftRight_eq_div_pow]
  omega

/-- The word as a number. -/
theorem mWord_toNat (m : BitVec 6) (l : BitVec 4) (z : BitVec 2) (d a : Reg) (o : BitVec 6) : (mWord m l z d a o).toNat = (((((m.toNat) * 2 ^ 4 + l.toNat) * 2 ^ 2 + z.toNat) * 2 ^ 7 + d.toNat) * 2 ^ 7 + a.toNat) * 2 ^ 6 + o.toNat := by
  change (m ++ l ++ z ++ d ++ a ++ o : BitVec (6+4+2+7+7+6)).toNat = _
  simp only [append_toNat]

@[simp] theorem majOf_mWord (m : BitVec 6) (l : BitVec 4) (z : BitVec 2) (d a : Reg) (o : BitVec 6) : majOf (mWord m l z d a o) = m := by
  apply BitVec.eq_of_toNat_eq
  have := m.isLt; have := l.isLt; have := z.isLt; have := d.isLt; have := a.isLt; have := o.isLt
  simp only [majOf, BitVec.extractLsb'_toNat, mWord_toNat, Nat.shiftRight_eq_div_pow]
  omega
@[simp] theorem mL_mWord (m : BitVec 6) (l : BitVec 4) (z : BitVec 2) (d a : Reg) (o : BitVec 6) : mL (mWord m l z d a o) = l := by
  apply BitVec.eq_of_toNat_eq
  have := m.isLt; have := l.isLt; have := z.isLt; have := d.isLt; have := a.isLt; have := o.isLt
  simp only [mL, BitVec.extractLsb'_toNat, mWord_toNat, Nat.shiftRight_eq_div_pow]
  omega
@[simp] theorem mSZ_mWord (m : BitVec 6) (l : BitVec 4) (z : BitVec 2) (d a : Reg) (o : BitVec 6) : mSZ (mWord m l z d a o) = z := by
  apply BitVec.eq_of_toNat_eq
  have := m.isLt; have := l.isLt; have := z.isLt; have := d.isLt; have := a.isLt; have := o.isLt
  simp only [mSZ, BitVec.extractLsb'_toNat, mWord_toNat, Nat.shiftRight_eq_div_pow]
  omega
@[simp] theorem mD_mWord (m : BitVec 6) (l : BitVec 4) (z : BitVec 2) (d a : Reg) (o : BitVec 6) : mD (mWord m l z d a o) = d := by
  apply BitVec.eq_of_toNat_eq
  have := m.isLt; have := l.isLt; have := z.isLt; have := d.isLt; have := a.isLt; have := o.isLt
  simp only [mD, BitVec.extractLsb'_toNat, mWord_toNat, Nat.shiftRight_eq_div_pow]
  omega
@[simp] theorem mA_mWord (m : BitVec 6) (l : BitVec 4) (z : BitVec 2) (d a : Reg) (o : BitVec 6) : mA (mWord m l z d a o) = a := by
  apply BitVec.eq_of_toNat_eq
  have := m.isLt; have := l.isLt; have := z.isLt; have := d.isLt; have := a.isLt; have := o.isLt
  simp only [mA, BitVec.extractLsb'_toNat, mWord_toNat, Nat.shiftRight_eq_div_pow]
  omega
@[simp] theorem mOff_mWord (m : BitVec 6) (l : BitVec 4) (z : BitVec 2) (d a : Reg) (o : BitVec 6) : mOff (mWord m l z d a o) = o := by
  apply BitVec.eq_of_toNat_eq
  have := m.isLt; have := l.isLt; have := z.isLt; have := d.isLt; have := a.isLt; have := o.isLt
  simp only [mOff, BitVec.extractLsb'_toNat, mWord_toNat, Nat.shiftRight_eq_div_pow]
  omega

/-- The word as a number. -/
theorem bWord_toNat (m : BitVec 6) (p : BitVec 3) (n : Bool) (o : BitVec 22) : (bWord m p n o).toNat = (((m.toNat) * 2 ^ 3 + p.toNat) * 2 ^ 1 + (BitVec.ofBool n).toNat) * 2 ^ 22 + o.toNat := by
  change (m ++ p ++ BitVec.ofBool n ++ o : BitVec (6+3+1+22)).toNat = _
  simp only [append_toNat]

@[simp] theorem majOf_bWord (m : BitVec 6) (p : BitVec 3) (n : Bool) (o : BitVec 22) : majOf (bWord m p n o) = m := by
  apply BitVec.eq_of_toNat_eq
  have := m.isLt; have := p.isLt; have := o.isLt
  have := (BitVec.ofBool n).isLt
  simp only [majOf, BitVec.extractLsb'_toNat, bWord_toNat, Nat.shiftRight_eq_div_pow]
  omega
@[simp] theorem bP_bWord (m : BitVec 6) (p : BitVec 3) (n : Bool) (o : BitVec 22) : bP (bWord m p n o) = p := by
  apply BitVec.eq_of_toNat_eq
  have := m.isLt; have := p.isLt; have := o.isLt
  have := (BitVec.ofBool n).isLt
  simp only [bP, BitVec.extractLsb'_toNat, bWord_toNat, Nat.shiftRight_eq_div_pow]
  omega
@[simp] theorem bN_bWord (m : BitVec 6) (p : BitVec 3) (n : Bool) (o : BitVec 22) : bN (bWord m p n o) = n := by
  have := m.isLt; have := p.isLt; have := o.isLt
  have := (BitVec.ofBool n).isLt
  simp only [bN, BitVec.getLsbD, bWord_toNat, Nat.testBit, Nat.shiftRight_eq_div_pow, Nat.one_and_eq_mod_two]
  generalize hn : (BitVec.ofBool n).toNat = nn at *
  have e : nn = n.toNat := by rw [← hn]; cases n <;> rfl
  cases n <;> simp at e ⊢ <;> omega
@[simp] theorem bOff_bWord (m : BitVec 6) (p : BitVec 3) (n : Bool) (o : BitVec 22) : bOff (bWord m p n o) = o := by
  apply BitVec.eq_of_toNat_eq
  have := m.isLt; have := p.isLt; have := o.isLt
  have := (BitVec.ofBool n).isLt
  simp only [bOff, BitVec.extractLsb'_toNat, bWord_toNat, Nat.shiftRight_eq_div_pow]
  omega

/-- The word as a number. -/
theorem gWord_toNat (m : BitVec 6) (p : BitVec 3) (n : Bool) (c : BitVec 3) : (gWord m p n c).toNat = ((((m.toNat) * 2 ^ 3 + p.toNat) * 2 ^ 1 + (BitVec.ofBool n).toNat) * 2 ^ 3 + c.toNat) * 2 ^ 19 + 0 := by
  change (m ++ p ++ BitVec.ofBool n ++ c ++ 0#19 : BitVec (6+3+1+3+19)).toNat = _
  simp only [append_toNat]
  simp

@[simp] theorem majOf_gWord (m : BitVec 6) (p : BitVec 3) (n : Bool) (c : BitVec 3) : majOf (gWord m p n c) = m := by
  apply BitVec.eq_of_toNat_eq
  have := m.isLt; have := p.isLt; have := c.isLt
  have := (BitVec.ofBool n).isLt
  simp only [majOf, BitVec.extractLsb'_toNat, gWord_toNat, Nat.shiftRight_eq_div_pow]
  omega
@[simp] theorem bP_gWord (m : BitVec 6) (p : BitVec 3) (n : Bool) (c : BitVec 3) : bP (gWord m p n c) = p := by
  apply BitVec.eq_of_toNat_eq
  have := m.isLt; have := p.isLt; have := c.isLt
  have := (BitVec.ofBool n).isLt
  simp only [bP, BitVec.extractLsb'_toNat, gWord_toNat, Nat.shiftRight_eq_div_pow]
  omega
@[simp] theorem bN_gWord (m : BitVec 6) (p : BitVec 3) (n : Bool) (c : BitVec 3) : bN (gWord m p n c) = n := by
  have := m.isLt; have := p.isLt; have := c.isLt
  have := (BitVec.ofBool n).isLt
  simp only [bN, BitVec.getLsbD, gWord_toNat, Nat.testBit, Nat.shiftRight_eq_div_pow, Nat.one_and_eq_mod_two]
  generalize hn : (BitVec.ofBool n).toNat = nn at *
  have e : nn = n.toNat := by rw [← hn]; cases n <;> rfl
  cases n <;> simp at e ⊢ <;> omega

/-- The word as a number. -/
theorem cWord_toNat (m : BitVec 6) (f l c : BitVec 4) (a b : Reg) : (cWord m f l c a b).toNat = (((((m.toNat) * 2 ^ 4 + f.toNat) * 2 ^ 4 + l.toNat) * 2 ^ 4 + c.toNat) * 2 ^ 7 + a.toNat) * 2 ^ 7 + b.toNat := by
  change (m ++ f ++ l ++ c ++ a ++ b : BitVec (6+4+4+4+7+7)).toNat = _
  simp only [append_toNat]

@[simp] theorem majOf_cWord (m : BitVec 6) (f l c : BitVec 4) (a b : Reg) : majOf (cWord m f l c a b) = m := by
  apply BitVec.eq_of_toNat_eq
  have := m.isLt; have := f.isLt; have := l.isLt; have := c.isLt; have := a.isLt; have := b.isLt
  simp only [majOf, BitVec.extractLsb'_toNat, cWord_toNat, Nat.shiftRight_eq_div_pow]
  omega
@[simp] theorem cFN_cWord (m : BitVec 6) (f l c : BitVec 4) (a b : Reg) : cFN (cWord m f l c a b) = f := by
  apply BitVec.eq_of_toNat_eq
  have := m.isLt; have := f.isLt; have := l.isLt; have := c.isLt; have := a.isLt; have := b.isLt
  simp only [cFN, BitVec.extractLsb'_toNat, cWord_toNat, Nat.shiftRight_eq_div_pow]
  omega
@[simp] theorem cL_cWord (m : BitVec 6) (f l c : BitVec 4) (a b : Reg) : cL (cWord m f l c a b) = l := by
  apply BitVec.eq_of_toNat_eq
  have := m.isLt; have := f.isLt; have := l.isLt; have := c.isLt; have := a.isLt; have := b.isLt
  simp only [cL, BitVec.extractLsb'_toNat, cWord_toNat, Nat.shiftRight_eq_div_pow]
  omega
@[simp] theorem cCH_cWord (m : BitVec 6) (f l c : BitVec 4) (a b : Reg) : cCH (cWord m f l c a b) = c := by
  apply BitVec.eq_of_toNat_eq
  have := m.isLt; have := f.isLt; have := l.isLt; have := c.isLt; have := a.isLt; have := b.isLt
  simp only [cCH, BitVec.extractLsb'_toNat, cWord_toNat, Nat.shiftRight_eq_div_pow]
  omega
@[simp] theorem tA_cWord (m : BitVec 6) (f l c : BitVec 4) (a b : Reg) : tA (cWord m f l c a b) = a := by
  apply BitVec.eq_of_toNat_eq
  have := m.isLt; have := f.isLt; have := l.isLt; have := c.isLt; have := a.isLt; have := b.isLt
  simp only [tA, BitVec.extractLsb'_toNat, cWord_toNat, Nat.shiftRight_eq_div_pow]
  omega
@[simp] theorem tB_cWord (m : BitVec 6) (f l c : BitVec 4) (a b : Reg) : tB (cWord m f l c a b) = b := by
  apply BitVec.eq_of_toNat_eq
  have := m.isLt; have := f.isLt; have := l.isLt; have := c.isLt; have := a.isLt; have := b.isLt
  simp only [tB, BitVec.extractLsb'_toNat, cWord_toNat, Nat.shiftRight_eq_div_pow]
  omega

/-- The word as a number. -/
theorem aWord_toNat (m : BitVec 6) (f : BitVec 5) (l : BitVec 4) (w : BitVec 3) (d a : Reg) : (aWord m f l w d a).toNat = (((((m.toNat) * 2 ^ 5 + f.toNat) * 2 ^ 4 + l.toNat) * 2 ^ 3 + w.toNat) * 2 ^ 7 + d.toNat) * 2 ^ 7 + a.toNat := by
  change (m ++ f ++ l ++ w ++ d ++ a : BitVec (6+5+4+3+7+7)).toNat = _
  simp only [append_toNat]

@[simp] theorem majOf_aWord (m : BitVec 6) (f : BitVec 5) (l : BitVec 4) (w : BitVec 3) (d a : Reg) : majOf (aWord m f l w d a) = m := by
  apply BitVec.eq_of_toNat_eq
  have := m.isLt; have := f.isLt; have := l.isLt; have := w.isLt; have := d.isLt; have := a.isLt
  simp only [majOf, BitVec.extractLsb'_toNat, aWord_toNat, Nat.shiftRight_eq_div_pow]
  omega
@[simp] theorem tFN_aWord (m : BitVec 6) (f : BitVec 5) (l : BitVec 4) (w : BitVec 3) (d a : Reg) : tFN (aWord m f l w d a) = f := by
  apply BitVec.eq_of_toNat_eq
  have := m.isLt; have := f.isLt; have := l.isLt; have := w.isLt; have := d.isLt; have := a.isLt
  simp only [tFN, BitVec.extractLsb'_toNat, aWord_toNat, Nat.shiftRight_eq_div_pow]
  omega
@[simp] theorem aL_aWord (m : BitVec 6) (f : BitVec 5) (l : BitVec 4) (w : BitVec 3) (d a : Reg) : aL (aWord m f l w d a) = l := by
  apply BitVec.eq_of_toNat_eq
  have := m.isLt; have := f.isLt; have := l.isLt; have := w.isLt; have := d.isLt; have := a.isLt
  simp only [aL, BitVec.extractLsb'_toNat, aWord_toNat, Nat.shiftRight_eq_div_pow]
  omega
@[simp] theorem aW_aWord (m : BitVec 6) (f : BitVec 5) (l : BitVec 4) (w : BitVec 3) (d a : Reg) : aW (aWord m f l w d a) = w := by
  apply BitVec.eq_of_toNat_eq
  have := m.isLt; have := f.isLt; have := l.isLt; have := w.isLt; have := d.isLt; have := a.isLt
  simp only [aW, BitVec.extractLsb'_toNat, aWord_toNat, Nat.shiftRight_eq_div_pow]
  omega
@[simp] theorem aD_aWord (m : BitVec 6) (f : BitVec 5) (l : BitVec 4) (w : BitVec 3) (d a : Reg) : aD (aWord m f l w d a) = d := by
  apply BitVec.eq_of_toNat_eq
  have := m.isLt; have := f.isLt; have := l.isLt; have := w.isLt; have := d.isLt; have := a.isLt
  simp only [aD, BitVec.extractLsb'_toNat, aWord_toNat, Nat.shiftRight_eq_div_pow]
  omega
@[simp] theorem tB_aWord (m : BitVec 6) (f : BitVec 5) (l : BitVec 4) (w : BitVec 3) (d a : Reg) : tB (aWord m f l w d a) = a := by
  apply BitVec.eq_of_toNat_eq
  have := m.isLt; have := f.isLt; have := l.isLt; have := w.isLt; have := d.isLt; have := a.isLt
  simp only [tB, BitVec.extractLsb'_toNat, aWord_toNat, Nat.shiftRight_eq_div_pow]
  omega

/-- The word as a number. -/
theorem a2Word_toNat (m : BitVec 6) (f l c : BitVec 4) (d a : Reg) : (a2Word m f l c d a).toNat = (((((m.toNat) * 2 ^ 4 + f.toNat) * 2 ^ 4 + l.toNat) * 2 ^ 4 + c.toNat) * 2 ^ 7 + d.toNat) * 2 ^ 7 + a.toNat := by
  change (m ++ f ++ l ++ c ++ d ++ a : BitVec (6+4+4+4+7+7)).toNat = _
  simp only [append_toNat]

@[simp] theorem majOf_a2Word (m : BitVec 6) (f l c : BitVec 4) (d a : Reg) : majOf (a2Word m f l c d a) = m := by
  apply BitVec.eq_of_toNat_eq
  have := m.isLt; have := f.isLt; have := l.isLt; have := c.isLt; have := d.isLt; have := a.isLt
  simp only [majOf, BitVec.extractLsb'_toNat, a2Word_toNat, Nat.shiftRight_eq_div_pow]
  omega
@[simp] theorem cFN_a2Word (m : BitVec 6) (f l c : BitVec 4) (d a : Reg) : cFN (a2Word m f l c d a) = f := by
  apply BitVec.eq_of_toNat_eq
  have := m.isLt; have := f.isLt; have := l.isLt; have := c.isLt; have := d.isLt; have := a.isLt
  simp only [cFN, BitVec.extractLsb'_toNat, a2Word_toNat, Nat.shiftRight_eq_div_pow]
  omega
@[simp] theorem cL_a2Word (m : BitVec 6) (f l c : BitVec 4) (d a : Reg) : cL (a2Word m f l c d a) = l := by
  apply BitVec.eq_of_toNat_eq
  have := m.isLt; have := f.isLt; have := l.isLt; have := c.isLt; have := d.isLt; have := a.isLt
  simp only [cL, BitVec.extractLsb'_toNat, a2Word_toNat, Nat.shiftRight_eq_div_pow]
  omega
@[simp] theorem cCH_a2Word (m : BitVec 6) (f l c : BitVec 4) (d a : Reg) : cCH (a2Word m f l c d a) = c := by
  apply BitVec.eq_of_toNat_eq
  have := m.isLt; have := f.isLt; have := l.isLt; have := c.isLt; have := d.isLt; have := a.isLt
  simp only [cCH, BitVec.extractLsb'_toNat, a2Word_toNat, Nat.shiftRight_eq_div_pow]
  omega
@[simp] theorem aD_a2Word (m : BitVec 6) (f l c : BitVec 4) (d a : Reg) : aD (a2Word m f l c d a) = d := by
  apply BitVec.eq_of_toNat_eq
  have := m.isLt; have := f.isLt; have := l.isLt; have := c.isLt; have := d.isLt; have := a.isLt
  simp only [aD, BitVec.extractLsb'_toNat, a2Word_toNat, Nat.shiftRight_eq_div_pow]
  omega
@[simp] theorem tB_a2Word (m : BitVec 6) (f l c : BitVec 4) (d a : Reg) : tB (a2Word m f l c d a) = a := by
  apply BitVec.eq_of_toNat_eq
  have := m.isLt; have := f.isLt; have := l.isLt; have := c.isLt; have := d.isLt; have := a.isLt
  simp only [tB, BitVec.extractLsb'_toNat, a2Word_toNat, Nat.shiftRight_eq_div_pow]
  omega

end Sys2Proof
end

