-- ==== Sys2Proof/Safety.lean ====
section
/-! DEFINITION. What counts as a safe run, and the terms in which statements say when a word meets nothing and what becomes of the threads of its gang. -/

namespace Sys2Proof

/-- Every state that k steps reach from a state satisfies p, and no step up to then faults or is refused. -/
def SafeFor (p : Machine.State → Prop) : Nat → Machine.State → Prop
  | 0, s => p s
  | k + 1, s => p s ∧ match Machine.step s with
    | .next t => SafeFor p k t
    | _ => False

namespace Machine

/-- The registers an operand list names are allocated to the thread (R28) and lie in no open pending set (R33). -/
def Thread.canUse (t : Thread) (os : List Operand) : Prop := ∀ p ∈ t.phys os, p < t.regs.length ∧ ∀ w ∈ t.windows, p ∉ w.regs

/-- The threads the gang names meet no cause of their own at word i: each is ready in its surroundings, may use the registers the word names unless
its guard switches it off, and, where it goes on to the next word (always when switched off), that word lies in the code section (R28, R33, R81, R91). -/
def State.Clear (s : State) (i : Instr) (falls : Thread → Bool := fun _ => true) : Prop :=
  ∀ t ∈ s.threads, t.ref ∈ s.gang → ∃ c, s.ctx? t.ref = some c ∧ c.t = t ∧ t.status = .ready ∧ t.taken = none
    ∧ (t.guardedOff = true ∨ falls t = true → t.pc + 4 < c.code.size) ∧ (t.guardedOff = false → t.canUse (operands i))

/-- The state in which every thread of the gang has moved past the word, f besides to each that its guard leaves on, and nothing else has changed. -/
def State.after (s : State) (f : Ctx → Thread → Thread) : State :=
  { s with threads := s.threads.map fun t => if s.gang.contains t.ref then
      match s.ctx? t.ref with
      | some c => if t.guardedOff then t.step else f c t.step
      | none => t
    else t }

/-- p holds in the surroundings of every thread of the gang that its guard leaves on. -/
def State.EachActive (s : State) (p : Ctx → Prop) : Prop := ∀ r ∈ s.gang, ∀ c, s.ctx? r = some c → c.t.guardedOff = false → p c

/-- One thread alone issues word i: it is the gang, ready in its surroundings c, met by no cause, left on by its guard, allowed the registers the word names
and the word itself, the next word lies in the code section, no fence of the thread stands unperformed, and a word that reads a record finds the thread's own
stores to scratch performed (R28, R29, R33, R36, R81, R91, R227, R247). -/
structure State.Issues (s : State) (i : Instr) (r : TRef) (c : Ctx) : Prop where
  gang : s.gang = [r]
  ctx : s.ctx? r = some c
  one : ∀ t ∈ s.threads, t.ref = r → t = c.t
  untaken : c.t.taken = none
  ready : c.t.status = .ready
  active : c.t.guardedOff = false
  uses : c.t.canUse (operands i)
  falls : c.t.pc + 4 < c.code.size
  allowed : needsSystem i = true → c.kernel.system = true
  unfenced : ∀ f ∈ s.fences, f.thread ≠ r
  settled : readsRecord i = true → s.scratchPending r = false

/-- The state with thread r suspended for the checks of word i, all passed (R89), and the word's pending set in a new window of its own operation (R32). -/
def State.suspend (s : State) (i : Instr) (r : TRef) (op : Nat) (st : TStatus := .stopped .pass) : State :=
  s.modThread r fun t => { t.opens i op (returnsData i) with status := st }

end Machine

end Sys2Proof
end

