-- ==== Sys2Proof/Laws/PerInstr.lean ====
section
/-! SUPPORT. Read-back, instruction by instruction: the field readers give back the instruction whose word they read. -/

set_option linter.unusedSimpArgs false
set_option Elab.async false

namespace Sys2Proof.Laws.ReadBack

open Sys2Proof

/-- The word of an instruction, if it has one, reads back as the instruction. -/
def Statement (i : Instr) : Prop := ∀ w, encode i = some w → readWord w = some i

theorem low3_pField (p : BitVec 3) : low3 (pField p) = p := by revert p; decide
theorem low3_pnField (p : BitVec 3) (n : Bool) : low3 (pnField p n) = p := by revert p n; decide
theorem bit3_pnField (p : BitVec 3) (n : Bool) : (pnField p n).getLsbD 3 = n := by revert p n; decide
theorem low3_cmpField (m : Combine) (p : BitVec 3) : low3 (cmpField m p) = p := by revert p; cases m <;> decide
theorem combine_cmpField (m : Combine) (p : BitVec 3) : Combine.ofCode ((cmpField m p).extractLsb' 3 2).toNat = some m := by revert p; cases m <;> decide
theorem win_field (b : BitVec 5) : (0#2 ++ b : BitVec 7).extractLsb' 0 5 = b := by revert b; decide
theorem src_field (b : BitVec 4) : (0#3 ++ b : BitVec 7).extractLsb' 0 4 = b := by revert b; decide
theorem trap_field (n : BitVec 14) : (n.extractLsb' 7 7 ++ n.extractLsb' 0 7 : BitVec 14) = n := by
  apply BitVec.eq_of_toNat_eq
  have := n.isLt
  change (n.extractLsb' 7 7 ++ n.extractLsb' 0 7 : BitVec (7 + 7)).toNat = _
  simp only [append_toNat, BitVec.extractLsb'_toNat, Nat.shiftRight_eq_div_pow]
  omega
theorem grd_field (m : BitVec 6) (p : BitVec 3) (n : Bool) (c : BitVec 3) : (bOff (gWord m p n c)).extractLsb' 19 3 = c := by
  apply BitVec.eq_of_toNat_eq
  have := m.isLt; have := p.isLt; have := c.isLt; have := (BitVec.ofBool n).isLt
  simp only [bOff, BitVec.extractLsb'_toNat, gWord_toNat, Nat.shiftRight_eq_div_pow]
  omega
theorem sel_pred (p : BitVec 3) (n : Bool) : (p ++ BitVec.ofBool n ++ 0#1 : BitVec 5).extractLsb' 2 3 = p := by revert p n; decide
theorem sel_neg (p : BitVec 3) (n : Bool) : (p ++ BitVec.ofBool n ++ 0#1 : BitVec 5).getLsbD 1 = n := by revert p n; decide
theorem stream_bit (b : Bool) : (0#3 ++ BitVec.ofBool b : BitVec 4).getLsbD 0 = b := by revert b; decide
theorem shift_kind (k : BitVec 2) (n : BitVec 5) : (k ++ 0#5 ++ n : BitVec 12).extractLsb' 10 2 = k := by revert k n; decide
theorem shift_amount (k : BitVec 2) (n : BitVec 5) : (k ++ 0#5 ++ n : BitVec 12).extractLsb' 0 5 = n := by revert k n; decide
theorem param_kind (k : BitVec 6) : (2#2 ++ 0#4 ++ k : BitVec 12).extractLsb' 10 2 = 2#2 := by revert k; decide
theorem param_number (k : BitVec 6) : (2#2 ++ 0#4 ++ k : BitVec 12).extractLsb' 0 6 = k := by revert k; decide
theorem cmpi_cond (c : IntCond) (p : BitVec 3) : IntCond.ofCode ((BitVec.ofNat 4 c.code ++ p : BitVec 7).extractLsb' 3 4).toNat = some c := by revert p; cases c <;> decide
theorem cmpi_pred (c : IntCond) (p : BitVec 3) : low3 (BitVec.ofNat 4 c.code ++ p : BitVec 7) = p := by revert p; cases c <;> decide
theorem cond_read (c : IntCond) : IntCond.ofCode (c.code % 2 ^ 5) = some c := by cases c <;> rfl
theorem fcond_read (c : FpCond) : FpCond.ofCode (c.code % 2 ^ 3) = some c := by cases c <;> rfl
theorem cvt_read (c : CvtCode) : CvtCode.ofCode (c.code % 2 ^ 5) = some c := by cases c <;> rfl
theorem size_read (c : Size) : Size.ofCode (c.code % 2 ^ 2) = some c := by cases c <;> rfl
theorem subload_read (c : SubLoad) : SubLoad.ofCode (c.code % 2 ^ 2) = some c := by cases c <;> rfl
theorem substore_read (c : SubStore) : SubStore.ofCode (c.code % 2 ^ 2) = some c := by cases c <;> rfl
theorem atomOp_read (c : AtomOp) : AtomOp.ofCode (c.code % 2 ^ 5) = some c := by cases c <;> rfl
theorem atomWidth_read (c : AtomWidth) : AtomWidth.ofCode (c.code % 2 ^ 3) = some c := by cases c <;> rfl
theorem ratom_read (c : RatomOp) : RatomOp.ofCode (c.code % 2 ^ 4) = some c := by cases c <;> rfl
theorem scope_read (c : Scope) : Scope.ofCode c.code = some c := by cases c <;> first | rfl | (rename_i i; revert i; decide)
theorem sreg_kind (r : SReg) : ((BitVec.ofNat 12 r.code).extractLsb' 10 2) = 0#2 := by cases r <;> rfl
theorem sreg_read (r : SReg) : SReg.ofCode ((BitVec.ofNat 12 r.code).extractLsb' 0 8).toNat = some r := by cases r <;> rfl

theorem nop : Statement .nop := by
  intro w h
  obtain rfl := Option.some.inj h
  simp only [readWord, majOf_tWord, readSys, tFN_tWord, tD_tWord, tA_tWord, tB_tWord, BitVec.ofNat_eq_ofNat, BitVec.toNat_ofNat]

theorem exit : Statement .exit := by
  intro w h
  obtain rfl := Option.some.inj h
  simp only [readWord, majOf_tWord, readSys, tFN_tWord, tD_tWord, tA_tWord, tB_tWord, BitVec.ofNat_eq_ofNat, BitVec.toNat_ofNat]

theorem brk : Statement .brk := by
  intro w h
  obtain rfl := Option.some.inj h
  simp only [readWord, majOf_tWord, readSys, tFN_tWord, tD_tWord, tA_tWord, tB_tWord, BitVec.ofNat_eq_ofNat, BitVec.toNat_ofNat]

theorem trap (n : BitVec 14) : Statement (.trap n) := by
  intro w h
  obtain rfl := Option.some.inj h
  simp only [readWord, majOf_tWord, readSys, tFN_tWord, tD_tWord, tA_tWord, tB_tWord, trap_field, Option.map_some, Option.bind_some, BitVec.ofNat_eq_ofNat, BitVec.toNat_ofNat]

theorem tret : Statement .tret := by
  intro w h
  obtain rfl := Option.some.inj h
  simp only [readWord, majOf_tWord, readSys, tFN_tWord, tD_tWord, tA_tWord, tB_tWord, BitVec.ofNat_eq_ofNat, BitVec.toNat_ofNat]

theorem tlbi (a b : Reg) : Statement (.tlbi a b) := by
  intro w h
  obtain rfl := Option.some.inj h
  simp only [readWord, majOf_tWord, readSys, tFN_tWord, tD_tWord, tA_tWord, tB_tWord, BitVec.ofNat_eq_ofNat, BitVec.toNat_ofNat]

theorem csync : Statement .csync := by
  intro w h
  obtain rfl := Option.some.inj h
  simp only [readWord, majOf_tWord, readSys, tFN_tWord, tD_tWord, tA_tWord, tB_tWord, BitVec.ofNat_eq_ofNat, BitVec.toNat_ofNat]

theorem cpick (p : BitVec 3) : Statement (.cpick p) := by
  intro w h
  obtain rfl := Option.some.inj h
  simp only [readWord, majOf_tWord, readSys, tFN_tWord, tD_tWord, tA_tWord, tB_tWord, low3_pField, low3_pnField, bit3_pnField, Option.map_some, Option.bind_some, BitVec.ofNat_eq_ofNat, BitVec.toNat_ofNat]

theorem win (b : BitVec 5) : Statement (.win b) := by
  intro w h
  obtain rfl := Option.some.inj h
  simp only [readWord, majOf_tWord, readSys, tFN_tWord, tD_tWord, tA_tWord, tB_tWord, win_field, Option.map_some, Option.bind_some, BitVec.ofNat_eq_ofNat, BitVec.toNat_ofNat]

theorem winr (a : Reg) : Statement (.winr a) := by
  intro w h
  obtain rfl := Option.some.inj h
  simp only [readWord, majOf_tWord, readSys, tFN_tWord, tD_tWord, tA_tWord, tB_tWord, BitVec.ofNat_eq_ofNat, BitVec.toNat_ofNat]

theorem bra (p : BitVec 3) (neg : Bool) (off : BitVec 22) : Statement (.bra p neg off) := by
  intro w h
  obtain rfl := Option.some.inj h
  simp only [readWord, majOf_bWord, bP_bWord, bN_bWord, bOff_bWord, BitVec.ofNat_eq_ofNat, BitVec.toNat_ofNat]

theorem call (off : BitVec 22) : Statement (.call off) := by
  intro w h
  obtain rfl := Option.some.inj h
  simp only [readWord, majOf_bWord, bP_bWord, bN_bWord, bOff_bWord, BitVec.ofNat_eq_ofNat, BitVec.toNat_ofNat]

theorem jmpi (a : Reg) : Statement (.jmpi a) := by
  intro w h
  obtain rfl := Option.some.inj h
  simp only [readWord, majOf_tWord, readJump, tFN_tWord, tD_tWord, tA_tWord, tB_tWord, BitVec.ofNat_eq_ofNat, BitVec.toNat_ofNat]

theorem calli (a : Reg) : Statement (.calli a) := by
  intro w h
  obtain rfl := Option.some.inj h
  simp only [readWord, majOf_tWord, readJump, tFN_tWord, tD_tWord, tA_tWord, tB_tWord, BitVec.ofNat_eq_ofNat, BitVec.toNat_ofNat]

theorem ret : Statement .ret := by
  intro w h
  obtain rfl := Option.some.inj h
  simp only [readWord, majOf_tWord, readJump, tFN_tWord, tD_tWord, tA_tWord, tB_tWord, BitVec.ofNat_eq_ofNat, BitVec.toNat_ofNat]

theorem grd (p : BitVec 3) (neg : Bool) (cnt : BitVec 3) : Statement (.grd p neg cnt) := by
  intro w h
  obtain rfl := Option.some.inj h
  simp only [readWord, majOf_gWord, bP_gWord, bN_gWord, grd_field, Option.map_some, Option.bind_some, BitVec.ofNat_eq_ofNat, BitVec.toNat_ofNat]

theorem pall (p q : BitVec 3) (neg : Bool) : Statement (.pall p q neg) := by
  intro w h
  obtain rfl := Option.some.inj h
  simp only [readWord, majOf_tWord, readClv, tFN_tWord, tD_tWord, tA_tWord, tB_tWord, low3_pField, low3_pnField, bit3_pnField, Option.map_some, Option.bind_some, BitVec.ofNat_eq_ofNat, BitVec.toNat_ofNat]

theorem pany (p q : BitVec 3) (neg : Bool) : Statement (.pany p q neg) := by
  intro w h
  obtain rfl := Option.some.inj h
  simp only [readWord, majOf_tWord, readClv, tFN_tWord, tD_tWord, tA_tWord, tB_tWord, low3_pField, low3_pnField, bit3_pnField, Option.map_some, Option.bind_some, BitVec.ofNat_eq_ofNat, BitVec.toNat_ofNat]

theorem psame (p q : BitVec 3) (neg : Bool) : Statement (.psame p q neg) := by
  intro w h
  obtain rfl := Option.some.inj h
  simp only [readWord, majOf_tWord, readClv, tFN_tWord, tD_tWord, tA_tWord, tB_tWord, low3_pField, low3_pnField, bit3_pnField, Option.map_some, Option.bind_some, BitVec.ofNat_eq_ofNat, BitVec.toNat_ofNat]

theorem ballot (d : Reg) (q : BitVec 3) (neg : Bool) : Statement (.ballot d q neg) := by
  intro w h
  obtain rfl := Option.some.inj h
  simp only [readWord, majOf_tWord, readClv, tFN_tWord, tD_tWord, tA_tWord, tB_tWord, low3_pField, low3_pnField, bit3_pnField, Option.map_some, Option.bind_some, BitVec.ofNat_eq_ofNat, BitVec.toNat_ofNat]

theorem xlane (o : XlaneOp) (d a b : Reg) : Statement (.xlane o d a b) := by
  intro w h
  obtain rfl := Option.some.inj h
  cases o <;> simp only [readWord, majOf_tWord, readClv, tFN_tWord, tD_tWord, tA_tWord, tB_tWord, XlaneOp.code, CredOp.code, FredxOp.code, BitVec.ofNat_eq_ofNat, BitVec.toNat_ofNat]

theorem cred (o : CredOp) (d a : Reg) : Statement (.cred o d a) := by
  intro w h
  obtain rfl := Option.some.inj h
  cases o <;> simp only [readWord, majOf_tWord, readClv, tFN_tWord, tD_tWord, tA_tWord, tB_tWord, XlaneOp.code, CredOp.code, FredxOp.code, BitVec.ofNat_eq_ofNat, BitVec.toNat_ofNat]

theorem fredx (o : FredxOp) (d a : Reg) : Statement (.fredx o d a) := by
  intro w h
  obtain rfl := Option.some.inj h
  cases o <;> simp only [readWord, majOf_tWord, readClv, tFN_tWord, tD_tWord, tA_tWord, tB_tWord, XlaneOp.code, CredOp.code, FredxOp.code, BitVec.ofNat_eq_ofNat, BitVec.toNat_ofNat]

theorem scanAdd (d a : Reg) : Statement (.scanAdd d a) := by
  intro w h
  obtain rfl := Option.some.inj h
  simp only [readWord, majOf_tWord, readClv, tFN_tWord, tD_tWord, tA_tWord, tB_tWord, BitVec.ofNat_eq_ofNat, BitVec.toNat_ofNat]

theorem scanAddi (d a : Reg) : Statement (.scanAddi d a) := by
  intro w h
  obtain rfl := Option.some.inj h
  simp only [readWord, majOf_tWord, readClv, tFN_tWord, tD_tWord, tA_tWord, tB_tWord, BitVec.ofNat_eq_ofNat, BitVec.toNat_ofNat]

theorem spawn (d a b : Reg) : Statement (.spawn d a b) := by
  intro w h
  obtain rfl := Option.some.inj h
  simp only [readWord, majOf_tWord, readSpawn, tFN_tWord, tD_tWord, tA_tWord, tB_tWord, BitVec.ofNat_eq_ofNat, BitVec.toNat_ofNat]

theorem heat (a : Reg) : Statement (.heat a) := by
  intro w h
  obtain rfl := Option.some.inj h
  simp only [readWord, majOf_tWord, readSpawn, tFN_tWord, tD_tWord, tA_tWord, tB_tWord, BitVec.ofNat_eq_ofNat, BitVec.toNat_ofNat]

theorem launch (l : BitVec 4) (a b : Reg) : Statement (.launch l a b) := by
  intro w h
  obtain rfl := Option.some.inj h
  simp only [readWord, majOf_cWord, readLaunch, cFN_cWord, cL_cWord, cCH_cWord, tA_cWord, tB_cWord, BitVec.ofNat_eq_ofNat, BitVec.toNat_ofNat]

theorem iadd (d a b : Reg) : Statement (.iadd d a b) := by
  intro w h
  obtain rfl := Option.some.inj h
  simp only [readWord, majOf_tWord, readInta, tFN_tWord, tD_tWord, tA_tWord, tB_tWord, BitVec.ofNat_eq_ofNat, BitVec.toNat_ofNat]

theorem isub (d a b : Reg) : Statement (.isub d a b) := by
  intro w h
  obtain rfl := Option.some.inj h
  simp only [readWord, majOf_tWord, readInta, tFN_tWord, tD_tWord, tA_tWord, tB_tWord, BitVec.ofNat_eq_ofNat, BitVec.toNat_ofNat]

theorem imul (d a b : Reg) : Statement (.imul d a b) := by
  intro w h
  obtain rfl := Option.some.inj h
  simp only [readWord, majOf_tWord, readInta, tFN_tWord, tD_tWord, tA_tWord, tB_tWord, BitVec.ofNat_eq_ofNat, BitVec.toNat_ofNat]

theorem imulh (d a b : Reg) : Statement (.imulh d a b) := by
  intro w h
  obtain rfl := Option.some.inj h
  simp only [readWord, majOf_tWord, readInta, tFN_tWord, tD_tWord, tA_tWord, tB_tWord, BitVec.ofNat_eq_ofNat, BitVec.toNat_ofNat]

theorem imulhu (d a b : Reg) : Statement (.imulhu d a b) := by
  intro w h
  obtain rfl := Option.some.inj h
  simp only [readWord, majOf_tWord, readInta, tFN_tWord, tD_tWord, tA_tWord, tB_tWord, BitVec.ofNat_eq_ofNat, BitVec.toNat_ofNat]

theorem imac (d a b : Reg) : Statement (.imac d a b) := by
  intro w h
  obtain rfl := Option.some.inj h
  simp only [readWord, majOf_tWord, readInta, tFN_tWord, tD_tWord, tA_tWord, tB_tWord, BitVec.ofNat_eq_ofNat, BitVec.toNat_ofNat]

theorem imin (d a b : Reg) : Statement (.imin d a b) := by
  intro w h
  obtain rfl := Option.some.inj h
  simp only [readWord, majOf_tWord, readInta, tFN_tWord, tD_tWord, tA_tWord, tB_tWord, BitVec.ofNat_eq_ofNat, BitVec.toNat_ofNat]

theorem imax (d a b : Reg) : Statement (.imax d a b) := by
  intro w h
  obtain rfl := Option.some.inj h
  simp only [readWord, majOf_tWord, readInta, tFN_tWord, tD_tWord, tA_tWord, tB_tWord, BitVec.ofNat_eq_ofNat, BitVec.toNat_ofNat]

theorem umin (d a b : Reg) : Statement (.umin d a b) := by
  intro w h
  obtain rfl := Option.some.inj h
  simp only [readWord, majOf_tWord, readInta, tFN_tWord, tD_tWord, tA_tWord, tB_tWord, BitVec.ofNat_eq_ofNat, BitVec.toNat_ofNat]

theorem umax (d a b : Reg) : Statement (.umax d a b) := by
  intro w h
  obtain rfl := Option.some.inj h
  simp only [readWord, majOf_tWord, readInta, tFN_tWord, tD_tWord, tA_tWord, tB_tWord, BitVec.ofNat_eq_ofNat, BitVec.toNat_ofNat]

theorem and (d a b : Reg) : Statement (.and d a b) := by
  intro w h
  obtain rfl := Option.some.inj h
  simp only [readWord, majOf_tWord, readInta, tFN_tWord, tD_tWord, tA_tWord, tB_tWord, BitVec.ofNat_eq_ofNat, BitVec.toNat_ofNat]

theorem or (d a b : Reg) : Statement (.or d a b) := by
  intro w h
  obtain rfl := Option.some.inj h
  simp only [readWord, majOf_tWord, readInta, tFN_tWord, tD_tWord, tA_tWord, tB_tWord, BitVec.ofNat_eq_ofNat, BitVec.toNat_ofNat]

theorem xor (d a b : Reg) : Statement (.xor d a b) := by
  intro w h
  obtain rfl := Option.some.inj h
  simp only [readWord, majOf_tWord, readInta, tFN_tWord, tD_tWord, tA_tWord, tB_tWord, BitVec.ofNat_eq_ofNat, BitVec.toNat_ofNat]

theorem andn (d a b : Reg) : Statement (.andn d a b) := by
  intro w h
  obtain rfl := Option.some.inj h
  simp only [readWord, majOf_tWord, readInta, tFN_tWord, tD_tWord, tA_tWord, tB_tWord, BitVec.ofNat_eq_ofNat, BitVec.toNat_ofNat]

theorem shl (d a b : Reg) : Statement (.shl d a b) := by
  intro w h
  obtain rfl := Option.some.inj h
  simp only [readWord, majOf_tWord, readInta, tFN_tWord, tD_tWord, tA_tWord, tB_tWord, BitVec.ofNat_eq_ofNat, BitVec.toNat_ofNat]

theorem shr (d a b : Reg) : Statement (.shr d a b) := by
  intro w h
  obtain rfl := Option.some.inj h
  simp only [readWord, majOf_tWord, readInta, tFN_tWord, tD_tWord, tA_tWord, tB_tWord, BitVec.ofNat_eq_ofNat, BitVec.toNat_ofNat]

theorem sar (d a b : Reg) : Statement (.sar d a b) := by
  intro w h
  obtain rfl := Option.some.inj h
  simp only [readWord, majOf_tWord, readInta, tFN_tWord, tD_tWord, tA_tWord, tB_tWord, BitVec.ofNat_eq_ofNat, BitVec.toNat_ofNat]

theorem rotl (d a b : Reg) : Statement (.rotl d a b) := by
  intro w h
  obtain rfl := Option.some.inj h
  simp only [readWord, majOf_tWord, readInta, tFN_tWord, tD_tWord, tA_tWord, tB_tWord, BitVec.ofNat_eq_ofNat, BitVec.toNat_ofNat]

theorem bfx (d a b : Reg) : Statement (.bfx d a b) := by
  intro w h
  obtain rfl := Option.some.inj h
  simp only [readWord, majOf_tWord, readInta, tFN_tWord, tD_tWord, tA_tWord, tB_tWord, BitVec.ofNat_eq_ofNat, BitVec.toNat_ofNat]

theorem bfxs (d a b : Reg) : Statement (.bfxs d a b) := by
  intro w h
  obtain rfl := Option.some.inj h
  simp only [readWord, majOf_tWord, readInta, tFN_tWord, tD_tWord, tA_tWord, tB_tWord, BitVec.ofNat_eq_ofNat, BitVec.toNat_ofNat]

theorem bfi (d a b : Reg) : Statement (.bfi d a b) := by
  intro w h
  obtain rfl := Option.some.inj h
  simp only [readWord, majOf_tWord, readInta, tFN_tWord, tD_tWord, tA_tWord, tB_tWord, BitVec.ofNat_eq_ofNat, BitVec.toNat_ofNat]

theorem lea1 (d a b : Reg) : Statement (.lea1 d a b) := by
  intro w h
  obtain rfl := Option.some.inj h
  simp only [readWord, majOf_tWord, readInta, tFN_tWord, tD_tWord, tA_tWord, tB_tWord, BitVec.ofNat_eq_ofNat, BitVec.toNat_ofNat]

theorem lea2 (d a b : Reg) : Statement (.lea2 d a b) := by
  intro w h
  obtain rfl := Option.some.inj h
  simp only [readWord, majOf_tWord, readInta, tFN_tWord, tD_tWord, tA_tWord, tB_tWord, BitVec.ofNat_eq_ofNat, BitVec.toNat_ofNat]

theorem lea3 (d a b : Reg) : Statement (.lea3 d a b) := by
  intro w h
  obtain rfl := Option.some.inj h
  simp only [readWord, majOf_tWord, readInta, tFN_tWord, tD_tWord, tA_tWord, tB_tWord, BitVec.ofNat_eq_ofNat, BitVec.toNat_ofNat]

theorem mulw (d a b : Reg) : Statement (.mulw d a b) := by
  intro w h
  obtain rfl := Option.some.inj h
  simp only [readWord, majOf_tWord, readInta, tFN_tWord, tD_tWord, tA_tWord, tB_tWord, BitVec.ofNat_eq_ofNat, BitVec.toNat_ofNat]

theorem add64 (d a b : Reg) : Statement (.add64 d a b) := by
  intro w h
  obtain rfl := Option.some.inj h
  simp only [readWord, majOf_tWord, readInta, tFN_tWord, tD_tWord, tA_tWord, tB_tWord, BitVec.ofNat_eq_ofNat, BitVec.toNat_ofNat]

theorem sub64 (d a b : Reg) : Statement (.sub64 d a b) := by
  intro w h
  obtain rfl := Option.some.inj h
  simp only [readWord, majOf_tWord, readInta, tFN_tWord, tD_tWord, tA_tWord, tB_tWord, BitVec.ofNat_eq_ofNat, BitVec.toNat_ofNat]

theorem shl64 (d a b : Reg) : Statement (.shl64 d a b) := by
  intro w h
  obtain rfl := Option.some.inj h
  simp only [readWord, majOf_tWord, readInta, tFN_tWord, tD_tWord, tA_tWord, tB_tWord, BitVec.ofNat_eq_ofNat, BitVec.toNat_ofNat]

theorem shr64 (d a b : Reg) : Statement (.shr64 d a b) := by
  intro w h
  obtain rfl := Option.some.inj h
  simp only [readWord, majOf_tWord, readInta, tFN_tWord, tD_tWord, tA_tWord, tB_tWord, BitVec.ofNat_eq_ofNat, BitVec.toNat_ofNat]

theorem mov (d a : Reg) : Statement (.mov d a) := by
  intro w h
  obtain rfl := Option.some.inj h
  simp only [readWord, majOf_tWord, readIntu, tFN_tWord, tD_tWord, tA_tWord, tB_tWord, BitVec.ofNat_eq_ofNat, BitVec.toNat_ofNat]

theorem not (d a : Reg) : Statement (.not d a) := by
  intro w h
  obtain rfl := Option.some.inj h
  simp only [readWord, majOf_tWord, readIntu, tFN_tWord, tD_tWord, tA_tWord, tB_tWord, BitVec.ofNat_eq_ofNat, BitVec.toNat_ofNat]

theorem ineg (d a : Reg) : Statement (.ineg d a) := by
  intro w h
  obtain rfl := Option.some.inj h
  simp only [readWord, majOf_tWord, readIntu, tFN_tWord, tD_tWord, tA_tWord, tB_tWord, BitVec.ofNat_eq_ofNat, BitVec.toNat_ofNat]

theorem iabs (d a : Reg) : Statement (.iabs d a) := by
  intro w h
  obtain rfl := Option.some.inj h
  simp only [readWord, majOf_tWord, readIntu, tFN_tWord, tD_tWord, tA_tWord, tB_tWord, BitVec.ofNat_eq_ofNat, BitVec.toNat_ofNat]

theorem clz (d a : Reg) : Statement (.clz d a) := by
  intro w h
  obtain rfl := Option.some.inj h
  simp only [readWord, majOf_tWord, readIntu, tFN_tWord, tD_tWord, tA_tWord, tB_tWord, BitVec.ofNat_eq_ofNat, BitVec.toNat_ofNat]

theorem popc (d a : Reg) : Statement (.popc d a) := by
  intro w h
  obtain rfl := Option.some.inj h
  simp only [readWord, majOf_tWord, readIntu, tFN_tWord, tD_tWord, tA_tWord, tB_tWord, BitVec.ofNat_eq_ofNat, BitVec.toNat_ofNat]

theorem brev (d a : Reg) : Statement (.brev d a) := by
  intro w h
  obtain rfl := Option.some.inj h
  simp only [readWord, majOf_tWord, readIntu, tFN_tWord, tD_tWord, tA_tWord, tB_tWord, BitVec.ofNat_eq_ofNat, BitVec.toNat_ofNat]

theorem ptov (d : Reg) : Statement (.ptov d) := by
  intro w h
  obtain rfl := Option.some.inj h
  simp only [readWord, majOf_tWord, readIntu, tFN_tWord, tD_tWord, tA_tWord, tB_tWord, BitVec.ofNat_eq_ofNat, BitVec.toNat_ofNat]

theorem vtop (a : Reg) : Statement (.vtop a) := by
  intro w h
  obtain rfl := Option.some.inj h
  simp only [readWord, majOf_tWord, readIntu, tFN_tWord, tD_tWord, tA_tWord, tB_tWord, BitVec.ofNat_eq_ofNat, BitVec.toNat_ofNat]

theorem icmp (c : IntCond) (m : Combine) (p : BitVec 3) (a b : Reg) : Statement (.icmp c m p a b) := by
  intro w h
  obtain rfl := Option.some.inj h
  simp only [readWord, majOf_tWord, tFN_tWord, tD_tWord, tA_tWord, tB_tWord, cond_read, low3_cmpField, combine_cmpField, Option.map_some, Option.bind_some, BitVec.ofNat_eq_ofNat, BitVec.toNat_ofNat]

theorem sel (p : BitVec 3) (neg : Bool) (d a b : Reg) : Statement (.sel p neg d a b) := by
  intro w h
  obtain rfl := Option.some.inj h
  simp only [readWord, majOf_tWord, tFN_tWord, tD_tWord, tA_tWord, tB_tWord, sel_pred, sel_neg, Option.map_some, Option.bind_some, BitVec.ofNat_eq_ofNat, BitVec.toNat_ofNat]

theorem pand (d a b : BitVec 3) : Statement (.pand d a b) := by
  intro w h
  obtain rfl := Option.some.inj h
  simp only [readWord, majOf_tWord, readPlop, tFN_tWord, tD_tWord, tA_tWord, tB_tWord, low3_pField, low3_pnField, bit3_pnField, Option.map_some, Option.bind_some, BitVec.ofNat_eq_ofNat, BitVec.toNat_ofNat]

theorem por (d a b : BitVec 3) : Statement (.por d a b) := by
  intro w h
  obtain rfl := Option.some.inj h
  simp only [readWord, majOf_tWord, readPlop, tFN_tWord, tD_tWord, tA_tWord, tB_tWord, low3_pField, low3_pnField, bit3_pnField, Option.map_some, Option.bind_some, BitVec.ofNat_eq_ofNat, BitVec.toNat_ofNat]

theorem pxor (d a b : BitVec 3) : Statement (.pxor d a b) := by
  intro w h
  obtain rfl := Option.some.inj h
  simp only [readWord, majOf_tWord, readPlop, tFN_tWord, tD_tWord, tA_tWord, tB_tWord, low3_pField, low3_pnField, bit3_pnField, Option.map_some, Option.bind_some, BitVec.ofNat_eq_ofNat, BitVec.toNat_ofNat]

theorem pnot (d a : BitVec 3) : Statement (.pnot d a) := by
  intro w h
  obtain rfl := Option.some.inj h
  simp only [readWord, majOf_tWord, readPlop, tFN_tWord, tD_tWord, tA_tWord, tB_tWord, low3_pField, low3_pnField, bit3_pnField, Option.map_some, Option.bind_some, BitVec.ofNat_eq_ofNat, BitVec.toNat_ofNat]

theorem iaddi (d a : Reg) (imm : BitVec 12) : Statement (.iaddi d a imm) := by
  intro w h
  obtain rfl := Option.some.inj h
  simp only [readWord, majOf_iWord, iD_iWord, iA_iWord, iImm_iWord, BitVec.ofNat_eq_ofNat, BitVec.toNat_ofNat]

theorem andi (d a : Reg) (imm : BitVec 12) : Statement (.andi d a imm) := by
  intro w h
  obtain rfl := Option.some.inj h
  simp only [readWord, majOf_iWord, iD_iWord, iA_iWord, iImm_iWord, BitVec.ofNat_eq_ofNat, BitVec.toNat_ofNat]

theorem ori (d a : Reg) (imm : BitVec 12) : Statement (.ori d a imm) := by
  intro w h
  obtain rfl := Option.some.inj h
  simp only [readWord, majOf_iWord, iD_iWord, iA_iWord, iImm_iWord, BitVec.ofNat_eq_ofNat, BitVec.toNat_ofNat]

theorem xori (d a : Reg) (imm : BitVec 12) : Statement (.xori d a imm) := by
  intro w h
  obtain rfl := Option.some.inj h
  simp only [readWord, majOf_iWord, iD_iWord, iA_iWord, iImm_iWord, BitVec.ofNat_eq_ofNat, BitVec.toNat_ofNat]

theorem shli (d a : Reg) (n : BitVec 5) : Statement (.shli d a n) := by
  intro w h
  obtain rfl := Option.some.inj h
  simp only [readWord, majOf_iWord, readShifti, iD_iWord, iA_iWord, iImm_iWord, shift_kind, shift_amount, Option.map_some, Option.bind_some, BitVec.ofNat_eq_ofNat, BitVec.toNat_ofNat]

theorem shri (d a : Reg) (n : BitVec 5) : Statement (.shri d a n) := by
  intro w h
  obtain rfl := Option.some.inj h
  simp only [readWord, majOf_iWord, readShifti, iD_iWord, iA_iWord, iImm_iWord, shift_kind, shift_amount, Option.map_some, Option.bind_some, BitVec.ofNat_eq_ofNat, BitVec.toNat_ofNat]

theorem sari (d a : Reg) (n : BitVec 5) : Statement (.sari d a n) := by
  intro w h
  obtain rfl := Option.some.inj h
  simp only [readWord, majOf_iWord, readShifti, iD_iWord, iA_iWord, iImm_iWord, shift_kind, shift_amount, Option.map_some, Option.bind_some, BitVec.ofNat_eq_ofNat, BitVec.toNat_ofNat]

theorem rotli (d a : Reg) (n : BitVec 5) : Statement (.rotli d a n) := by
  intro w h
  obtain rfl := Option.some.inj h
  simp only [readWord, majOf_iWord, readShifti, iD_iWord, iA_iWord, iImm_iWord, shift_kind, shift_amount, Option.map_some, Option.bind_some, BitVec.ofNat_eq_ofNat, BitVec.toNat_ofNat]

theorem icmpi (c : IntCond) (p : BitVec 3) (a : Reg) (imm : BitVec 12) : Statement (.icmpi c p a imm) := by
  intro w h
  obtain rfl := Option.some.inj h
  simp only [readWord, majOf_iWord, iD_iWord, iA_iWord, iImm_iWord, cmpi_cond, cmpi_pred, Option.map_some, Option.bind_some, BitVec.ofNat_eq_ofNat, BitVec.toNat_ofNat]

theorem movi (d : Reg) (imm : BitVec 19) : Statement (.movi d imm) := by
  intro w h
  obtain rfl := Option.some.inj h
  simp only [readWord, majOf_kWord, iD_kWord, kImm_kWord, BitVec.ofNat_eq_ofNat, BitVec.toNat_ofNat]

theorem movhi (d : Reg) (imm : BitVec 19) : Statement (.movhi d imm) := by
  intro w h
  obtain rfl := Option.some.inj h
  simp only [readWord, majOf_kWord, iD_kWord, kImm_kWord, BitVec.ofNat_eq_ofNat, BitVec.toNat_ofNat]

theorem srd (d : Reg) (r : SReg) : Statement (.srd d r) := by
  intro w h
  obtain rfl := Option.some.inj h
  simp only [readWord, majOf_iWord, readSpec, iD_iWord, iA_iWord, iImm_iWord, sreg_kind, sreg_read, Option.map_some, Option.bind_some, BitVec.ofNat_eq_ofNat, BitVec.toNat_ofNat]

theorem swr (a : Reg) : Statement (.swr a) := by
  intro w h
  obtain rfl := Option.some.inj h
  simp only [readWord, majOf_iWord, readSpec, iImm_iWord, iA_iWord]
  rfl

theorem movk (d : Reg) (k : BitVec 6) : Statement (.movk d k) := by
  intro w h
  obtain rfl := Option.some.inj h
  simp only [readWord, majOf_iWord, readSpec, iD_iWord, iA_iWord, iImm_iWord, param_kind, param_number, Option.map_some, Option.bind_some, BitVec.ofNat_eq_ofNat, BitVec.toNat_ofNat]

theorem fadd (fi fo : Bool) (d a b : Reg) : Statement (.fadd fi fo d a b) := by
  intro w h
  obtain rfl := Option.some.inj h
  simp only [readWord, majOf_fWord, readFpa, fFN_fWord, fFI_fWord, fFO_fWord, tD_fWord, tA_fWord, tB_fWord, BitVec.ofNat_eq_ofNat, BitVec.toNat_ofNat]

theorem fsub (fi fo : Bool) (d a b : Reg) : Statement (.fsub fi fo d a b) := by
  intro w h
  obtain rfl := Option.some.inj h
  simp only [readWord, majOf_fWord, readFpa, fFN_fWord, fFI_fWord, fFO_fWord, tD_fWord, tA_fWord, tB_fWord, BitVec.ofNat_eq_ofNat, BitVec.toNat_ofNat]

theorem fmul (fi fo : Bool) (d a b : Reg) : Statement (.fmul fi fo d a b) := by
  intro w h
  obtain rfl := Option.some.inj h
  simp only [readWord, majOf_fWord, readFpa, fFN_fWord, fFI_fWord, fFO_fWord, tD_fWord, tA_fWord, tB_fWord, BitVec.ofNat_eq_ofNat, BitVec.toNat_ofNat]

theorem ffma (fi fo : Bool) (d a b : Reg) : Statement (.ffma fi fo d a b) := by
  intro w h
  obtain rfl := Option.some.inj h
  simp only [readWord, majOf_fWord, readFpa, fFN_fWord, fFI_fWord, fFO_fWord, tD_fWord, tA_fWord, tB_fWord, BitVec.ofNat_eq_ofNat, BitVec.toNat_ofNat]

theorem ffms (fi fo : Bool) (d a b : Reg) : Statement (.ffms fi fo d a b) := by
  intro w h
  obtain rfl := Option.some.inj h
  simp only [readWord, majOf_fWord, readFpa, fFN_fWord, fFI_fWord, fFO_fWord, tD_fWord, tA_fWord, tB_fWord, BitVec.ofNat_eq_ofNat, BitVec.toNat_ofNat]

theorem fmin (fi fo : Bool) (d a b : Reg) : Statement (.fmin fi fo d a b) := by
  intro w h
  obtain rfl := Option.some.inj h
  simp only [readWord, majOf_fWord, readFpa, fFN_fWord, fFI_fWord, fFO_fWord, tD_fWord, tA_fWord, tB_fWord, BitVec.ofNat_eq_ofNat, BitVec.toNat_ofNat]

theorem fmax (fi fo : Bool) (d a b : Reg) : Statement (.fmax fi fo d a b) := by
  intro w h
  obtain rfl := Option.some.inj h
  simp only [readWord, majOf_fWord, readFpa, fFN_fWord, fFI_fWord, fFO_fWord, tD_fWord, tA_fWord, tB_fWord, BitVec.ofNat_eq_ofNat, BitVec.toNat_ofNat]

theorem fabs (d a : Reg) : Statement (.fabs d a) := by
  intro w h
  obtain rfl := Option.some.inj h
  simp only [readWord, majOf_fWord, readFpu1, fFN_fWord, fFI_fWord, fFO_fWord, tD_fWord, tA_fWord, tB_fWord, BitVec.ofNat_eq_ofNat, BitVec.toNat_ofNat]

theorem fneg (d a : Reg) : Statement (.fneg d a) := by
  intro w h
  obtain rfl := Option.some.inj h
  simp only [readWord, majOf_fWord, readFpu1, fFN_fWord, fFI_fWord, fFO_fWord, tD_fWord, tA_fWord, tB_fWord, BitVec.ofNat_eq_ofNat, BitVec.toNat_ofNat]

theorem frcp (fi fo : Bool) (d a : Reg) : Statement (.frcp fi fo d a) := by
  intro w h
  obtain rfl := Option.some.inj h
  simp only [readWord, majOf_fWord, readFpu1, fFN_fWord, fFI_fWord, fFO_fWord, tD_fWord, tA_fWord, tB_fWord, BitVec.ofNat_eq_ofNat, BitVec.toNat_ofNat]

theorem frsq (fi fo : Bool) (d a : Reg) : Statement (.frsq fi fo d a) := by
  intro w h
  obtain rfl := Option.some.inj h
  simp only [readWord, majOf_fWord, readFpu1, fFN_fWord, fFI_fWord, fFO_fWord, tD_fWord, tA_fWord, tB_fWord, BitVec.ofNat_eq_ofNat, BitVec.toNat_ofNat]

theorem fsqrt (fi fo : Bool) (d a : Reg) : Statement (.fsqrt fi fo d a) := by
  intro w h
  obtain rfl := Option.some.inj h
  simp only [readWord, majOf_fWord, readFpu1, fFN_fWord, fFI_fWord, fFO_fWord, tD_fWord, tA_fWord, tB_fWord, BitVec.ofNat_eq_ofNat, BitVec.toNat_ofNat]

theorem fex2 (fi fo : Bool) (d a : Reg) : Statement (.fex2 fi fo d a) := by
  intro w h
  obtain rfl := Option.some.inj h
  simp only [readWord, majOf_fWord, readFpu1, fFN_fWord, fFI_fWord, fFO_fWord, tD_fWord, tA_fWord, tB_fWord, BitVec.ofNat_eq_ofNat, BitVec.toNat_ofNat]

theorem flg2 (fi fo : Bool) (d a : Reg) : Statement (.flg2 fi fo d a) := by
  intro w h
  obtain rfl := Option.some.inj h
  simp only [readWord, majOf_fWord, readFpu1, fFN_fWord, fFI_fWord, fFO_fWord, tD_fWord, tA_fWord, tB_fWord, BitVec.ofNat_eq_ofNat, BitVec.toNat_ofNat]

theorem ftanh (fi fo : Bool) (d a : Reg) : Statement (.ftanh fi fo d a) := by
  intro w h
  obtain rfl := Option.some.inj h
  simp only [readWord, majOf_fWord, readFpu1, fFN_fWord, fFI_fWord, fFO_fWord, tD_fWord, tA_fWord, tB_fWord, BitVec.ofNat_eq_ofNat, BitVec.toNat_ofNat]

theorem frndNe (fi fo : Bool) (d a : Reg) : Statement (.frndNe fi fo d a) := by
  intro w h
  obtain rfl := Option.some.inj h
  simp only [readWord, majOf_fWord, readFpu1, fFN_fWord, fFI_fWord, fFO_fWord, tD_fWord, tA_fWord, tB_fWord, BitVec.ofNat_eq_ofNat, BitVec.toNat_ofNat]

theorem frndZ (fi fo : Bool) (d a : Reg) : Statement (.frndZ fi fo d a) := by
  intro w h
  obtain rfl := Option.some.inj h
  simp only [readWord, majOf_fWord, readFpu1, fFN_fWord, fFI_fWord, fFO_fWord, tD_fWord, tA_fWord, tB_fWord, BitVec.ofNat_eq_ofNat, BitVec.toNat_ofNat]

theorem frndDn (fi fo : Bool) (d a : Reg) : Statement (.frndDn fi fo d a) := by
  intro w h
  obtain rfl := Option.some.inj h
  simp only [readWord, majOf_fWord, readFpu1, fFN_fWord, fFI_fWord, fFO_fWord, tD_fWord, tA_fWord, tB_fWord, BitVec.ofNat_eq_ofNat, BitVec.toNat_ofNat]

theorem frndUp (fi fo : Bool) (d a : Reg) : Statement (.frndUp fi fo d a) := by
  intro w h
  obtain rfl := Option.some.inj h
  simp only [readWord, majOf_fWord, readFpu1, fFN_fWord, fFI_fWord, fFO_fWord, tD_fWord, tA_fWord, tB_fWord, BitVec.ofNat_eq_ofNat, BitVec.toNat_ofNat]

theorem fsin (fi fo : Bool) (d a : Reg) : Statement (.fsin fi fo d a) := by
  intro w h
  obtain rfl := Option.some.inj h
  simp only [readWord, majOf_fWord, readFpu1, fFN_fWord, fFI_fWord, fFO_fWord, tD_fWord, tA_fWord, tB_fWord, BitVec.ofNat_eq_ofNat, BitVec.toNat_ofNat]

theorem fcos (fi fo : Bool) (d a : Reg) : Statement (.fcos fi fo d a) := by
  intro w h
  obtain rfl := Option.some.inj h
  simp only [readWord, majOf_fWord, readFpu1, fFN_fWord, fFI_fWord, fFO_fWord, tD_fWord, tA_fWord, tB_fWord, BitVec.ofNat_eq_ofNat, BitVec.toNat_ofNat]

theorem fcmp (c : FpCond) (m : Combine) (fi : Bool) (p : BitVec 3) (a b : Reg) : Statement (.fcmp c m fi p a b) := by
  intro w h
  obtain rfl := Option.some.inj h
  simp only [readWord, majOf_fWord, fFN_fWord, fFI_fWord, fFO_fWord, tD_fWord, tA_fWord, tB_fWord, fcond_read, low3_cmpField, combine_cmpField, Option.map_some, Option.bind_some, BitVec.ofNat_eq_ofNat, BitVec.toNat_ofNat]

theorem paddH (fi fo : Bool) (d a b : Reg) : Statement (.paddH fi fo d a b) := by
  intro w h
  obtain rfl := Option.some.inj h
  simp only [readWord, majOf_fWord, readHp2, fFN_fWord, fFI_fWord, fFO_fWord, tD_fWord, tA_fWord, tB_fWord, BitVec.ofNat_eq_ofNat, BitVec.toNat_ofNat]

theorem pmulH (fi fo : Bool) (d a b : Reg) : Statement (.pmulH fi fo d a b) := by
  intro w h
  obtain rfl := Option.some.inj h
  simp only [readWord, majOf_fWord, readHp2, fFN_fWord, fFI_fWord, fFO_fWord, tD_fWord, tA_fWord, tB_fWord, BitVec.ofNat_eq_ofNat, BitVec.toNat_ofNat]

theorem pfmaH (fi fo : Bool) (d a b : Reg) : Statement (.pfmaH fi fo d a b) := by
  intro w h
  obtain rfl := Option.some.inj h
  simp only [readWord, majOf_fWord, readHp2, fFN_fWord, fFI_fWord, fFO_fWord, tD_fWord, tA_fWord, tB_fWord, BitVec.ofNat_eq_ofNat, BitVec.toNat_ofNat]

theorem paddB (fi fo : Bool) (d a b : Reg) : Statement (.paddB fi fo d a b) := by
  intro w h
  obtain rfl := Option.some.inj h
  simp only [readWord, majOf_fWord, readHp2, fFN_fWord, fFI_fWord, fFO_fWord, tD_fWord, tA_fWord, tB_fWord, BitVec.ofNat_eq_ofNat, BitVec.toNat_ofNat]

theorem pmulB (fi fo : Bool) (d a b : Reg) : Statement (.pmulB fi fo d a b) := by
  intro w h
  obtain rfl := Option.some.inj h
  simp only [readWord, majOf_fWord, readHp2, fFN_fWord, fFI_fWord, fFO_fWord, tD_fWord, tA_fWord, tB_fWord, BitVec.ofNat_eq_ofNat, BitVec.toNat_ofNat]

theorem pfmaB (fi fo : Bool) (d a b : Reg) : Statement (.pfmaB fi fo d a b) := by
  intro w h
  obtain rfl := Option.some.inj h
  simp only [readWord, majOf_fWord, readHp2, fFN_fWord, fFI_fWord, fFO_fWord, tD_fWord, tA_fWord, tB_fWord, BitVec.ofNat_eq_ofNat, BitVec.toNat_ofNat]

theorem pmaxH (fi fo : Bool) (d a b : Reg) : Statement (.pmaxH fi fo d a b) := by
  intro w h
  obtain rfl := Option.some.inj h
  simp only [readWord, majOf_fWord, readHp2, fFN_fWord, fFI_fWord, fFO_fWord, tD_fWord, tA_fWord, tB_fWord, BitVec.ofNat_eq_ofNat, BitVec.toNat_ofNat]

theorem pmaxB (fi fo : Bool) (d a b : Reg) : Statement (.pmaxB fi fo d a b) := by
  intro w h
  obtain rfl := Option.some.inj h
  simp only [readWord, majOf_fWord, readHp2, fFN_fWord, fFI_fWord, fFO_fWord, tD_fWord, tA_fWord, tB_fWord, BitVec.ofNat_eq_ofNat, BitVec.toNat_ofNat]

theorem dadd (fi fo : Bool) (d a b : Reg) : Statement (.dadd fi fo d a b) := by
  intro w h
  obtain rfl := Option.some.inj h
  simp only [readWord, majOf_fWord, readDpa, fFN_fWord, fFI_fWord, fFO_fWord, tD_fWord, tA_fWord, tB_fWord, BitVec.ofNat_eq_ofNat, BitVec.toNat_ofNat]

theorem dsub (fi fo : Bool) (d a b : Reg) : Statement (.dsub fi fo d a b) := by
  intro w h
  obtain rfl := Option.some.inj h
  simp only [readWord, majOf_fWord, readDpa, fFN_fWord, fFI_fWord, fFO_fWord, tD_fWord, tA_fWord, tB_fWord, BitVec.ofNat_eq_ofNat, BitVec.toNat_ofNat]

theorem dmul (fi fo : Bool) (d a b : Reg) : Statement (.dmul fi fo d a b) := by
  intro w h
  obtain rfl := Option.some.inj h
  simp only [readWord, majOf_fWord, readDpa, fFN_fWord, fFI_fWord, fFO_fWord, tD_fWord, tA_fWord, tB_fWord, BitVec.ofNat_eq_ofNat, BitVec.toNat_ofNat]

theorem dfma (fi fo : Bool) (d a b : Reg) : Statement (.dfma fi fo d a b) := by
  intro w h
  obtain rfl := Option.some.inj h
  simp only [readWord, majOf_fWord, readDpa, fFN_fWord, fFI_fWord, fFO_fWord, tD_fWord, tA_fWord, tB_fWord, BitVec.ofNat_eq_ofNat, BitVec.toNat_ofNat]

theorem dmin (fi fo : Bool) (d a b : Reg) : Statement (.dmin fi fo d a b) := by
  intro w h
  obtain rfl := Option.some.inj h
  simp only [readWord, majOf_fWord, readDpa, fFN_fWord, fFI_fWord, fFO_fWord, tD_fWord, tA_fWord, tB_fWord, BitVec.ofNat_eq_ofNat, BitVec.toNat_ofNat]

theorem dmax (fi fo : Bool) (d a b : Reg) : Statement (.dmax fi fo d a b) := by
  intro w h
  obtain rfl := Option.some.inj h
  simp only [readWord, majOf_fWord, readDpa, fFN_fWord, fFI_fWord, fFO_fWord, tD_fWord, tA_fWord, tB_fWord, BitVec.ofNat_eq_ofNat, BitVec.toNat_ofNat]

theorem dcmp (c : FpCond) (m : Combine) (fi : Bool) (p : BitVec 3) (a b : Reg) : Statement (.dcmp c m fi p a b) := by
  intro w h
  obtain rfl := Option.some.inj h
  simp only [readWord, majOf_fWord, fFN_fWord, fFI_fWord, fFO_fWord, tD_fWord, tA_fWord, tB_fWord, fcond_read, low3_cmpField, combine_cmpField, Option.map_some, Option.bind_some, BitVec.ofNat_eq_ofNat, BitVec.toNat_ofNat]

theorem cvt (c : CvtCode) (d a b : Reg) : Statement (.cvt c d a b) := by
  intro w h
  obtain rfl := Option.some.inj h
  simp only [readWord, majOf_tWord, tFN_tWord, tD_tWord, tA_tWord, tB_tWord, cvt_read, Option.map_some, Option.bind_some, BitVec.ofNat_eq_ofNat, BitVec.toNat_ofNat]

theorem pack8E4m3 (d a b : Reg) : Statement (.pack8E4m3 d a b) := by
  intro w h
  obtain rfl := Option.some.inj h
  simp only [readWord, majOf_tWord, readNarrow, tFN_tWord, tD_tWord, tA_tWord, tB_tWord, BitVec.ofNat_eq_ofNat, BitVec.toNat_ofNat]

theorem pack8E5m2 (d a b : Reg) : Statement (.pack8E5m2 d a b) := by
  intro w h
  obtain rfl := Option.some.inj h
  simp only [readWord, majOf_tWord, readNarrow, tFN_tWord, tD_tWord, tA_tWord, tB_tWord, BitVec.ofNat_eq_ofNat, BitVec.toNat_ofNat]

theorem unpk8E4m3 (d a : Reg) : Statement (.unpk8E4m3 d a) := by
  intro w h
  obtain rfl := Option.some.inj h
  simp only [readWord, majOf_tWord, readNarrow, tFN_tWord, tD_tWord, tA_tWord, tB_tWord, BitVec.ofNat_eq_ofNat, BitVec.toNat_ofNat]

theorem unpk8E5m2 (d a : Reg) : Statement (.unpk8E5m2 d a) := by
  intro w h
  obtain rfl := Option.some.inj h
  simp only [readWord, majOf_tWord, readNarrow, tFN_tWord, tD_tWord, tA_tWord, tB_tWord, BitVec.ofNat_eq_ofNat, BitVec.toNat_ofNat]

theorem pack4 (d a b : Reg) : Statement (.pack4 d a b) := by
  intro w h
  obtain rfl := Option.some.inj h
  simp only [readWord, majOf_tWord, readNarrow, tFN_tWord, tD_tWord, tA_tWord, tB_tWord, BitVec.ofNat_eq_ofNat, BitVec.toNat_ofNat]

theorem unpk4 (d a b : Reg) : Statement (.unpk4 d a b) := by
  intro w h
  obtain rfl := Option.some.inj h
  simp only [readWord, majOf_tWord, readNarrow, tFN_tWord, tD_tWord, tA_tWord, tB_tWord, BitVec.ofNat_eq_ofNat, BitVec.toNat_ofNat]

theorem resenc (d a : Reg) : Statement (.resenc d a) := by
  intro w h
  obtain rfl := Option.some.inj h
  simp only [readWord, majOf_tWord, readNarrow, tFN_tWord, tD_tWord, tA_tWord, tB_tWord, BitVec.ofNat_eq_ofNat, BitVec.toNat_ofNat]

theorem resdec (d a : Reg) : Statement (.resdec d a) := by
  intro w h
  obtain rfl := Option.some.inj h
  simp only [readWord, majOf_tWord, readNarrow, tFN_tWord, tD_tWord, tA_tWord, tB_tWord, BitVec.ofNat_eq_ofNat, BitVec.toNat_ofNat]

theorem scale8 (d a b : Reg) : Statement (.scale8 d a b) := by
  intro w h
  obtain rfl := Option.some.inj h
  simp only [readWord, majOf_tWord, readNarrow, tFN_tWord, tD_tWord, tA_tWord, tB_tWord, BitVec.ofNat_eq_ofNat, BitVec.toNat_ofNat]

theorem ldg (l : BitVec 4) (sz : Size) (d a : Reg) (off : BitVec 6) : Statement (.ldg l sz d a off) := by
  intro w h
  obtain rfl := Option.some.inj h
  simp only [readWord, majOf_mWord, mL_mWord, mSZ_mWord, mD_mWord, mA_mWord, mOff_mWord, size_read, Option.map_some, Option.bind_some, BitVec.ofNat_eq_ofNat, BitVec.toNat_ofNat]

theorem ldgn (l : BitVec 4) (sz : Size) (d a : Reg) (off : BitVec 6) : Statement (.ldgn l sz d a off) := by
  intro w h
  obtain rfl := Option.some.inj h
  simp only [readWord, majOf_mWord, mL_mWord, mSZ_mWord, mD_mWord, mA_mWord, mOff_mWord, size_read, Option.map_some, Option.bind_some, BitVec.ofNat_eq_ofNat, BitVec.toNat_ofNat]

theorem ldgb (l : BitVec 4) (sz : SubLoad) (d a : Reg) (off : BitVec 6) : Statement (.ldgb l sz d a off) := by
  intro w h
  obtain rfl := Option.some.inj h
  simp only [readWord, majOf_mWord, mL_mWord, mSZ_mWord, mD_mWord, mA_mWord, mOff_mWord, subload_read, Option.map_some, Option.bind_some, BitVec.ofNat_eq_ofNat, BitVec.toNat_ofNat]

theorem lds (l : BitVec 4) (sz : Size) (d a : Reg) (off : BitVec 6) : Statement (.lds l sz d a off) := by
  intro w h
  obtain rfl := Option.some.inj h
  simp only [readWord, majOf_mWord, mL_mWord, mSZ_mWord, mD_mWord, mA_mWord, mOff_mWord, size_read, Option.map_some, Option.bind_some, BitVec.ofNat_eq_ofNat, BitVec.toNat_ofNat]

theorem stg (streaming : Bool) (sz : Size) (d a : Reg) (off : BitVec 6) : Statement (.stg streaming sz d a off) := by
  intro w h
  obtain rfl := Option.some.inj h
  simp only [readWord, majOf_mWord, mL_mWord, mSZ_mWord, mD_mWord, mA_mWord, mOff_mWord, size_read, stream_bit, Option.map_some, Option.bind_some, BitVec.ofNat_eq_ofNat, BitVec.toNat_ofNat]

theorem stgb (streaming : Bool) (sz : SubStore) (d a : Reg) (off : BitVec 6) : Statement (.stgb streaming sz d a off) := by
  intro w h
  obtain rfl := Option.some.inj h
  simp only [readWord, majOf_mWord, mL_mWord, mSZ_mWord, mD_mWord, mA_mWord, mOff_mWord, substore_read, stream_bit, Option.map_some, Option.bind_some, BitVec.ofNat_eq_ofNat, BitVec.toNat_ofNat]

theorem sts (sz : Size) (d a : Reg) (off : BitVec 6) : Statement (.sts sz d a off) := by
  intro w h
  obtain rfl := Option.some.inj h
  simp only [readWord, majOf_mWord, mL_mWord, mSZ_mWord, mD_mWord, mA_mWord, mOff_mWord, size_read, Option.map_some, Option.bind_some, BitVec.ofNat_eq_ofNat, BitVec.toNat_ofNat]

theorem ldk (l : BitVec 4) (sz : Size) (d a : Reg) (off : BitVec 6) : Statement (.ldk l sz d a off) := by
  intro w h
  obtain rfl := Option.some.inj h
  simp only [readWord, majOf_mWord, mL_mWord, mSZ_mWord, mD_mWord, mA_mWord, mOff_mWord, size_read, Option.map_some, Option.bind_some, BitVec.ofNat_eq_ofNat, BitVec.toNat_ofNat]

theorem oclaim (l : BitVec 4) (a b : Reg) : Statement (.oclaim l a b) := by
  intro w h
  obtain rfl := Option.some.inj h
  simp only [readWord, majOf_cWord, readOwn, cFN_cWord, cL_cWord, cCH_cWord, tA_cWord, tB_cWord, BitVec.ofNat_eq_ofNat, BitVec.toNat_ofNat]

theorem omove (l : BitVec 4) (a b : Reg) : Statement (.omove l a b) := by
  intro w h
  obtain rfl := Option.some.inj h
  simp only [readWord, majOf_cWord, readOwn, cFN_cWord, cL_cWord, cCH_cWord, tA_cWord, tB_cWord, BitVec.ofNat_eq_ofNat, BitVec.toNat_ofNat]

theorem orels (l : BitVec 4) (a : Reg) : Statement (.orels l a) := by
  intro w h
  obtain rfl := Option.some.inj h
  simp only [readWord, majOf_cWord, readOwn, cFN_cWord, cL_cWord, cCH_cWord, tA_cWord, tB_cWord, BitVec.ofNat_eq_ofNat, BitVec.toNat_ofNat]

theorem pref (l : BitVec 4) (a b : Reg) : Statement (.pref l a b) := by
  intro w h
  obtain rfl := Option.some.inj h
  simp only [readWord, majOf_cWord, readOwn, cFN_cWord, cL_cWord, cCH_cWord, tA_cWord, tB_cWord, BitVec.ofNat_eq_ofNat, BitVec.toNat_ofNat]

theorem fenceAcq (l : BitVec 4) (sc : Scope) : Statement (.fenceAcq l sc) := by
  intro w h
  obtain rfl := Option.some.inj h
  simp only [readWord, majOf_cWord, readFence, cFN_cWord, cL_cWord, cCH_cWord, tA_cWord, tB_cWord, scope_read, Option.map_some, Option.bind_some, BitVec.ofNat_eq_ofNat, BitVec.toNat_ofNat]

theorem fenceRel (l : BitVec 4) (sc : Scope) : Statement (.fenceRel l sc) := by
  intro w h
  obtain rfl := Option.some.inj h
  simp only [readWord, majOf_cWord, readFence, cFN_cWord, cL_cWord, cCH_cWord, tA_cWord, tB_cWord, scope_read, Option.map_some, Option.bind_some, BitVec.ofNat_eq_ofNat, BitVec.toNat_ofNat]

theorem fenceAr (l : BitVec 4) (sc : Scope) : Statement (.fenceAr l sc) := by
  intro w h
  obtain rfl := Option.some.inj h
  simp only [readWord, majOf_cWord, readFence, cFN_cWord, cL_cWord, cCH_cWord, tA_cWord, tB_cWord, scope_read, Option.map_some, Option.bind_some, BitVec.ofNat_eq_ofNat, BitVec.toNat_ofNat]

theorem hinit (l : BitVec 4) (a b : Reg) : Statement (.hinit l a b) := by
  intro w h
  obtain rfl := Option.some.inj h
  simp only [readWord, majOf_cWord, readHrd, cFN_cWord, cL_cWord, cCH_cWord, tA_cWord, tB_cWord, BitVec.ofNat_eq_ofNat, BitVec.toNat_ofNat]

theorem arriveRel (l : BitVec 4) (sc : Scope) (a b : Reg) : Statement (.arriveRel l sc a b) := by
  intro w h
  obtain rfl := Option.some.inj h
  simp only [readWord, majOf_cWord, readHrd, cFN_cWord, cL_cWord, cCH_cWord, tA_cWord, tB_cWord, scope_read, Option.map_some, Option.bind_some, BitVec.ofNat_eq_ofNat, BitVec.toNat_ofNat]

theorem arriveRlx (l : BitVec 4) (a b : Reg) : Statement (.arriveRlx l a b) := by
  intro w h
  obtain rfl := Option.some.inj h
  simp only [readWord, majOf_cWord, readHrd, cFN_cWord, cL_cWord, cCH_cWord, tA_cWord, tB_cWord, BitVec.ofNat_eq_ofNat, BitVec.toNat_ofNat]

theorem expect (l : BitVec 4) (a b : Reg) : Statement (.expect l a b) := by
  intro w h
  obtain rfl := Option.some.inj h
  simp only [readWord, majOf_cWord, readHrd, cFN_cWord, cL_cWord, cCH_cWord, tA_cWord, tB_cWord, BitVec.ofNat_eq_ofNat, BitVec.toNat_ofNat]

theorem waitp (d a b : Reg) : Statement (.waitp d a b) := by
  intro w h
  obtain rfl := Option.some.inj h
  simp only [readWord, majOf_tWord, readWait, tFN_tWord, tD_tWord, tA_tWord, tB_tWord, BitVec.ofNat_eq_ofNat, BitVec.toNat_ofNat]

theorem htest (d a : Reg) : Statement (.htest d a) := by
  intro w h
  obtain rfl := Option.some.inj h
  simp only [readWord, majOf_tWord, readWait, tFN_tWord, tD_tWord, tA_tWord, tB_tWord, BitVec.ofNat_eq_ofNat, BitVec.toNat_ofNat]

theorem qwait (a b : Reg) : Statement (.qwait a b) := by
  intro w h
  obtain rfl := Option.some.inj h
  simp only [readWord, majOf_tWord, readWait, tFN_tWord, tD_tWord, tA_tWord, tB_tWord, BitVec.ofNat_eq_ofNat, BitVec.toNat_ofNat]

theorem wake (d a b : Reg) : Statement (.wake d a b) := by
  intro w h
  obtain rfl := Option.some.inj h
  simp only [readWord, majOf_tWord, readWait, tFN_tWord, tD_tWord, tA_tWord, tB_tWord, BitVec.ofNat_eq_ofNat, BitVec.toNat_ofNat]

theorem atom (op : AtomOp) (l : BitVec 4) (w : AtomWidth) (d a : Reg) : Statement (.atom op l w d a) := by
  intro w h
  obtain rfl := Option.some.inj h
  simp only [readWord, majOf_aWord, tFN_aWord, aL_aWord, aW_aWord, aD_aWord, tB_aWord, atomOp_read, atomWidth_read, Option.map_some, Option.bind_some, BitVec.ofNat_eq_ofNat, BitVec.toNat_ofNat]

theorem red (op : AtomOp) (w : AtomWidth) (d a : Reg) : Statement (.red op w d a) := by
  intro w h
  obtain rfl := Option.some.inj h
  simp only [readWord, majOf_aWord, tFN_aWord, aL_aWord, aW_aWord, aD_aWord, tB_aWord, atomOp_read, atomWidth_read, Option.map_some, Option.bind_some, BitVec.ofNat_eq_ofNat, BitVec.toNat_ofNat]

theorem rst (ch : BitVec 4) (sz : Size) (d a : Reg) (off : BitVec 6) : Statement (.rst ch sz d a off) := by
  intro w h
  obtain rfl := Option.some.inj h
  simp only [readWord, majOf_mWord, mL_mWord, mSZ_mWord, mD_mWord, mA_mWord, mOff_mWord, size_read, Option.map_some, Option.bind_some, BitVec.ofNat_eq_ofNat, BitVec.toNat_ofNat]

theorem ratom (op : RatomOp) (l : BitVec 4) (ch : BitVec 4) (d a : Reg) : Statement (.ratom op l ch d a) := by
  intro w h
  obtain rfl := Option.some.inj h
  simp only [readWord, majOf_a2Word, cFN_a2Word, cL_a2Word, cCH_a2Word, aD_a2Word, tB_a2Word, ratom_read, Option.map_some, Option.bind_some, BitVec.ofNat_eq_ofNat, BitVec.toNat_ofNat]

theorem rcpy (l : BitVec 4) (ch : BitVec 4) (a b : Reg) : Statement (.rcpy l ch a b) := by
  intro w h
  obtain rfl := Option.some.inj h
  simp only [readWord, majOf_cWord, readRmote, cFN_cWord, cL_cWord, cCH_cWord, tA_cWord, tB_cWord, BitVec.ofNat_eq_ofNat, BitVec.toNat_ofNat]

theorem rmc (l : BitVec 4) (ch : BitVec 4) (a b : Reg) : Statement (.rmc l ch a b) := by
  intro w h
  obtain rfl := Option.some.inj h
  simp only [readWord, majOf_cWord, readRmote, cFN_cWord, cL_cWord, cCH_cWord, tA_cWord, tB_cWord, BitVec.ofNat_eq_ofNat, BitVec.toNat_ofNat]

theorem rred (l : BitVec 4) (ch : BitVec 4) (a b : Reg) : Statement (.rred l ch a b) := by
  intro w h
  obtain rfl := Option.some.inj h
  simp only [readWord, majOf_cWord, readRmote, cFN_cWord, cL_cWord, cCH_cWord, tA_cWord, tB_cWord, BitVec.ofNat_eq_ofNat, BitVec.toNat_ofNat]

theorem join (t s : BitVec 4) : Statement (.join t s) := by
  intro w h
  obtain rfl := Option.some.inj h
  simp only [readWord, majOf_cWord, readChan, cFN_cWord, cL_cWord, cCH_cWord, tA_cWord, tB_cWord, src_field, Option.map_some, Option.bind_some, BitVec.ofNat_eq_ofNat, BitVec.toNat_ofNat]

theorem drain (l : BitVec 4) (ch : BitVec 4) (a : Reg) : Statement (.drain l ch a) := by
  intro w h
  obtain rfl := Option.some.inj h
  simp only [readWord, majOf_cWord, readChan, cFN_cWord, cL_cWord, cCH_cWord, tA_cWord, tB_cWord, BitVec.ofNat_eq_ofNat, BitVec.toNat_ofNat]

theorem cpy (l : BitVec 4) (ch : BitVec 4) (a b : Reg) : Statement (.cpy l ch a b) := by
  intro w h
  obtain rfl := Option.some.inj h
  simp only [readWord, majOf_cWord, readCopy, cFN_cWord, cL_cWord, cCH_cWord, tA_cWord, tB_cWord, BitVec.ofNat_eq_ofNat, BitVec.toNat_ofNat]

theorem cpyg (l : BitVec 4) (ch : BitVec 4) (a b : Reg) : Statement (.cpyg l ch a b) := by
  intro w h
  obtain rfl := Option.some.inj h
  simp only [readWord, majOf_cWord, readCopy, cFN_cWord, cL_cWord, cCH_cWord, tA_cWord, tB_cWord, BitVec.ofNat_eq_ofNat, BitVec.toNat_ofNat]

theorem cpys (l : BitVec 4) (ch : BitVec 4) (a b : Reg) : Statement (.cpys l ch a b) := by
  intro w h
  obtain rfl := Option.some.inj h
  simp only [readWord, majOf_cWord, readCopy, cFN_cWord, cL_cWord, cCH_cWord, tA_cWord, tB_cWord, BitVec.ofNat_eq_ofNat, BitVec.toNat_ofNat]

theorem cpyf (l : BitVec 4) (ch : BitVec 4) (a b : Reg) : Statement (.cpyf l ch a b) := by
  intro w h
  obtain rfl := Option.some.inj h
  simp only [readWord, majOf_cWord, readCopy, cFN_cWord, cL_cWord, cCH_cWord, tA_cWord, tB_cWord, BitVec.ofNat_eq_ofNat, BitVec.toNat_ofNat]

theorem obres (l : BitVec 4) (a : Reg) : Statement (.obres l a) := by
  intro w h
  obtain rfl := Option.some.inj h
  simp only [readWord, majOf_cWord, readObuf, cFN_cWord, cL_cWord, cCH_cWord, tA_cWord, tB_cWord, BitVec.ofNat_eq_ofNat, BitVec.toNat_ofNat]

theorem obrel (l : BitVec 4) (a : Reg) : Statement (.obrel l a) := by
  intro w h
  obtain rfl := Option.some.inj h
  simp only [readWord, majOf_cWord, readObuf, cFN_cWord, cL_cWord, cCH_cWord, tA_cWord, tB_cWord, BitVec.ofNat_eq_ofNat, BitVec.toNat_ofNat]

theorem accclr (l : BitVec 4) (a : Reg) : Statement (.accclr l a) := by
  intro w h
  obtain rfl := Option.some.inj h
  simp only [readWord, majOf_cWord, readObuf, cFN_cWord, cL_cWord, cCH_cWord, tA_cWord, tB_cWord, BitVec.ofNat_eq_ofNat, BitVec.toNat_ofNat]

theorem accrd (l : BitVec 4) (ch : BitVec 4) (a b : Reg) : Statement (.accrd l ch a b) := by
  intro w h
  obtain rfl := Option.some.inj h
  simp only [readWord, majOf_cWord, readObuf, cFN_cWord, cL_cWord, cCH_cWord, tA_cWord, tB_cWord, BitVec.ofNat_eq_ofNat, BitVec.toNat_ofNat]

theorem mma (l : BitVec 4) (a : Reg) : Statement (.mma l a) := by
  intro w h
  obtain rfl := Option.some.inj h
  simp only [readWord, majOf_cWord, readMma, cFN_cWord, cL_cWord, cCH_cWord, tA_cWord, tB_cWord, BitVec.ofNat_eq_ofNat, BitVec.toNat_ofNat]

theorem rbind (l : BitVec 4) (a b : Reg) : Statement (.rbind l a b) := by
  intro w h
  obtain rfl := Option.some.inj h
  simp only [readWord, majOf_cWord, readRagg, cFN_cWord, cL_cWord, cCH_cWord, tA_cWord, tB_cWord, BitVec.ofNat_eq_ofNat, BitVec.toNat_ofNat]

theorem runbind (l : BitVec 4) (a : Reg) : Statement (.runbind l a) := by
  intro w h
  obtain rfl := Option.some.inj h
  simp only [readWord, majOf_cWord, readRagg, cFN_cWord, cL_cWord, cCH_cWord, tA_cWord, tB_cWord, BitVec.ofNat_eq_ofNat, BitVec.toNat_ofNat]

theorem rgld (l : BitVec 4) (ch : BitVec 4) (a b : Reg) : Statement (.rgld l ch a b) := by
  intro w h
  obtain rfl := Option.some.inj h
  simp only [readWord, majOf_cWord, readRagg, cFN_cWord, cL_cWord, cCH_cWord, tA_cWord, tB_cWord, BitVec.ofNat_eq_ofNat, BitVec.toNat_ofNat]

theorem segred (l : BitVec 4) (ch : BitVec 4) (a b : Reg) : Statement (.segred l ch a b) := by
  intro w h
  obtain rfl := Option.some.inj h
  simp only [readWord, majOf_cWord, readRagg, cFN_cWord, cL_cWord, cCH_cWord, tA_cWord, tB_cWord, BitVec.ofNat_eq_ofNat, BitVec.toNat_ofNat]

theorem segnorm (l : BitVec 4) (ch : BitVec 4) (a b : Reg) : Statement (.segnorm l ch a b) := by
  intro w h
  obtain rfl := Option.some.inj h
  simp only [readWord, majOf_cWord, readRagg, cFN_cWord, cL_cWord, cCH_cWord, tA_cWord, tB_cWord, BitVec.ofNat_eq_ofNat, BitVec.toNat_ofNat]

theorem segscan (l : BitVec 4) (ch : BitVec 4) (a b : Reg) : Statement (.segscan l ch a b) := by
  intro w h
  obtain rfl := Option.some.inj h
  simp only [readWord, majOf_cWord, readRagg, cFN_cWord, cL_cWord, cCH_cWord, tA_cWord, tB_cWord, BitVec.ofNat_eq_ofNat, BitVec.toNat_ofNat]

theorem walk (a : Reg) : Statement (.walk a) := by
  intro w h
  obtain rfl := Option.some.inj h
  simp only [readWord, majOf_tWord, readWalker, tFN_tWord, tD_tWord, tA_tWord, tB_tWord, BitVec.ofNat_eq_ofNat, BitVec.toNat_ofNat]

theorem wnext (d a : Reg) : Statement (.wnext d a) := by
  intro w h
  obtain rfl := Option.some.inj h
  simp only [readWord, majOf_tWord, readWalker, tFN_tWord, tD_tWord, tA_tWord, tB_tWord, BitVec.ofNat_eq_ofNat, BitVec.toNat_ofNat]

theorem wred (a b : Reg) : Statement (.wred a b) := by
  intro w h
  obtain rfl := Option.some.inj h
  simp only [readWord, majOf_tWord, readWalker, tFN_tWord, tD_tWord, tA_tWord, tB_tWord, BitVec.ofNat_eq_ofNat, BitVec.toNat_ofNat]

theorem wend (a b : Reg) : Statement (.wend a b) := by
  intro w h
  obtain rfl := Option.some.inj h
  simp only [readWord, majOf_tWord, readWalker, tFN_tWord, tD_tWord, tA_tWord, tB_tWord, BitVec.ofNat_eq_ofNat, BitVec.toNat_ofNat]

theorem route (l : BitVec 4) (ch : BitVec 4) (a b : Reg) : Statement (.route l ch a b) := by
  intro w h
  obtain rfl := Option.some.inj h
  simp only [readWord, majOf_cWord, readRelay, cFN_cWord, cL_cWord, cCH_cWord, tA_cWord, tB_cWord, BitVec.ofNat_eq_ofNat, BitVec.toNat_ofNat]

theorem rret (l : BitVec 4) (ch : BitVec 4) (a b : Reg) : Statement (.rret l ch a b) := by
  intro w h
  obtain rfl := Option.some.inj h
  simp only [readWord, majOf_cWord, readRelay, cFN_cWord, cL_cWord, cCH_cWord, tA_cWord, tB_cWord, BitVec.ofNat_eq_ofNat, BitVec.toNat_ofNat]

theorem epdef (l : BitVec 4) (a : Reg) : Statement (.epdef l a) := by
  intro w h
  obtain rfl := Option.some.inj h
  simp only [readWord, majOf_cWord, readRelay, cFN_cWord, cL_cWord, cCH_cWord, tA_cWord, tB_cWord, BitVec.ofNat_eq_ofNat, BitVec.toNat_ofNat]

theorem rasm (l : BitVec 4) (a : Reg) : Statement (.rasm l a) := by
  intro w h
  obtain rfl := Option.some.inj h
  simp only [readWord, majOf_cWord, readRelay, cFN_cWord, cL_cWord, cCH_cWord, tA_cWord, tB_cWord, BitVec.ofNat_eq_ofNat, BitVec.toNat_ofNat]

theorem fuseLoad (ok : Bool) (detail : BitVec 10) : Statement (.fuseLoad ok detail) := by
  intro w h
  cases h

theorem powerRamp (ok : Bool) (detail : BitVec 10) : Statement (.powerRamp ok detail) := by
  intro w h
  cases h

theorem switchTrain (n : Nat) (ok : Bool) (detail : BitVec 10) : Statement (.switchTrain n ok detail) := by
  intro w h
  cases h

theorem towerTrain (n : Nat) (ok : Bool) (detail : BitVec 10) : Statement (.towerTrain n ok detail) := by
  intro w h
  cases h

theorem dieTest (n : Nat) (ok : Bool) (detail : BitVec 10) : Statement (.dieTest n ok detail) := by
  intro w h
  cases h

theorem bondTest (n : Nat) (ok : Bool) (detail : BitVec 10) : Statement (.bondTest n ok detail) := by
  intro w h
  cases h

theorem hostLink (ok : Bool) (detail : BitVec 10) (rate : Nat) : Statement (.hostLink ok detail rate) := by
  intro w h
  cases h

theorem vilcorTrain (n : Nat) (ok : Bool) (detail : BitVec 10) : Statement (.vilcorTrain n ok detail) := by
  intro w h
  cases h

theorem fwLoad (ok : Bool) (detail : BitVec 10) (img : Image) : Statement (.fwLoad ok detail img) := by
  intro w h
  cases h

theorem recoveryLinkRetry (partner : LinkPartner) : Statement (.recoveryLinkRetry partner) := by
  intro w h
  cases h

theorem powerWindow (milliwatts : Nat) : Statement (.powerWindow milliwatts) := by
  intro w h
  cases h

theorem getAttest (nonce : BitVec 256) : Statement (.getAttest nonce) := by
  intro w h
  cases h

theorem imageLoad (img : Image) : Statement (.imageLoad img) := by
  intro w h
  cases h

theorem mailboxUnknownCommand (code : Nat) : Statement (.mailboxUnknownCommand code) := by
  intro w h
  cases h

theorem qbaseWrite (q : Nat) (v : W64) : Statement (.qbaseWrite q v) := by
  intro w h
  cases h

theorem qsizeWrite (q : Nat) (v : W32) : Statement (.qsizeWrite q v) := by
  intro w h
  cases h

theorem tailWrite (q : Nat) (v : W32) : Statement (.tailWrite q v) := by
  intro w h
  cases h

theorem qstatusW1c (q : Nat) (v : W32) : Statement (.qstatusW1c q v) := by
  intro w h
  cases h

theorem registerWrite (q : Nat) (v : W32) : Statement (.registerWrite q v) := by
  intro w h
  cases h

theorem kick (q : Nat) (v : W64) (wide : Bool) : Statement (.kick q v wide) := by
  intro w h
  cases h

theorem teamPlace (grid : Nat) (cores : List Nat) : Statement (.teamPlace grid cores) := by
  intro w h
  cases h

theorem carveChange (core code : Nat) : Statement (.carveChange core code) := by
  intro w h
  cases h

theorem teamResume (grid : Nat) (cores : List (Nat × Nat)) : Statement (.teamResume grid cores) := by
  intro w h
  cases h

theorem preciseStopEnd (t : TRef) : Statement (.preciseStopEnd t) := by
  intro w h
  cases h

theorem trapEntry (t : TRef) : Statement (.trapEntry t) := by
  intro w h
  cases h

theorem mmaPassEnd (cluster : Nat) (softError : Option Nat) : Statement (.mmaPassEnd cluster softError) := by
  intro w h
  cases h

theorem waitpTimeout (t : TRef) : Statement (.waitpTimeout t) := by
  intro w h
  cases h

theorem channelPacketArrive (a : Arrival) : Statement (.channelPacketArrive a) := by
  intro w h
  cases h

theorem ackSend (e : EntryId) : Statement (.ackSend e) := by
  intro w h
  cases h

theorem ackReceive (a : Arrival) : Statement (.ackReceive a) := by
  intro w h
  cases h

theorem nackReceive (a : Arrival) : Statement (.nackReceive a) := by
  intro w h
  cases h

theorem nackReplay (e : EntryId) (seq : BitVec 32) : Statement (.nackReplay e seq) := by
  intro w h
  cases h

theorem arspReceive (a : Arrival) : Statement (.arspReceive a) := by
  intro w h
  cases h

theorem violReceive (a : Arrival) : Statement (.violReceive a) := by
  intro w h
  cases h

theorem channelGapTimeout (e : EntryId) : Statement (.channelGapTimeout e) := by
  intro w h
  cases h

theorem syncReqRetry (e : EntryId) : Statement (.syncReqRetry e) := by
  intro w h
  cases h

theorem syncReqReceive (a : Arrival) : Statement (.syncReqReceive a) := by
  intro w h
  cases h

theorem syncAckReceive (a : Arrival) : Statement (.syncAckReceive a) := by
  intro w h
  cases h

theorem closeReceive (a : Arrival) : Statement (.closeReceive a) := by
  intro w h
  cases h

theorem noPathReport (d : DieId) : Statement (.noPathReport d) := by
  intro w h
  cases h

theorem linkDown (port : Nat) (lost : List Nat) : Statement (.linkDown port lost) := by
  intro w h
  cases h

theorem rredContributionArrive (ext : Option Contribution) : Statement (.rredContributionArrive ext) := by
  intro w h
  cases h

theorem rmaRingConfigWrite (q : Nat) (r : RingReg) (v : W64) : Statement (.rmaRingConfigWrite q r v) := by
  intro w h
  cases h

theorem rmaTailWrite (q : Nat) (v : W32) : Statement (.rmaTailWrite q v) := by
  intro w h
  cases h

theorem rstatusW1c (q : Nat) (v : W32) : Statement (.rstatusW1c q v) := by
  intro w h
  cases h

theorem queueConfigWrite (q : DevQueue) (r : RingReg) (v : W64) : Statement (.queueConfigWrite q r v) := by
  intro w h
  cases h

theorem queueReadWrite (q : DevQueue) (v : W32) : Statement (.queueReadWrite q v) := by
  intro w h
  cases h

theorem atsInvalidation (page : Nat) (now : Option Nat) : Statement (.atsInvalidation page now) := by
  intro w h
  cases h

theorem hostMemAccess (addr : Nat) (write : Option (List Byte)) (len : Nat) : Statement (.hostMemAccess addr write len) := by
  intro w h
  cases h

theorem powerSample (die : Nat) (rails : List W32) : Statement (.powerSample die rails) := by
  intro w h
  cases h

theorem pathReturn (d : DieId) : Statement (.pathReturn d) := by
  intro w h
  cases h

theorem hostMemoryWrite (addr : Nat) (bytes : List Byte) : Statement (.hostMemoryWrite addr bytes) := by
  intro w h
  cases h

theorem deviceStart : Statement .deviceStart := by
  intro w h
  cases h

theorem romCheck : Statement .romCheck := by
  intro w h
  cases h

theorem serveFull : Statement .serveFull := by
  intro w h
  cases h

theorem getCaps : Statement .getCaps := by
  intro w h
  cases h

theorem getBringup : Statement .getBringup := by
  intro w h
  cases h

theorem clearBringup : Statement .clearBringup := by
  intro w h
  cases h

theorem reset : Statement .reset := by
  intro w h
  cases h

theorem loadCode : Statement .loadCode := by
  intro w h
  cases h

theorem unloadCode : Statement .unloadCode := by
  intro w h
  cases h

theorem uploadGraph : Statement .uploadGraph := by
  intro w h
  cases h

theorem releaseGraph : Statement .releaseGraph := by
  intro w h
  cases h

theorem ringLaunch : Statement .ringLaunch := by
  intro w h
  cases h

theorem waitValue : Statement .waitValue := by
  intro w h
  cases h

theorem waitValueSatisfied : Statement .waitValueSatisfied := by
  intro w h
  cases h

theorem writeValue : Statement .writeValue := by
  intro w h
  cases h

theorem ringEntryReserved : Statement .ringEntryReserved := by
  intro w h
  cases h

theorem graphInstanceStart : Statement .graphInstanceStart := by
  intro w h
  cases h

theorem edgeClean : Statement .edgeClean := by
  intro w h
  cases h

theorem graphNodeStart : Statement .graphNodeStart := by
  intro w h
  cases h

theorem graphInstanceComplete : Statement .graphInstanceComplete := by
  intro w h
  cases h

theorem gridSlotFreed : Statement .gridSlotFreed := by
  intro w h
  cases h

theorem teamEvict : Statement .teamEvict := by
  intro w h
  cases h

theorem heatDeadline : Statement .heatDeadline := by
  intro w h
  cases h

theorem starterPick : Statement .starterPick := by
  intro w h
  cases h

theorem faultRecordPost : Statement .faultRecordPost := by
  intro w h
  cases h

theorem killRecordPost : Statement .killRecordPost := by
  intro w h
  cases h

theorem loadDataReturn : Statement .loadDataReturn := by
  intro w h
  cases h

theorem atomicService : Statement .atomicService := by
  intro w h
  cases h

theorem atomicReturn : Statement .atomicReturn := by
  intro w h
  cases h

theorem writeThroughAck : Statement .writeThroughAck := by
  intro w h
  cases h

theorem engineOpStart : Statement .engineOpStart := by
  intro w h
  cases h

theorem copyBytesLand : Statement .copyBytesLand := by
  intro w h
  cases h

theorem mmaPass : Statement .mmaPass := by
  intro w h
  cases h

theorem accrdReadout : Statement .accrdReadout := by
  intro w h
  cases h

theorem relayRowArrive : Statement .relayRowArrive := by
  intro w h
  cases h

theorem relayDropNotice : Statement .relayDropNotice := by
  intro w h
  cases h

theorem relayReturnArrive : Statement .relayReturnArrive := by
  intro w h
  cases h

theorem reassemblyDeadline : Statement .reassemblyDeadline := by
  intro w h
  cases h

theorem linkDegraded : Statement .linkDegraded := by
  intro w h
  cases h

theorem rredSlotExpire : Statement .rredSlotExpire := by
  intro w h
  cases h

theorem rredExpiredMarkEnd : Statement .rredExpiredMarkEnd := by
  intro w h
  cases h

theorem rmaPut : Statement .rmaPut := by
  intro w h
  cases h

theorem rmaGet : Statement .rmaGet := by
  intro w h
  cases h

theorem rmaWait : Statement .rmaWait := by
  intro w h
  cases h

theorem rmaWaitSatisfied : Statement .rmaWaitSatisfied := by
  intro w h
  cases h

theorem rmaEntryReserved : Statement .rmaEntryReserved := by
  intro w h
  cases h

theorem bindQueue : Statement .bindQueue := by
  intro w h
  cases h

theorem setAsid : Statement .setAsid := by
  intro w h
  cases h

theorem setLocalWindow : Statement .setLocalWindow := by
  intro w h
  cases h

theorem setSaveArea : Statement .setSaveArea := by
  intro w h
  cases h

theorem setDieMap : Statement .setDieMap := by
  intro w h
  cases h

theorem regionRegister : Statement .regionRegister := by
  intro w h
  cases h

theorem regionRevoke : Statement .regionRevoke := by
  intro w h
  cases h

theorem channelReset : Statement .channelReset := by
  intro w h
  cases h

theorem kill : Statement .kill := by
  intro w h
  cases h

theorem faultReply : Statement .faultReply := by
  intro w h
  cases h

theorem tlbInvalidate : Statement .tlbInvalidate := by
  intro w h
  cases h

theorem debug : Statement .debug := by
  intro w h
  cases h

theorem readViolq : Statement .readViolq := by
  intro w h
  cases h

theorem traceConfig : Statement .traceConfig := by
  intro w h
  cases h

theorem dump : Statement .dump := by
  intro w h
  cases h

theorem setRstackArea : Statement .setRstackArea := by
  intro w h
  cases h

theorem privUnknownCommand : Statement .privUnknownCommand := by
  intro w h
  cases h

theorem traceSample : Statement .traceSample := by
  intro w h
  cases h

theorem teamRetire : Statement .teamRetire := by
  intro w h
  cases h

theorem gridRetire : Statement .gridRetire := by
  intro w h
  cases h

end Sys2Proof.Laws.ReadBack
end

