-- ==== Sys2Proof/Certificates/Slice0/Obligations.lean ====
section
/-! DEFINITION. The statements about the model, each citing the rules it formalises, with the tables of results they speak in. -/

set_option Elab.async false

namespace Sys2Proof.Statements

open Sys2Proof.Machine

/-! ## What the register words compute (R96, R98, R99), written as arithmetic on integers -/

/-- An integer as a register word: modulo 2^32. -/
def word (x : Int) : W32 := BitVec.ofInt 32 x

/-- An integer as a pair: modulo 2^64. -/
def wide (x : Int) : W64 := BitVec.ofInt 64 x

/-- Bits pos + w − 1 to pos of a word. -/
def field (x : W32) (pos w : Nat) : Nat := x.toNat / 2 ^ pos % 2 ^ w

/-- The position of a bit field, b[4:0] (R99). -/
def posOf (b : W32) : Nat := b.toNat % 32

/-- The width used, min(w, 32 − pos), a requested width above 32 counting as 32 (R99). -/
def widthOf (b : W32) : Nat := min (min (b.toNat / 256 % 64) 32) (32 - posOf b)

/-- A field of w bits, w above 0, as a signed number. -/
def signedField (f w : Nat) : Int := if f < 2 ^ (w - 1) then f else (f : Int) - 2 ^ w

/-- The result of the two-operand integer words for a, b and the old d (R98, R99). -/
def intaResult (x y z : W32) : Instr → Option W32
  | .iadd _ _ _ => some (word (x.toInt + y.toInt))
  | .isub _ _ _ => some (word (x.toInt - y.toInt))
  | .imul _ _ _ => some (word (x.toInt * y.toInt))
  | .imulh _ _ _ => some (word (x.toInt * y.toInt / 2 ^ 32))
  | .imulhu _ _ _ => some (word (x.toNat * y.toNat / 2 ^ 32 : Nat))
  | .imac _ _ _ => some (word (x.toInt * y.toInt + z.toInt))
  | .imin _ _ _ => some (word (min x.toInt y.toInt))
  | .imax _ _ _ => some (word (max x.toInt y.toInt))
  | .umin _ _ _ => some (word (min x.toNat y.toNat : Nat))
  | .umax _ _ _ => some (word (max x.toNat y.toNat : Nat))
  | .and _ _ _ => some (x &&& y)
  | .or _ _ _ => some (x ||| y)
  | .xor _ _ _ => some (x ^^^ y)
  | .andn _ _ _ => some (x &&& ~~~y)
  | .shl _ _ _ => some (if 32 ≤ y.toNat then 0 else word (x.toNat * 2 ^ y.toNat : Nat))
  | .shr _ _ _ => some (word (x.toNat / 2 ^ y.toNat : Nat))
  | .sar _ _ _ => some (word (x.toInt / 2 ^ y.toNat))
  | .rotl _ _ _ => some (word (x.toNat * 2 ^ (y.toNat % 32) + x.toNat / 2 ^ (32 - y.toNat % 32) : Nat))
  | .bfx _ _ _ => some (word (field x (posOf y) (widthOf y)))
  | .bfxs _ _ _ => some (if widthOf y = 0 then 0 else word (signedField (field x (posOf y) (widthOf y)) (widthOf y)))
  | .bfi _ _ _ => some (word (z.toNat - field z (posOf y) (widthOf y) * 2 ^ posOf y + field x 0 (widthOf y) * 2 ^ posOf y : Nat))
  | .lea1 _ _ _ => some (word (x.toInt + 2 * y.toInt))
  | .lea2 _ _ _ => some (word (x.toInt + 4 * y.toInt))
  | .lea3 _ _ _ => some (word (x.toInt + 8 * y.toInt))
  | _ => none

/-- d, a and b of a two-operand integer word. -/
def intaFields : Instr → Option (Reg × Reg × Reg)
  | .iadd d a b | .isub d a b | .imul d a b | .imulh d a b | .imulhu d a b | .imac d a b | .imin d a b | .imax d a b | .umin d a b | .umax d a b
  | .and d a b | .or d a b | .xor d a b | .andn d a b | .shl d a b | .shr d a b | .sar d a b | .rotl d a b | .bfx d a b | .bfxs d a b | .bfi d a b
  | .lea1 d a b | .lea2 d a b | .lea3 d a b => some (d, a, b)
  | _ => none

/-- What the words on pairs write, from the pairs or words a and b (R98). -/
def pairWord : Instr → Option (Thread → Thread)
  | .mulw d a b => some fun t => t.wr64 d (wide ((t.rd a).toNat * (t.rd b).toNat : Nat))
  | .add64 d a b => some fun t => t.wr64 d (wide ((t.rd64 a).toNat + (t.rd64 b).toNat))
  | .sub64 d a b => some fun t => t.wr64 d (wide ((t.rd64 a).toNat - (t.rd64 b).toNat))
  | .shl64 d a b => some fun t => t.wr64 d (if 64 ≤ (t.rd b).toNat then 0 else wide ((t.rd64 a).toNat * 2 ^ (t.rd b).toNat : Nat))
  | .shr64 d a b => some fun t => t.wr64 d (wide ((t.rd64 a).toNat / 2 ^ (t.rd b).toNat : Nat))
  | _ => none

/-- The result of the one-operand integer words. -/
def intuResult (x : W32) : Instr → Option W32
  | .mov _ _ => some x
  | .not _ _ => some (~~~x)
  | .ineg _ _ => some (word (-x.toInt))
  | .iabs _ _ => some (word x.toInt.natAbs)
  | .clz _ _ => some (word ((List.range 32).takeWhile fun k => !x.getLsbD (31 - k)).length)
  | .popc _ _ => some (word ((List.range 32).filter fun k => x.getLsbD k).length)
  | .brev _ _ => some (word (((List.range 32).map fun k => if x.getLsbD (31 - k) then 2 ^ k else 0).sum : Nat))
  | .iaddi _ _ m => some (word (x.toInt + m.toInt))
  | .andi _ _ m => some (x &&& BitVec.ofNat 32 m.toNat)
  | .ori _ _ m => some (x ||| BitVec.ofNat 32 m.toNat)
  | .xori _ _ m => some (x ^^^ BitVec.ofNat 32 m.toNat)
  | .shli _ _ n => some (word (x.toNat * 2 ^ n.toNat : Nat))
  | .shri _ _ n => some (word (x.toNat / 2 ^ n.toNat : Nat))
  | .sari _ _ n => some (word (x.toInt / 2 ^ n.toNat))
  | .rotli _ _ n => some (word (x.toNat * 2 ^ n.toNat + x.toNat / 2 ^ (32 - n.toNat) : Nat))
  | _ => none

/-- d and a of a one-operand integer word. -/
def intuFields : Instr → Option (Reg × Reg)
  | .mov d a | .not d a | .ineg d a | .iabs d a | .clz d a | .popc d a | .brev d a | .iaddi d a _ | .andi d a _ | .ori d a _ | .xori d a _ | .shli d a _
  | .shri d a _ | .sari d a _ | .rotli d a _ => some (d, a)
  | _ => none

/-- What the words do that build constants. -/
def constantWord : Instr → Option (Thread → Thread)
  | .movi d m => some fun t => t.wr d (word m.toInt)
  | .movhi d m => some fun t => t.wr d (word (m.toNat * 2 ^ 13 + (t.rd d).toNat % 2 ^ 13 : Nat))
  | _ => none

/-- The condition a code names (Conditions of 06). -/
def holds (c : IntCond) (x y : W32) : Prop :=
  match c with
  | .eq => x = y
  | .ne => x ≠ y
  | .lt => x.toInt < y.toInt
  | .le => x.toInt ≤ y.toInt
  | .gt => y.toInt < x.toInt
  | .ge => y.toInt ≤ x.toInt
  | .ltu => x.toNat < y.toNat
  | .leu => x.toNat ≤ y.toNat
  | .gtu => y.toNat < x.toNat
  | .geu => y.toNat ≤ x.toNat

/-- The new predicate of a combining compare: c, old and c, old or c, old xor c. -/
def merged (m : Combine) (c : Prop) (old : Bool) : Prop :=
  match m with
  | .set => c
  | .and => old = true ∧ c
  | .or => old = true ∨ c
  | .xor => ¬(c ↔ old = true)

/-- A subnormal word of a format replaced by a zero of its sign where its flag asks it (R102). -/
def flushed (f : Fmt) (on : Bool) (w : Nat) : Nat :=
  if on ∧ 0 < w % 2 ^ (f.bits - 1) ∧ w % 2 ^ (f.bits - 1) < 2 ^ f.mb then w / 2 ^ (f.bits - 1) * 2 ^ (f.bits - 1) else w

/-- The order of R104 on words that are no NaN: by value, −0 below +0. -/
def before (f : Fmt) (x y : Nat) : Bool :=
  let h := 2 ^ (f.bits - 1)
  if x < h then decide (y < h ∧ x < y) else decide (y < h ∨ y < x)

/-- A word's magnitude with its sign. -/
def signedMag (f : Fmt) (x : Nat) : Int := if x < 2 ^ (f.bits - 1) then x else -((x : Int) - 2 ^ (f.bits - 1))

/-- An FP condition (06, FP compare conditions): −0 equals +0; with a NaN only NE and UNORD hold. -/
def fpHolds (f : Fmt) (c : FpCond) (x y : Nat) : Prop :=
  let nans := f.isNan x = true ∨ f.isNan y = true
  match c with
  | .eq => ¬nans ∧ signedMag f x = signedMag f y
  | .ne => nans ∨ signedMag f x ≠ signedMag f y
  | .lt => ¬nans ∧ signedMag f x < signedMag f y
  | .le => ¬nans ∧ signedMag f x ≤ signedMag f y
  | .gt => ¬nans ∧ signedMag f y < signedMag f x
  | .ge => ¬nans ∧ signedMag f y ≤ signedMag f x
  | .unord => nans
  | .ord => ¬nans

/-- The predicate a compare or a predicate word writes, and its value from the thread before (06: ICMP, ICMPI, PLOP, FCMP, DCMP; p7 reads true). -/
def predicateWord : Instr → Option (BitVec 3 × (Thread → Prop))
  | .icmp c m p a b => some (p, fun t => merged m (holds c (t.rd a) (t.rd b)) (t.pred p))
  | .icmpi c p a k => some (p, fun t => holds c (t.rd a) (word k.toInt))
  | .fcmp c m fi p a b => some (p, fun t => merged m (fpHolds fp32 c (flushed fp32 fi (t.rd a).toNat) (flushed fp32 fi (t.rd b).toNat)) (t.pred p))
  | .dcmp c m fi p a b => some (p, fun t => merged m (fpHolds fp64 c (flushed fp64 fi (t.rd64 a).toNat) (flushed fp64 fi (t.rd64 b).toNat)) (t.pred p))
  | .pand d a b => some (d, fun t => t.pred a = true ∧ t.pred b = true)
  | .por d a b => some (d, fun t => t.pred a = true ∨ t.pred b = true)
  | .pxor d a b => some (d, fun t => t.pred a ≠ t.pred b)
  | .pnot d a => some (d, fun t => t.pred a = false)
  | _ => none

/-- What the words do that move values between registers and predicates. -/
def moveWord : Instr → Option (Thread → Thread)
  | .sel p neg d a b => some fun t => t.wr d (if t.pred p != neg then t.rd a else t.rd b)
  | .ptov d => some fun t => t.wr d (word (((List.range 8).map fun k => if t.pred (BitVec.ofNat 3 k) then 2 ^ k else 0).sum : Nat))
  | .vtop a => some fun t => { t with preds := BitVec.ofNat 7 (t.rd a).toNat }
  | _ => none

/-! ## Floating point (R100 to R107) -/

/-- The result of the two-operand and accumulating words of a format on words x, y and the old z, rounded once from the exact value (R101, R103, R104). -/
def arith (f : Fmt) (k : Nat) (x y z : Nat) : Nat :=
  match k with
  | 0 => f.round ((f.val x).add (f.val y))
  | 1 => f.round ((f.val x).add (f.val y).neg)
  | 2 => f.round ((f.val x).mul (f.val y))
  | 3 => f.round (((f.val x).mul (f.val y)).add (f.val z))
  | 4 => f.round (((f.val x).mul (f.val y)).add (f.val z).neg)
  | 5 => if f.isNan x && f.isNan y then f.nan else if f.isNan x then y else if f.isNan y then x else if before f y x then y else x
  | _ => if f.isNan x && f.isNan y then f.nan else if f.isNan x then y else if f.isNan y then x else if before f x y then y else x

/-- Which of the operations of arith a word performs, its format's flags and operands: FI, FO, d, a, b. -/
def fp32Fields : Instr → Option (Nat × Bool × Bool × Reg × Reg × Reg)
  | .fadd fi fo d a b => some (0, fi, fo, d, a, b)
  | .fsub fi fo d a b => some (1, fi, fo, d, a, b)
  | .fmul fi fo d a b => some (2, fi, fo, d, a, b)
  | .ffma fi fo d a b => some (3, fi, fo, d, a, b)
  | .ffms fi fo d a b => some (4, fi, fo, d, a, b)
  | .fmin fi fo d a b => some (5, fi, fo, d, a, b)
  | .fmax fi fo d a b => some (6, fi, fo, d, a, b)
  | _ => none

/-- The same of the FP64 words. -/
def fp64Fields : Instr → Option (Nat × Bool × Bool × Reg × Reg × Reg)
  | .dadd fi fo d a b => some (0, fi, fo, d, a, b)
  | .dsub fi fo d a b => some (1, fi, fo, d, a, b)
  | .dmul fi fo d a b => some (2, fi, fo, d, a, b)
  | .dfma fi fo d a b => some (3, fi, fo, d, a, b)
  | .dmin fi fo d a b => some (5, fi, fo, d, a, b)
  | .dmax fi fo d a b => some (6, fi, fo, d, a, b)
  | _ => none

/-- The same of the packed words, with the format of their halves (R117). -/
def packedFields : Instr → Option (Fmt × Nat × Bool × Bool × Reg × Reg × Reg)
  | .paddH fi fo d a b => some (fp16, 0, fi, fo, d, a, b)
  | .pmulH fi fo d a b => some (fp16, 2, fi, fo, d, a, b)
  | .pfmaH fi fo d a b => some (fp16, 3, fi, fo, d, a, b)
  | .pmaxH fi fo d a b => some (fp16, 6, fi, fo, d, a, b)
  | .paddB fi fo d a b => some (bf16, 0, fi, fo, d, a, b)
  | .pmulB fi fo d a b => some (bf16, 2, fi, fo, d, a, b)
  | .pfmaB fi fo d a b => some (bf16, 3, fi, fo, d, a, b)
  | .pmaxB fi fo d a b => some (bf16, 6, fi, fo, d, a, b)
  | _ => none

/-- An operation of arith with FI before and FO after (R102). -/
def flaggedArith (f : Fmt) (k : Nat) (fi fo : Bool) (x y z : Nat) : Nat :=
  flushed f fo (arith f k (flushed f fi x) (flushed f fi y) (flushed f fi z))

/-- The functions of one FP32 operand, before flags (06, FPU1; R105, R106): the word for the operand word. -/
def fp32Function : Instr → Option (Bool × Bool × Reg × Reg × (Nat → Nat))
  | .frcp fi fo d a => some (fi, fo, d, a, fun x => fp32.round (fp32.val x).recip)
  | .frsq fi fo d a => some (fi, fo, d, a, fun x => fp32.round (fp32.val x).rsqrt)
  | .fsqrt fi fo d a => some (fi, fo, d, a, fun x => fp32.round (fp32.val x).sqrt)
  | .fex2 fi fo d a => some (fi, fo, d, a, fun x => fex2Word (BitVec.ofNat 32 x))
  | .flg2 fi fo d a => some (fi, fo, d, a, fun x => flg2Word (BitVec.ofNat 32 x))
  | .ftanh fi fo d a => some (fi, fo, d, a, fun x => ftanhWord (BitVec.ofNat 32 x))
  | .fsin fi fo d a => some (fi, fo, d, a, fun x => trigWord false (BitVec.ofNat 32 x))
  | .fcos fi fo d a => some (fi, fo, d, a, fun x => trigWord true (BitVec.ofNat 32 x))
  | .frndNe fi fo d a => some (fi, fo, d, a, fp32.integral .ne)
  | .frndZ fi fo d a => some (fi, fo, d, a, fp32.integral .z)
  | .frndDn fi fo d a => some (fi, fo, d, a, fp32.integral .dn)
  | .frndUp fi fo d a => some (fi, fo, d, a, fp32.integral .up)
  | .fabs d a => some (false, false, d, a, fun x => x % 2 ^ 31)
  | .fneg d a => some (false, false, d, a, fun x => if x < 2 ^ 31 then x + 2 ^ 31 else x - 2 ^ 31)
  | _ => none

/-- A word that R106 admits for an exact value: the correctly rounded one, or one within 2 ulp of it, or within 2^a where that is given and larger (log 6). The
exact values of the five functions are computed with 100 fraction bits or more. -/
def admitted (w : Nat) (y : FVal) (absolute : Option Int) : Prop := w = fp32.round y ∨ (fp32.val w).within y (boundOf (fp32.round y) absolute) = true

/-- The row of FEX2 in R106. -/
def fex2Row (a w : Nat) : Prop :=
  match fp32.val a with
  | .nan => w = fp32.nan
  | .inf neg => w = if neg then 0 else fp32.inf
  | .num neg m e =>
    let x := toFix neg m e 240
    (128 * 2 ^ 240 ≤ x → w = fp32.inf) ∧ (x ≤ -150 * 2 ^ 240 → w = 0)
      ∧ (∀ n : Int, -149 ≤ n → n ≤ 127 → x = n * 2 ^ 240 → w = fp32.round (.num false 1 n))
      ∧ (-150 * 2 ^ 240 < x → x < 128 * 2 ^ 240 → x % 2 ^ 240 ≠ 0 → admitted w (exp2Fix x) none)

/-- The row of FLG2 in R106; between 0.5 and 2 both its bounds hold (log 60). -/
def flg2Row (a w : Nat) : Prop :=
  match fp32.val a with
  | .nan => w = fp32.nan
  | .inf neg => w = if neg then fp32.nan else fp32.inf
  | .num neg m e =>
    let y := ofFix (log2Fix m e) 100
    let k : Int := (Nat.log2 m : Int) + e
    (m = 0 → w = 2 ^ 31 + fp32.inf) ∧ (m ≠ 0 → neg = true → w = fp32.nan)
      ∧ (m ≠ 0 → neg = false → m = 2 ^ Nat.log2 m → w = fp32.round (FVal.ofInt k))
      ∧ (m ≠ 0 → neg = false → m ≠ 2 ^ Nat.log2 m → admitted w y none
        ∧ (k = -1 ∨ k = 0 → w = fp32.round y ∨ (fp32.val w).within y (.num false 1 (-22)) = true))

/-- The row of FTANH in R106. -/
def ftanhRow (a w : Nat) : Prop :=
  match fp32.val a with
  | .nan => w = fp32.nan
  | .inf neg => w = fp32.signed neg 0x3F800000
  | .num neg m e =>
    (m = 0 → w = a) ∧ (m ≠ 0 → 91 * 2 ^ 240 ≤ 10 * toFix false m e 240 → w = fp32.signed neg 0x3F800000)
      ∧ (m ≠ 0 → 10 * toFix false m e 240 < 91 * 2 ^ 240 → admitted w (tanhVal neg m e) none)

/-- The row of FSIN and FCOS in R106: beyond 2^17 a value in [−1, 1]. -/
def trigRow (cosine : Bool) (a w : Nat) : Prop :=
  match fp32.val a with
  | .nan | .inf _ => w = fp32.nan
  | .num neg m e =>
    let r := reduceAngle m e
    let y := if cosine then trigSeries r 70 0 (2 ^ 340) else trigSeries r 70 1 r
    (m = 0 → w = if cosine then 0x3F800000 else a)
      ∧ (m ≠ 0 → toFix false m e 240 ≤ 2 ^ 17 * 2 ^ 240 → admitted w (ofFix (if neg && !cosine then -y else y) 340) (some (-24)))
      ∧ (m ≠ 0 → 2 ^ 17 * 2 ^ 240 < toFix false m e 240 → fp32.mag w ≤ 0x3F800000)

/-- A word of one format as a word of another: exact, or to nearest even (06, CVT). -/
def converted (f g : Fmt) (x : Nat) : Nat := g.round (f.val x)

/-- An integer rounded to a format. -/
def ofInteger (g : Fmt) (x : Int) : Nat := g.round (.num (decide (x < 0)) x.natAbs 0)

/-- A value rounded to an integer by a direction and held in [lo, hi], a NaN as 0 (R107). -/
def saturated (r : RMode) (lo hi : Int) (v : FVal) : Int := v.toInt r lo hi

/-- What CVT writes (06, Conversion codes; R107). -/
def convertWord : Instr → Option (Thread → Thread)
  | .cvt .f32F16 d a _ => some fun t => t.wr d (word (converted fp16 fp32 ((t.rd a).toNat % 2 ^ 16)))
  | .cvt .f32Bf16 d a _ => some fun t => t.wr d (word (converted bf16 fp32 ((t.rd a).toNat % 2 ^ 16)))
  | .cvt .f16x2F32 d a b => some fun t => t.wr d (word (2 ^ 16 * converted fp32 fp16 (t.rd b).toNat + converted fp32 fp16 (t.rd a).toNat))
  | .cvt .bf16x2F32 d a b => some fun t => t.wr d (word (2 ^ 16 * converted fp32 bf16 (t.rd b).toNat + converted fp32 bf16 (t.rd a).toNat))
  | .cvt .f64F32 d a _ => some fun t => t.wr64 d (wide (converted fp32 fp64 (t.rd a).toNat))
  | .cvt .f32F64 d a _ => some fun t => t.wr d (word (converted fp64 fp32 (t.rd64 a).toNat))
  | .cvt .f32S32 d a _ => some fun t => t.wr d (word (ofInteger fp32 (t.rd a).toInt))
  | .cvt .f32U32 d a _ => some fun t => t.wr d (word (ofInteger fp32 (t.rd a).toNat))
  | .cvt .s32F32 d a _ => some fun t => t.wr d (word (saturated .z (-2 ^ 31) (2 ^ 31 - 1) (fp32.val (t.rd a).toNat)))
  | .cvt .u32F32 d a _ => some fun t => t.wr d (word (saturated .z 0 (2 ^ 32 - 1) (fp32.val (t.rd a).toNat)))
  | .cvt .s32F32Rn d a _ => some fun t => t.wr d (word (saturated .ne (-2 ^ 31) (2 ^ 31 - 1) (fp32.val (t.rd a).toNat)))
  | .cvt .f64S32 d a _ => some fun t => t.wr64 d (wide (ofInteger fp64 (t.rd a).toInt))
  | .cvt .f64U32 d a _ => some fun t => t.wr64 d (wide (ofInteger fp64 (t.rd a).toNat))
  | .cvt .s32F64 d a _ => some fun t => t.wr d (word (saturated .z (-2 ^ 31) (2 ^ 31 - 1) (fp64.val (t.rd64 a).toNat)))
  | .cvt .f64S64 d a _ => some fun t => t.wr64 d (wide (ofInteger fp64 (t.rd64 a).toInt))
  | .cvt .s64F64 d a _ => some fun t => t.wr64 d (wide (saturated .z (-2 ^ 63) (2 ^ 63 - 1) (fp64.val (t.rd64 a).toNat)))
  | _ => none

/-! ## Narrow formats (R134 to R142) -/

/-- The FP32 word in register number k of an operand. -/
def valueAt (t : Thread) (r : Reg) (k : Nat) : FVal := fp32.val (t.rdAt r k).toNat

/-- An integer's residues modulo 31, 32 and 33 in their fields (R137). -/
def residues (x : Int) : Int := x % 31 + 2 ^ 5 * (x % 32) + 2 ^ 10 * (x % 33)

/-- A RES16 element is no poison and holds x: its fields are x's residues (R137). -/
def holdsResidues (w : Nat) (x : Int) : Prop :=
  -16368 ≤ x ∧ x ≤ 16367 ∧ (w % 2 ^ 5 : Nat) = x % 31 ∧ (w / 2 ^ 5 % 2 ^ 5 : Nat) = x % 32 ∧ (w / 2 ^ 10 % 2 ^ 6 : Nat) = x % 33

/-- What the packing and unpacking words write (R139 to R141). -/
def narrowWord : Instr → Option (Thread → Thread)
  | .pack8E4m3 d a b => some fun t =>
    t.wr d (word (toE4m3 (valueAt t a 0) + 2 ^ 8 * toE4m3 (valueAt t a 1) + 2 ^ 16 * toE4m3 (valueAt t b 0) + 2 ^ 24 * toE4m3 (valueAt t b 1) : Nat))
  | .pack8E5m2 d a b => some fun t =>
    t.wr d (word (e5m2.round (valueAt t a 0) + 2 ^ 8 * e5m2.round (valueAt t a 1) + 2 ^ 16 * e5m2.round (valueAt t b 0) + 2 ^ 24 * e5m2.round (valueAt t b 1) : Nat))
  | .unpk8E4m3 d a => some fun t => t.wrList d 0 ((List.range 4).map fun k => word (fp32.round (e4m3Val ((t.rd a).toNat / 2 ^ (8 * k) % 2 ^ 8))))
  | .unpk8E5m2 d a => some fun t => t.wrList d 0 ((List.range 4).map fun k => word (fp32.round (e5m2.val ((t.rd a).toNat / 2 ^ (8 * k) % 2 ^ 8))))
  | .pack4 d a b => some fun t =>
    t.wr d (word (((List.range 8).map fun k => 2 ^ (4 * k) * toE2m1 (t.rdAt (if k < 4 then a else b) (k % 4)).toNat).sum : Nat))
  | .unpk4 d a b => some fun t => t.wrList d 0 ((List.range 4).map fun k =>
    let c := (t.rd a).toNat / 2 ^ (4 * (k + if (t.rd b).getLsbD 0 then 4 else 0)) % 2 ^ 4
    if c = 8 then 0x7FD00000 else word (fp32.round (e2m1Val c)))
  | .resenc d a => some fun t => t.wr d (word (residues (t.rd a).toInt))
  | .scale8 d a b => some fun t => (t.wrAt d 0 (word (scale8Of ((t.rd b).toNat % 4) (t.rd a).toNat).1)).wrAt d 1 (word (scale8Of ((t.rd b).toNat % 4) (t.rd a).toNat).2)
  | _ => none

/-! ## Special registers, control and collectives (R30, R31, R81, R82; 05) -/

/-- A trap register of a thread: 0 outside trap mode (R31, R281). -/
def trapReg (c : Ctx) (f : TrapState → Nat) : Nat := match c.t.trap with | some m => f m | none => 0

/-- The value of a special register in surroundings c (R30, R31). -/
def special (s : State) (c : Ctx) : SReg → Nat
  | .tid => c.t.ref.tid
  | .team => c.t.ref.team
  | .teamsize => c.kernel.teamSize
  | .grid => c.t.ref.grid
  | .depth => c.grid.depth
  | .cohort => c.t.ref.tid / 64
  | .clane => c.t.ref.tid % 64
  | .core => c.core
  | .cluster => c.core / 4
  | .die => c.core / 48
  | .device => s.boot.device
  | .attempt => c.team.attempt
  | .lastcause => c.team.lastCause
  | .cycleLo => s.dieClock.getD (c.core / 48) 0
  | .cycleHi => c.t.latch.toNat
  | .wbase => c.t.wbase
  | .calldepth => c.t.stack.length
  | .tcause => trapReg c (·.cause)
  | .tpc => trapReg c (·.tpc)
  | .taddrLo => trapReg c (·.taddr)
  | .taddrHi => trapReg c fun m => m.taddr / 2 ^ 32
  | .tinfo => trapReg c fun m => if m.tinfo then 1 else 0
  | .scratch => c.team.scratch
  | .partition => c.t.ref.tid / 64 % 8

/-- The target of BRA and CALL: PC + 4 + 4 × the signed offset (05). -/
def target (t : Thread) (off : BitVec 22) : Int := t.pc + 4 + 4 * off.toInt

/-- Where a push spills in the active threads whose stacks hold four entries or more, p holds of the place and of the thread (R82). -/
def eachSpill (s : State) (p : Ctx → Nat → Prop) : Prop := s.EachActive fun c => 4 ≤ c.t.stack.length → p c (c.stackKey (c.t.stack.length - 4))

/-- What a call answers (R82): the state given, in which only the spills of the active threads with four entries or more have changed memory: outside their 8 bytes
all of it reads as before, and where no other thread spills on its place a thread's holds the fifth entry from the top, its PC and its WBASE. -/
def pushes (s : State) (o : Host.Outcome State Fault Refusal) (done : State) : Prop :=
  ∃ u : State, o = .next u ∧ u = { done with mem := u.mem, eventQ := u.eventQ }
    ∧ (s.EachActive (fun c => c.t.stack.length < 4) → u = done)
    ∧ (eachSpill s (fun _ key => s.inHole key = false) → u.eventQ = s.eventQ
      ∧ (∀ k, eachSpill s (fun _ key => k < key ∨ key + 8 ≤ k) → memGet u.mem k = memGet s.mem k)
      ∧ eachSpill s fun c key => eachSpill s (fun d other => d.t.ref ≠ c.t.ref → other + 8 ≤ key ∨ key + 8 ≤ other) →
        let e := c.t.stack.getD 3 (0, 0)
        leNat (memRead u.mem key 4) = e.1 % 2 ^ 32 ∧ leNat (memRead u.mem (key + 4) 4) = e.2 % 2 ^ 32)

/-- An open pending set of the thread awaits its return (R32, R33). -/
def hasPending (t : Thread) : Bool := t.windows.any fun w => w.awaits

/-- The active member of a thread's cohort in lane k: in the gang, ready, left on by its guard. -/
def activeAt (s : State) (c : Ctx) (k : Nat) : Option Thread :=
  s.threads.find? fun u => s.gang.contains u.ref && decide (u.ref.grid = c.t.ref.grid ∧ u.ref.team = c.t.ref.team ∧ u.ref.tid / 64 = c.t.ref.tid / 64
    ∧ u.ref.tid % 64 = k ∧ u.status = .ready) && !u.guardedOff

/-- The member present in lane k, active or not. -/
def presentAt (s : State) (c : Ctx) (k : Nat) : Option Thread :=
  s.threads.find? fun u => s.gang.contains u.ref && decide (u.ref.grid = c.t.ref.grid ∧ u.ref.team = c.t.ref.team ∧ u.ref.tid / 64 = c.t.ref.tid / 64
    ∧ u.ref.tid % 64 = k ∧ u.status = .ready)

/-- The active members in ascending lane order. -/
def activeLanes (s : State) (c : Ctx) : List Thread := (List.range 64).filterMap (activeAt s c)

/-- The lane XLANE reads for lane i and amount k; none out of range (05, XLANE). -/
def laneRead (o : XlaneOp) (i k : Nat) : Option Nat :=
  match o with
  | .at => some (k % 64)
  | .below => if k ≤ i then some (i - k) else none
  | .above => if i + k < 64 then some (i + k) else none
  | .flip => some (i ^^^ (k % 64))

/-- CRED's operation on two values. -/
def reduced (o : CredOp) (x y : W32) : W32 :=
  match o with
  | .add => word (x.toNat + y.toNat)
  | .min => word (min x.toInt y.toInt)
  | .max => word (max x.toInt y.toInt)
  | .minu => word (min x.toNat y.toNat : Nat)
  | .maxu => word (max x.toNat y.toNat : Nat)
  | .and => x &&& y
  | .or => x ||| y
  | .xor => x ^^^ y

/-- A reduction of the values in ascending lane order. -/
def reduceAll (f : W32 → W32 → W32) : List W32 → W32
  | [] => 0
  | x :: xs => xs.foldl f x

/-- What a collective writes to the register it names, from the active members' registers (05). -/
def collectiveWord (s : State) : Instr → Option (Reg × (Ctx → W32))
  | .cred o d a => some (d, fun c => reduceAll (reduced o) ((activeLanes s c).map (·.rd a)))
  | .scanAdd d a => some (d, fun c => word ((((activeLanes s c).filter fun u => u.ref.tid < c.t.ref.tid).map fun u => (u.rd a).toNat).sum : Nat))
  | .scanAddi d a => some (d, fun c => word ((((activeLanes s c).filter fun u => u.ref.tid ≤ c.t.ref.tid).map fun u => (u.rd a).toNat).sum : Nat))
  | .xlane o d a b => some (d, fun c => match laneRead o (c.t.ref.tid % 64) (c.t.rd b).toNat with
    | none => c.t.rd a
    | some j => match presentAt s c j with
      | none => 0
      | some u => u.rd a)
  | _ => none

/-- What a vote writes to the predicate it names. -/
def voteWord (s : State) : Instr → Option (BitVec 3 × (Ctx → Prop))
  | .pall p q n => some (p, fun c => ∀ u ∈ activeLanes s c, u.pred q ≠ n)
  | .pany p q n => some (p, fun c => ∃ u ∈ activeLanes s c, u.pred q ≠ n)
  | .psame p q n => some (p, fun c => (∀ u ∈ activeLanes s c, u.pred q ≠ n) ∨ ∀ u ∈ activeLanes s c, u.pred q = n)
  | .cpick p => some (p, fun c => ∀ u ∈ activeLanes s c, c.t.ref.tid ≤ u.ref.tid)
  | _ => none

end Sys2Proof.Statements

open Sys2Proof Sys2Proof.Machine Sys2Proof.Statements

/-! ## Register words (06) -/

/-- R98, R99, R96: each two-operand integer word writes its result, computed from the values its registers held before, to d, and every thread of the gang
that its guard leaves on does so; nothing else changes but PC, guard count and windows. -/
def Obligations.IntegerWordResults : Prop :=
  ∀ (s : State) (i : Instr) (d a b : Reg), intaFields i = some (d, a, b) → s.Clear i →
    ∃ v : Thread → W32, (∀ t, intaResult (t.rd a) (t.rd b) (t.rd d) i = some (v t)) ∧ exec i s = .next (s.after fun _ t => t.wr d (v t))

/-- R98: MULW, ADD64, SUB64, SHL64 and SHR64 write pairs, the low word in the even register. -/
def Obligations.PairWordResults : Prop :=
  ∀ (s : State) (i : Instr) (f : Thread → Thread), pairWord i = some f → s.Clear i → exec i s = .next (s.after fun _ => f)

/-- 06, INTU and the immediate forms. -/
def Obligations.UnaryAndImmediateResults : Prop :=
  ∀ (s : State) (i : Instr) (d a : Reg), intuFields i = some (d, a) → s.Clear i →
    ∃ v : Thread → W32, (∀ t, intuResult (t.rd a) i = some (v t)) ∧ exec i s = .next (s.after fun _ t => t.wr d (v t))

/-- 06: MOVI and MOVHI. -/
def Obligations.ConstantWordResults : Prop :=
  ∀ (s : State) (i : Instr) (f : Thread → Thread), constantWord i = some f → s.Clear i → exec i s = .next (s.after fun _ => f)

/-- 06: compares and predicate words write one predicate; p7 discards. SEL, PTOV and VTOP move values. -/
def Obligations.PredicateWordResults : Prop :=
  (∀ (s : State) (i : Instr) (p : BitVec 3) (v : Thread → Prop), predicateWord i = some (p, v) → s.Clear i →
    ∃ b : Thread → Bool, (∀ t, b t = true ↔ v t) ∧ exec i s = .next (s.after fun _ t => t.setPred p (b t)))
  ∧ (∀ (s : State) (i : Instr) (f : Thread → Thread), moveWord i = some f → s.Clear i → exec i s = .next (s.after fun _ => f))

/-- R101 to R106: FP32 words: the arithmetic ones, the roots and the reciprocal correctly rounded; FEX2, FLG2, FTANH, FSIN and FCOS a word that R106 admits or the
value it fixes. Choices of the model among what it rests on: logs 6 and 60. -/
def Obligations.Fp32WordResults : Prop :=
  (∀ (s : State) (i : Instr) (k : Nat) (fi fo : Bool) (d a b : Reg), fp32Fields i = some (k, fi, fo, d, a, b) → s.Clear i →
    exec i s = .next (s.after fun _ t => t.wr d (word (flaggedArith fp32 k fi fo (t.rd a).toNat (t.rd b).toNat (t.rd d).toNat))))
  ∧ (∀ (s : State) (i : Instr) (fi fo : Bool) (d a : Reg) (f : Nat → Nat), fp32Function i = some (fi, fo, d, a, f) → s.Clear i →
    exec i s = .next (s.after fun _ t => t.wr d (word (flushed fp32 fo (f (flushed fp32 fi (t.rd a).toNat))))))
  ∧ ∀ x : W32, fex2Row x.toNat (fex2Word x) ∧ flg2Row x.toNat (flg2Word x) ∧ ftanhRow x.toNat (ftanhWord x) ∧ trigRow false x.toNat (trigWord false x)
      ∧ trigRow true x.toNat (trigWord true x)

/-- R117 of 06, R101 to R104: each half of a packed word apart; FP64 words on pairs. -/
def Obligations.PackedAndDoubleWordResults : Prop :=
  (∀ (s : State) (i : Instr) (f : Fmt) (k : Nat) (fi fo : Bool) (d a b : Reg), packedFields i = some (f, k, fi, fo, d, a, b) → s.Clear i →
    exec i s = .next (s.after fun _ t =>
      let h (n : Nat) : Nat := flaggedArith f k fi fo ((t.rd a).toNat / 2 ^ n % 2 ^ 16) ((t.rd b).toNat / 2 ^ n % 2 ^ 16) ((t.rd d).toNat / 2 ^ n % 2 ^ 16)
      t.wr d (word (h 16 * 2 ^ 16 + h 0 : Nat))))
  ∧ (∀ (s : State) (i : Instr) (k : Nat) (fi fo : Bool) (d a b : Reg), fp64Fields i = some (k, fi, fo, d, a, b) → s.Clear i →
    exec i s = .next (s.after fun _ t => t.wr64 d (wide (flaggedArith fp64 k fi fo (t.rd64 a).toNat (t.rd64 b).toNat (t.rd64 d).toNat))))

/-- R107 and the conversion codes of 06. -/
def Obligations.ConversionResults : Prop :=
  ∀ (s : State) (i : Instr) (f : Thread → Thread), convertWord i = some f → s.Clear i → exec i s = .next (s.after fun _ => f)

/-- R139 to R142: the packing, unpacking and scale words; RESDEC gives the integer whose residues the element holds, a poison element 0x8000_0000. -/
def Obligations.NarrowWordResults : Prop :=
  (∀ (s : State) (i : Instr) (f : Thread → Thread), narrowWord i = some f → s.Clear i → exec i s = .next (s.after fun _ => f))
  ∧ (∀ (s : State) (d a : Reg), s.Clear (.resdec d a) → ∃ v : Thread → W32, exec (.resdec d a) s = .next (s.after fun _ t => t.wr d (v t))
      ∧ ∀ t, (∀ x, holdsResidues (t.rd a).toNat x → v t = word x)
        ∧ ((t.rd a).toNat % 2 ^ 5 = 31 ∨ 33 ≤ (t.rd a).toNat / 2 ^ 10 % 2 ^ 6 → v t = 0x80000000))

/-- R30, R31: SRD reads every special register, SRD of sr.cycle.lo latches the high word; SWR writes bit 0 of sr.tinfo in trap mode only; R52: MOVK reads the
grid's parameter store, 0 beyond its size. -/
def Obligations.SpecialRegisterWords : Prop :=
  (∀ (s : State) (d : Reg) (r : SReg), s.Clear (.srd d r) → exec (.srd d r) s = .next (s.after fun c t =>
    if r = .cycleLo then { t.wr d (word (special s c r)) with latch := word (s.dieClock.getD (c.core / 48) 0 / 2 ^ 32 : Nat) } else t.wr d (word (special s c r))))
  ∧ (∀ (s : State) (a : Reg), s.Clear (.swr a) → exec (.swr a) s = .next (s.after fun _ t => match t.trap with
    | some m => { t with trap := some { m with tinfo := (t.rd a).getLsbD 0 } }
    | none => t))
  ∧ (∀ (s : State) (d : Reg) (k : BitVec 6), s.Clear (.movk d k) → exec (.movk d k) s = .next (s.after fun c t =>
    t.wr d (word (((List.range 4).map fun j => 2 ^ (8 * j) * (c.grid.params.getD (4 * k.toNat + j) 0).toNat).sum : Nat))))

/-- 05, R27, R91, R96: NOP and CSYNC change nothing but the thread's place; WIN and WINR set WBASE; GRD latches the guard for the words that follow. -/
def Obligations.WindowAndGuardWords : Prop :=
  ∀ (s : State),
    (s.Clear .nop → exec .nop s = .next (s.after fun _ t => t))
    ∧ (s.Clear .csync → exec .csync s = .next (s.after fun _ t => t))
    ∧ (∀ b, s.Clear (.win b) → exec (.win b) s = .next (s.after fun _ t => { t with wbase := 16 * b.toNat }))
    ∧ (∀ a, s.Clear (.winr a) → s.EachActive (fun c => (c.t.rd a).toNat % 16 = 0 ∧ (c.t.rd a).toNat ≤ 496) →
        exec (.winr a) s = .next (s.after fun c t => { t with wbase := (c.t.rd a).toNat }))
    ∧ (∀ p neg n, s.Clear (.grd p neg n) → exec (.grd p neg n) s = .next (s.after fun c t => { t with gval := c.t.pred p != neg, gcnt := n.toNat + 1 }))

/-- R81, R82, R92, R93, R94: a taken transfer goes to its target when that lies in the code section, and ends the guard; CALL and CALLI push the return PC
and WBASE below depth 1024; RET pops them. A push beyond four entries writes the fifth from the top to the thread's stack in device memory, a pop reads it again.
Choices of the model among what it rests on: logs 14 and 53. -/
def Obligations.ControlTransfers : Prop :=
  ∀ (s : State),
    (∀ p neg off, s.Clear (.bra p neg off) (fun t => t.pred p == neg) →
      s.EachActive (fun c => c.t.pred p ≠ neg → 0 ≤ target c.t off ∧ target c.t off < c.code.size) →
      exec (.bra p neg off) s = .next (s.after fun c t => if c.t.pred p != neg then { t with pc := (target c.t off).toNat, gcnt := 0 } else t))
    ∧ (∀ off, s.Clear (.call off) (fun _ => false) →
      s.EachActive (fun c => 0 ≤ target c.t off ∧ target c.t off < c.code.size ∧ c.t.stack.length < 1024) →
      pushes s (exec (.call off) s) (s.after fun c t =>
        { t with pc := (target c.t off).toNat, gcnt := 0, stack := (c.t.pc + 4, c.t.wbase) :: c.t.stack }))
    ∧ (∀ a, s.Clear (.jmpi a) (fun _ => false) → s.EachActive (fun c => (c.t.rd a).toNat % 4 = 0 ∧ (c.t.rd a).toNat < c.code.size) →
      exec (.jmpi a) s = .next (s.after fun c t => { t with pc := (c.t.rd a).toNat, gcnt := 0 }))
    ∧ (∀ a, s.Clear (.calli a) (fun _ => false) →
      s.EachActive (fun c => (c.t.rd a).toNat % 4 = 0 ∧ (c.t.rd a).toNat < c.code.size ∧ c.t.stack.length < 1024) →
      pushes s (exec (.calli a) s) (s.after fun c t => { t with pc := (c.t.rd a).toNat, gcnt := 0, stack := (c.t.pc + 4, c.t.wbase) :: c.t.stack }))
    ∧ (s.Clear .ret (fun _ => false) →
      s.EachActive (fun c => (∃ pc wbase rest, c.t.stack = (pc, wbase) :: rest ∧ pc < c.code.size ∧ ∀ m, c.t.trap = some m → m.depth ≠ c.t.stack.length)
        ∧ (5 ≤ c.t.stack.length → s.inHole (c.stackKey (c.t.stack.length - 5)) = false)) →
      exec .ret s = .next (s.after fun c t => match t.stack with
        | (pc, wbase) :: rest =>
          let key := c.stackKey (c.t.stack.length - 5)
          { t with pc := pc, gcnt := 0, wbase := wbase
                   stack := if 5 ≤ c.t.stack.length then rest.set 3 (leNat (memRead s.mem key 4), leNat (memRead s.mem (key + 4) 4) % 2 ^ 9) else rest }
        | [] => t))

/-- R33, R94, R95, R281: EXIT, and RET at depth 0 outside trap mode, end the thread once no pending set is open, and wait for it otherwise; TRET goes back
to the saved PC, or past it when sr.tinfo bit 0 is set, with the saved window base and guard.
Choices of the model among what it rests on: log 14. -/
def Obligations.ThreadAndTrapEnds : Prop :=
  ∀ (s : State),
    (s.Clear .exit (fun _ => false) → exec .exit s = .next (s.after fun c t =>
      if hasPending c.t then { c.t with status := .draining .exit } else { t with status := .exited, windows := [] }))
    ∧ (s.Clear .ret (fun _ => false) → s.EachActive (fun c => c.t.stack = [] ∧ c.t.trap = none) → exec .ret s = .next (s.after fun c t =>
      if hasPending c.t then { c.t with status := .draining .exit } else { t with status := .exited, windows := [] }))
    ∧ (∀ m : Ctx → TrapState, s.Clear .tret (fun _ => false) →
      s.EachActive (fun c => c.t.trap = some (m c) ∧ c.t.stack.length = (m c).depth ∧ ((m c).tinfo = true → (m c).tpc + 4 < c.code.size)) →
      exec .tret s = .next (s.after fun c _ =>
        if hasPending c.t then { c.t with status := .draining .tret }
        else { c.t with trap := none, wbase := (m c).wbase, gval := (m c).gval, windows := [], status := .ready
                        pc := if (m c).tinfo then (m c).tpc + 4 else (m c).tpc, gcnt := if (m c).tinfo then (m c).gcnt - 1 else (m c).gcnt }))

/-- R277, R279, R281: TRAP and BRK take USER_TRAP with the trap number and BREAKPOINT: outside trap mode, in a kernel with a trap entry, the thread enters
trap mode at that entry, with what it resumes with saved; nothing else changes. -/
def Obligations.TrapWordsEnterTrapMode : Prop :=
  ∀ (s : State) (r : TRef) (c : Ctx) (entry : Nat), c.kernel.trap = some entry → c.t.trap = none → c.team.killed = none → hasPending c.t = false →
    s.inFaultWait r.grid r.team = false →
    let entered (cause addr : Nat) : State := s.modThread r fun t =>
      { t with trap := some { cause := cause, tpc := t.pc, taddr := addr, tinfo := false, wbase := t.wbase, depth := t.stack.length, gval := t.gval, gcnt := t.gcnt }
               pc := entry, gcnt := 0, windows := [], status := .ready }
    (∀ n, s.Issues (.trap n) r c → exec (.trap n) s = .next (entered 0x0F n.toNat))
    ∧ (s.Issues .brk r c → c.grid.debug = false → exec .brk s = .next (entered 0x10 0))

/-- 05: the collectives combine the registers and predicates of the active members of the cohort, in ascending lane order.
Choices of the model among what it rests on: log 16. -/
def Obligations.CollectiveResults : Prop :=
  (∀ (s : State) (i : Instr) (d : Reg) (v : Ctx → W32), collectiveWord s i = some (d, v) → s.Clear i → exec i s = .next (s.after fun c t => t.wr d (v c)))
  ∧ (∀ (s : State) (i : Instr) (p : BitVec 3) (v : Ctx → Prop), voteWord s i = some (p, v) → s.Clear i →
    ∃ b : Ctx → Bool, (∀ r ∈ s.gang, ∀ c, s.ctx? r = some c → c.t.guardedOff = false → (b c = true ↔ v c)) ∧ exec i s = .next (s.after fun c t => t.setPred p (b c)))
  ∧ (∀ (s : State) (d : Reg) (q : BitVec 3) (n : Bool), s.Clear (.ballot d q n) → ∃ v : Ctx → W64, exec (.ballot d q n) s = .next (s.after fun c t => t.wr64 d (v c))
      ∧ ∀ c k, k < 64 → ((v c).getLsbD k = true ↔ ∃ u, activeAt s c k = some u ∧ u.pred q ≠ n))
  ∧ (∀ (s : State) (o : FredxOp) (d a : Reg), s.Clear (.fredx o d a) → exec (.fredx o d a) s = .next (s.after fun c t =>
      let x := (List.range 64).map fun k => (activeAt s c k).map fun u => (u.rd a).toNat
      t.wr d (word ((((List.range 6).foldl (fun x k => butterfly o k x) x).getD 0 none).getD 0))))

namespace Sys2Proof.Statements

/-! ## Memory words (07) -/

/-- The address a global access forms: pair A plus the displacement in units of the access, modulo 2^64 (R109). -/
def formedAddress (t : Thread) (a : Reg) (off : BitVec 6) (n : Nat) : Nat := (((t.rd64 a).toNat + off.toInt * n) % 2 ^ 64).toNat

/-- Bits [63:57] equal bit 56 (R109). -/
def canonical (va : Nat) : Prop := va < 2 ^ 56 ∨ (2 ^ 64 - 2 ^ 56 ≤ va ∧ va < 2 ^ 64)

/-- An access of n bytes at an address is in order (R109, R110, R122, R130, R289): aligned, canonical, it leads to place p for the right, and outside the aperture
no lock and no other team's interval stands against it. -/
def reaches (s : State) (c : Ctx) (va n : Nat) (right : Right) (p : Place) : Prop :=
  va % n = 0 ∧ canonical va ∧ s.resolve c.core c.asid c.system va n right = .ok p
    ∧ (inAperture va = false → s.lockHit c.die (.global c.asid) va n (right = .read) = false
        ∧ s.ownedElsewhere c.t.ref.grid c.t.ref.team c.asid va n (right ≠ .read) = false)

/-- A global load: it reads at the home, its size, how it widens, D, A and the displacement. -/
def globalLoad : Instr → Option (Bool × Nat × Widen × Reg × Reg × BitVec 6)
  | .ldg _ sz d a off => some (false, sz.bytes, .plain, d, a, off)
  | .ldgn _ sz d a off => some (true, sz.bytes, .plain, d, a, off)
  | .ldgb _ sz d a off => some (false, if sz = .zx8 ∨ sz = .sx8 then 1 else 2, if sz = .zx8 ∨ sz = .zx16 then .zero else .sign, d, a, off)
  | _ => none

/-- A load of scratch or constants: where, its size, D, A and the displacement. -/
def offsetLoad : Instr → Option (LoadFrom × Nat × Reg × Reg × BitVec 6)
  | .lds _ sz d a off => some (.scratch, sz.bytes, d, a, off)
  | .ldk _ sz d a off => some (.konst, sz.bytes, d, a, off)
  | _ => none

/-- The words that bytes come to in registers (R119): little-endian words, or one value extended with zeros or with its sign. -/
def loadedWords (w : Widen) (bs : List Byte) : List W32 :=
  let value : Nat := (bs.zipIdx.map fun x => x.1.toNat * 256 ^ x.2).sum
  match w with
  | .plain => (List.range ((bs.length + 3) / 4)).map fun k => word (value / 2 ^ (32 * k) % 2 ^ 32 : Nat)
  | .zero => [word value]
  | .sign => [word (signedField value (8 * bs.length))]

/-- Reading n bytes of a load from byte off on in state s (R119): the bytes are those of its team's scratch, its grid's constants, the thread's view of their home
(LDGN), or what the caches of its core and die hold over the home (LDG, LDGB); state u differs from s in threads, loads and caches alone, where the bytes lie in no hole. -/
def readsBytes (s u : State) (m : Team) (l : Load) (off n : Nat) (bs : List Byte) : Prop :=
  let key := l.place + off
  let p : Place := ⟨key, l.home, isHostKey key, false⟩
  (l.source = .scratch → bs = s.teamRead m (l.va + off) n ∧ u = { s with threads := u.threads, loads := u.loads })
    ∧ (l.source = .konst → bs = s.konstRead l.thread.grid (l.va + off) n ∧ u = { s with threads := u.threads, loads := u.loads })
    ∧ (∀ fresh, l.source = .memory fresh → isScratchKey key = true → bs = s.rd key n ∧ u = { s with threads := u.threads, loads := u.loads })
    ∧ (l.source = .memory true → isScratchKey key = false → bs = s.freshRead m.lastCore l.thread p n
      ∧ u.l1.Sublist s.l1 ∧ u.rdc = s.rdc.filter (fun x => !(x.owner == dieOfCore m.lastCore && overlap key n (x.line * 128) 128))
      ∧ (s.inHole key = false → u = { s with threads := u.threads, loads := u.loads, l1 := u.l1, rdc := u.rdc }))
    ∧ (l.source = .memory false → isScratchKey key = false → ∃ v : State, v = { s with draw := v.draw, l1 := v.l1, rdc := v.rdc }
      ∧ v.l1.Sublist s.l1 ∧ v.rdc.Sublist s.rdc ∧ bs = v.coreRead m.lastCore p n
      ∧ (s.inHole key = false → u = { s with draw := u.draw, threads := u.threads, loads := u.loads, l1 := u.l1, rdc := u.rdc
                                             wtb := (s.noteSeen m.lastCore l.thread key n).wtb }))

/-- A load that has read bytes bs is over: its words reach D and its pending set clears. -/
def returned (l : Load) (bs : List Byte) (ts : List Thread) : List Thread :=
  updWhere (fun t => t.ref = l.thread) (fun t =>
    ({ t.wrUnder l.wbase l.d (loadedWords l.widen bs) with windows := clearSet l.op t.windows } : Thread).settle) ts

/-- The bytes of a store: byte k is byte k mod 4 of the register k / 4 above D. -/
def storedBytes (t : Thread) (d : Reg) (n : Nat) : List Byte := (List.range n).map fun k => (t.rdAt d (k / 4)).extractLsb' (8 * (k % 4)) 8

/-- A global store: it streams, its size, D, A and the displacement. -/
def globalStore : Instr → Option (Bool × Nat × Reg × Reg × BitVec 6)
  | .stg streaming sz d a off => some (streaming, sz.bytes, d, a, off)
  | .stgb streaming sz d a off => some (streaming, if sz = .b8 then 1 else 2, d, a, off)
  | _ => none

/-- No load of the thread is in flight, and no returning atomic of it waits to be performed. -/
def quiet (s : State) (r : TRef) : Prop := (∀ l ∈ s.loads, l.thread ≠ r) ∧ ∀ a ∈ s.atoms, a.thread = r → a.returns = true → a.performed = true

/-- v is s after a core translated an address (R289, R290): the caches of translations may hold more, and where a table it read lies in a hole the event of R17 stands. -/
def translated (s v : State) (core asid va : Nat) : Prop :=
  v = { s with draw := v.draw, mem := v.mem, eventQ := v.eventQ, tlb := v.tlb, tlb2 := v.tlb2, walkCache := v.walkCache, atc := v.atc }
    ∧ ((∀ k ∈ s.walkKeys core asid va, s.inHole (devKey k) = false) → v = { s with tlb := v.tlb, tlb2 := v.tlb2, walkCache := v.walkCache, atc := v.atc })

/-- The single-copy atomic parts of a store of its die's memory: two for 16 bytes (R226). -/
def partsOf (here : Bool) (bs : List Byte) : List (Nat × List Byte) := if here = true ∧ bs.length = 16 then [(0, bs.take 8), (8, bs.drop 8)] else [(0, bs)]

/-- The parts of a store in the write-through buffer, numbered on from op. -/
def buffered (op core : Nat) (r : TRef) (key : Nat) (chan : Option Nat) (parts : List (Nat × List Byte)) : List WriteThrough :=
  parts.zipIdx.map fun x => { op := op + x.2, core := core, thread := r, place := key + x.1.1, bytes := x.1.2, chan := chan, explicit := false, seen := [] }

/-- The thread's byte lies in no interval that its team holds writable. -/
def unowned (s : State) (c : Ctx) (va n : Nat) : Prop := ∀ k, va ≤ k → k < va + n → s.ownsByte c.t.ref.grid c.t.ref.team c.asid k = false

end Sys2Proof.Statements

/-! ## Memory words (07) -/

/-- R109, R112, R119: a load whose checks pass suspends its thread and is in flight with the bytes it names; memory stays as it is. -/
def Obligations.LoadWordsStart : Prop :=
  ∀ (s : State) (i : Instr) (r : TRef) (c : Ctx), s.Issues i r c →
    (∀ fresh n w d a off p, globalLoad i = some (fresh, n, w, d, a, off) → reaches s c (formedAddress c.t a off n) n .read p →
      ∃ (u v : State) (hf : Bool), translated s v c.core c.asid (formedAddress c.t a off n) ∧ exec i s = .next (u.suspend i r s.nextOp)
        ∧ u = { v with nextOp := s.nextOp + 1, draw := u.draw
                       loads := s.loads ++ [{ op := s.nextOp, thread := r, source := .memory fresh, place := p.key, va := formedAddress c.t a off n, size := n
                                              widen := w, d := d, wbase := c.t.wbase, remote := p.home ≠ c.die, home := p.home, highFirst := hf, value := none }] })
    ∧ (∀ src n d a off, offsetLoad i = some (src, n, d, a, off) →
      let x : Int := (c.t.rd a).toNat + off.toInt * n
      x % n = 0 → 0 ≤ x → x + n ≤ (if src = .scratch then c.kernel.scratch else 65536 : Nat) →
      ∃ (u : State) (l : Load), exec i s = .next (u.suspend i r s.nextOp)
        ∧ u = { s with nextOp := s.nextOp + 1, draw := u.draw, loads := s.loads ++ [l] }
        ∧ l.op = s.nextOp ∧ l.thread = r ∧ l.source = src ∧ l.va = x.toNat ∧ l.size = n ∧ l.widen = .plain ∧ l.d = d ∧ l.wbase = c.t.wbase ∧ l.value = none
        ∧ (src = .scratch → l.place = scratchKey c.core (c.team.scratch + x.toNat)))

/-- R119, R32, R226: a load of up to 8 bytes that can be read returns: its words reach D, its pending set clears, and the bytes are those that stand where it reads, no
byte of memory changing but for the event of a hole. A 16-byte load reads its halves apart, each at its own place and either first; with the second they are joined,
the low half first, D to D+3 receive them and the pending set clears.
Choices of the model among what it rests on: log 10. -/
def Obligations.LoadsReturn : Prop :=
  ∀ (s : State) (l : Load) (m : Team), s.loads.find? (fun k => k.op = s.subj 0) = some l → s.team? l.thread.grid l.thread.team = some m → (l.widen = .sign → l.size ≤ 2) →
    (l.value = none → s.loadBlocked l = false → l.size ≤ 8 → ∃ (u : State) (bs : List Byte), exec .loadDataReturn s = .next u ∧ readsBytes s u m l 0 l.size bs
      ∧ u.threads = returned l bs s.threads ∧ u.loads = s.loads.filter (fun k => k.op ≠ l.op))
    ∧ (l.value = none → s.loadBlocked l = false → l.size = 16 → ∃ (u : State) (bs : List Byte), exec .loadDataReturn s = .next u
      ∧ readsBytes s u m l (if l.highFirst then 8 else 0) 8 bs
      ∧ u.threads = s.threads ∧ u.loads = updWhere (fun k => k.op = l.op) (fun _ => { l with value := some bs }) s.loads)
    ∧ (∀ half, l.value = some half → half.length = 8 → s.loadBlocked l = false → l.size = 16 → ∃ (u : State) (bs : List Byte), exec .loadDataReturn s = .next u
      ∧ readsBytes s u m l (if l.highFirst then 0 else 8) 8 bs
      ∧ (l.source = .scratch ∨ l.source = .konst ∨ l.source = .memory true ∨ isScratchKey (l.place + if l.highFirst then 0 else 8) = true → bs.length = 8)
      ∧ (bs.length = 8 → u.threads = returned l (if l.highFirst then bs ++ half else half ++ bs) s.threads ∧ u.loads = s.loads.filter (fun k => k.op ≠ l.op)))
    ∧ (∀ bs, l.value = some bs → bs.length = l.size →
      exec .loadDataReturn s = .next { s with loads := s.loads.filter fun k => k.op ≠ l.op, threads := returned l bs s.threads })

/-- R110, R113, R116, R120, R122, R226: a store to bytes its team does not own, or to scratch through the aperture, stands in the write-through buffer for its home,
16 bytes for a home of its die as two parts, over channel 0 for another die; bytes it owns stay with its core. No byte of memory changes at the word but for the event
of a hole met by the translation.
Choices of the model among what it rests on: log 20. -/
def Obligations.GlobalStoreWords : Prop :=
  ∀ (s : State) (i : Instr) (r : TRef) (c : Ctx) (streaming : Bool) (n : Nat) (d a : Reg) (off : BitVec 6) (p : Place),
    s.Issues i r c → globalStore i = some (streaming, n, d, a, off) →
    let va := formedAddress c.t a off n
    let bs := storedBytes c.t d n
    reaches s c va n .write p → s.lockHit c.die (.global c.asid) va n false = false → s.placeTagged p.key n = false → quiet s r →
    ((inAperture va = false → unowned s c va n) → s.pathClash c.core r p.key n (if p.home = c.die then none else some 0) = false →
      (p.home ≠ c.die → s.chanBroken (c.chan 0) = false ∧ s.chanTakes (c.chan 0) (s.here p.home) s.nextOp = true) →
      let parts := partsOf (p.home = c.die) bs
      ∃ u v : State, translated s v c.core c.asid va ∧ exec i s = .next (u.suspend i r s.nextOp)
        ∧ u = { v with nextOp := s.nextOp + parts.length, l1 := u.l1, chans := u.chans, chanOps := u.chanOps, srcEntries := u.srcEntries, net := u.net
                       wtb := s.wtb ++ buffered s.nextOp c.core r p.key (if p.home = c.die then none else some 0) parts }
        ∧ u.l1 = parts.foldl (fun ls x => if streaming = true ∨ p.aperture = true then dropLines ls c.core (p.key + x.1) x.2.length
                                           else updateLines ls c.core (p.key + x.1) x.2) s.l1
        ∧ (p.home = c.die → u.chanOps = s.chanOps ∧ u.net = s.net)
        ∧ (p.home ≠ c.die → ∃ o ∈ u.chanOps, o.op = s.nextOp ∧ o.key = c.chan 0 ∧ o.awaits = false))
    ∧ (inAperture va = false → (∀ k, va ≤ k → k < va + n → s.ownsByte c.t.ref.grid c.t.ref.team c.asid k = true) → s.pathClash c.core r p.key n none = false →
      (∀ k, k < n → s.bytesBehind c.core r.grid r.team (p.key + k) 1 = false) →
      ∃ u v : State, translated s v c.core c.asid va ∧ exec i s = .next (u.suspend i r s.nextOp) ∧ u = { v with nextOp := s.nextOp + 1, dirty := u.dirty }
        ∧ (∀ k, k < n → (u.dirty.find? fun e => e.core = c.core && e.place = p.key + k).map (·.byte) = bs[k]?)
        ∧ ∀ e, (∀ k, k < n → ¬(e.core = c.core ∧ e.place = p.key + k)) → (e ∈ u.dirty ↔ e ∈ s.dirty))

/-- R110, R114, R120, R226: STS whose checks pass stands on its way to the scratch of its core, 16 bytes as two parts, and is in its place when the write-through is
acknowledged (StoresReachTheirHome); so does a store through the aperture to the own core. No byte of memory changes at the word.
Choices of the model among what it rests on: log 20. -/
def Obligations.ScratchStoreWords : Prop :=
  ∀ (s : State) (i : Instr) (r : TRef) (c : Ctx), s.Issues i r c → quiet s r →
    (∀ sz d a off, i = .sts sz d a off →
      let x : Int := (c.t.rd a).toNat + off.toInt * sz.bytes
      let key := scratchKey c.core (c.team.scratch + x.toNat)
      let parts := partsOf true (storedBytes c.t d sz.bytes)
      x % sz.bytes = 0 → 0 ≤ x → x + sz.bytes ≤ c.kernel.scratch → s.tagHit r.grid r.team x.toNat sz.bytes = false → s.scratchLocked c x.toNat sz.bytes = false →
      s.pathClash c.core r key sz.bytes none = false →
      ∃ u : State, exec i s = .next (u.suspend i r s.nextOp)
        ∧ u = { s with nextOp := s.nextOp + parts.length, l1 := u.l1, wtb := s.wtb ++ buffered s.nextOp c.core r key none parts } ∧ u.l1.Sublist s.l1)
    ∧ (∀ streaming n d a off p, globalStore i = some (streaming, n, d, a, off) → reaches s c (formedAddress c.t a off n) n .write p →
      inAperture (formedAddress c.t a off n) = true → scratchCore p.key = c.core → p.home = c.die → s.placeTagged p.key n = false →
      s.lockHit c.die (.global c.asid) (formedAddress c.t a off n) n false = false → s.pathClash c.core r p.key n none = false →
      let parts := partsOf true (storedBytes c.t d n)
      ∃ u : State, exec i s = .next (u.suspend i r s.nextOp)
        ∧ u = { s with nextOp := s.nextOp + parts.length, l1 := u.l1, wtb := s.wtb ++ buffered s.nextOp c.core r p.key none parts } ∧ u.l1.Sublist s.l1)

/-- R113, R114, R116, R122, R17: a write-through for a home on its own die that no earlier store of the core stands before reaches it: its bytes are in memory or scratch,
but for those that its team owns and that stay with the core; every other byte reads as before, the lines the core and the die keep show them, and it leaves the buffer.
Choices of the model among what it rests on: log 12. -/
def Obligations.StoresReachTheirHome : Prop :=
  ∀ (s : State) (w : WriteThrough), s.wtb.find? (fun x => x.op = s.subj 0) = some w → w.chan = none → s.storeBehind w = false → s.inHole w.place = false →
    (∀ k, k < w.bytes.length → s.inHole (w.place + k) = false) → s.placeTagged w.place w.bytes.length = false →
    ∃ u : State, exec .writeThroughAck s = .next u ∧ u = { s with mem := u.mem, wtb := s.wtb.filter (fun x => x.op ≠ w.op), l1 := u.l1, rdc := u.rdc }
      ∧ (∀ k, k < w.bytes.length → memGet u.mem (w.place + k) = if k ∈ w.skip then memGet s.mem (w.place + k) else w.bytes.getD k 0)
      ∧ (∀ k, k < w.place ∨ w.place + w.bytes.length ≤ k → memGet u.mem k = memGet s.mem k)
      ∧ (w.skip = [] → u.l1 = updateLines s.l1 w.core w.place w.bytes ∧ u.rdc = updateLines s.rdc (dieOfCore w.core) w.place w.bytes)

/-- R235, R236, R247: a fence is performed once the earlier accesses it names are; an acquire then drops, by its scope, the lines of the core that do not lie in
intervals it holds, and the die's lines of remote homes; a release drops nothing. A fence that is not performed yet stands, and its thread goes on. PREF changes
nothing but the die's cache and, where it reads into a hole, the event queue.
Choices of the model among what it rests on: log 52. -/
def Obligations.FenceAndPrefetchWords : Prop :=
  ∀ (s : State) (i : Instr) (r : TRef) (c : Ctx), s.Issues i r c →
    (∀ l sc, (i = .fenceAcq l sc ∨ i = .fenceAr l sc) → s.isMember r.grid c.core sc = true → s.readsReturned r s.nextOp = true →
      (sc ≠ .team → s.seenPending r = false) → (i = .fenceAr l sc → s.released r c.core sc s.nextOp = true) →
      ∃ u : State, exec i s = .next (u.suspend i r s.nextOp) ∧ u = { s with nextOp := s.nextOp + 1, l1 := u.l1, rdc := u.rdc }
        ∧ (sc = .team → u.l1 = s.l1 ∧ u.rdc = s.rdc)
        ∧ (sc ≠ .team → u.l1 = s.l1.filter fun x => x.owner ≠ c.core
            || (List.range 128).all fun k => s.intervals.any fun v => v.core == some c.core && v.asid == x.asid && overlap (x.va + k) 1 v.base v.len)
        ∧ (sc = .cluster ∨ sc = .die → u.rdc = s.rdc)
        ∧ (sc = .package ∨ sc = .system → u.rdc = s.rdc.filter fun x => x.owner ≠ c.die)
        ∧ ∀ n, sc = .named n → u.rdc = s.rdc.filter fun x => x.owner ≠ c.die || !((s.scopeCores r.grid n).any fun q => dieOfCore q = x.home))
    ∧ (∀ l sc, i = .fenceRel l sc → s.isMember r.grid c.core sc = true → s.released r c.core sc s.nextOp = true →
      exec i s = .next (({ s with nextOp := s.nextOp + 1 } : State).suspend i r s.nextOp))
    ∧ (∀ l sc acq rel, ((i = .fenceAcq l sc ∧ acq = true ∧ rel = false) ∨ (i = .fenceRel l sc ∧ acq = false ∧ rel = true) ∨ (i = .fenceAr l sc ∧ acq = true ∧ rel = true)) →
      s.isMember r.grid c.core sc = true →
      ((acq = true ∧ (s.readsReturned r s.nextOp = false ∨ (sc ≠ .team ∧ s.seenPending r = true))) ∨ (rel = true ∧ s.released r c.core sc s.nextOp = false)) →
      exec i s = .next (({ s with nextOp := s.nextOp + 1, fences := s.fences ++ [{ op := s.nextOp, thread := r, acq := acq, rel := rel, scope := sc }] } : State).suspend i r s.nextOp))
    ∧ (∀ l a b, i = .pref l a b →
      ∃ u : State, exec i s = .next (u.suspend i r s.nextOp)
        ∧ u = { s with nextOp := s.nextOp + 1, rdc := u.rdc, draw := u.draw, mem := u.mem, eventQ := u.eventQ }
        ∧ ((∀ v, (c.t.rd64 a).toNat < v + 128 → v < (c.t.rd64 a).toNat + 2 ^ 20 → (∀ k ∈ s.walkKeys c.core c.asid v, s.inHole (devKey k) = false)
              ∧ ∀ p, s.translate c.core c.asid c.system v .read = .ok p → s.inHole (p.key / 128 * 128) = false) →
            u = { s with nextOp := s.nextOp + 1, rdc := u.rdc })
        ∧ (u.rdc.filter fun x => x.owner ≠ c.die) = s.rdc.filter (fun x => x.owner ≠ c.die)
        ∧ ((s.rdc.filter fun x => x.owner = c.die).length + 8193 ≤ 262144 → s.rdc <+: u.rdc))

/-- R109, R119, R120, R278: an access that is misaligned suspends its thread with ALIGNMENT; an aligned one whose address is not canonical or whose offset leaves its
space with PERMISSION; a page that is not present with NOT_PRESENT and its level. No access is made; a walk that reads a table in a hole raises the event of R17.
Choices of the model among what it rests on: log 70. -/
def Obligations.AccessChecks : Prop :=
  ∀ (s : State) (i : Instr) (r : TRef) (c : Ctx), s.Issues i r c →
    (∀ a off n right, (∃ fresh w d, globalLoad i = some (fresh, n, w, d, a, off) ∧ right = Right.read)
        ∨ (∃ streaming d, globalStore i = some (streaming, n, d, a, off) ∧ right = .write) →
      let va := formedAddress c.t a off n
      (va % n ≠ 0 → exec i s = .next (s.modThread r fun t => { t with status := .stopped (.fail { cause := .alignment, addr := va }) }))
      ∧ (va % n = 0 → ¬canonical va → exec i s = .next (s.modThread r fun t => { t with status := .stopped (.fail { cause := .permission, addr := va }) }))
      ∧ (∀ level, va % n = 0 → canonical va → isFabric va = false → inAperture va = false → s.lookup c.core c.asid va = .absent level →
        ∃ v : State, v = { s with draw := v.draw, mem := v.mem, eventQ := v.eventQ } ∧ ((∀ k ∈ s.walkKeys c.core c.asid va, s.inHole (devKey k) = false) → v = s)
          ∧ exec i s = .next (v.modThread r fun t =>
            { t with status := .stopped (.fail { cause := .notPresent, addr := va, kind := if right = .read then 0 else 1, level := level, walked := true }) })))
    ∧ (∀ a off n limit, (∃ src d, offsetLoad i = some (src, n, d, a, off) ∧ limit = if src = .scratch then c.kernel.scratch else 65536)
        ∨ (∃ sz d, i = .sts sz d a off ∧ n = sz.bytes ∧ limit = c.kernel.scratch) →
      let x : Int := (c.t.rd a).toNat + off.toInt * n
      (x % n ≠ 0 → exec i s = .next (s.modThread r fun t => { t with status := .stopped (.fail { cause := .alignment, addr := (x % 2 ^ 32).toNat }) }))
      ∧ (x % n = 0 → (x < 0 ∨ limit < x + n) →
        exec i s = .next (s.modThread r fun t => { t with status := .stopped (.fail { cause := .permission, addr := (x % 2 ^ 32).toNat }) })))

namespace Sys2Proof.Statements

/-! ## Hurdles and atomics (10) -/

/-- The hurdle's fields after an arrival of n (R203). -/
def afterArrival (n : Nat) (h : HurdleWords) : HurdleWords :=
  if h.arrivals < n then { h with arrivals := 0, flags := h.flags ||| 1 }
  else if h.arrivals = n ∧ h.bytes = 0 ∧ h.flags % 2 = 0 then { h with phase := (h.phase + 1) % 2 ^ 32, arrivals := h.reload, bytes := 0 }
  else { h with arrivals := h.arrivals - n }

/-- The hurdle's fields after EXPECT of b bytes (R203). -/
def afterExpect (b : Nat) (h : HurdleWords) : HurdleWords :=
  if 0x7FFFFFFF < h.bytes + b then { h with bytes := 0x7FFFFFFF, flags := h.flags ||| 1 }
  else if h.arrivals = 0 ∧ h.bytes + b = 0 ∧ h.flags % 2 = 0 then { h with phase := (h.phase + 1) % 2 ^ 32, arrivals := h.reload, bytes := 0 }
  else { h with bytes := h.bytes + b }

/-- The count an arrival names: 1 for field 0. -/
def arrivalCount (c : Ctx) (b : Reg) : Nat := if b = 0 then 1 else (c.t.rd b).toNat

/-- A word that makes an event on a hurdle: the register of its offset, the scopes it records, its event, and what it asks of its operand and of earlier accesses. -/
def hurdleWord (s : State) (c : Ctx) : Instr → Option (Reg × List Scope × (HurdleWords → HurdleWords) × Prop)
  | .arriveRel _ sc a b => some (a, [sc], afterArrival (arrivalCount c b), 1 ≤ arrivalCount c b ∧ arrivalCount c b ≤ 65535
      ∧ s.isMember c.t.ref.grid c.core sc = true ∧ s.released c.t.ref c.core sc s.nextOp = true)
  | .arriveRlx _ a b => some (a, [], afterArrival (arrivalCount c b), 1 ≤ arrivalCount c b ∧ arrivalCount c b ≤ 65535)
  | .expect _ a b => some (a, [], afterExpect (c.t.rd b).toNat, (c.t.rd b).toNat ≤ 0x7FFFFFFF)
  | _ => none

/-- An offset of the team's scratch at which a hurdle can stand. -/
def hurdleAddress (c : Ctx) (off : Nat) : Prop := off % 16 = 0 ∧ off + 16 ≤ c.kernel.scratch

/-- The place of an offset of the thread's team scratch. -/
def scratchPlace (c : Ctx) (off : Nat) : Nat := scratchKey c.team.lastCore (c.team.scratch + off)

/-- Every byte of memory outside n bytes at a place reads as before. -/
def keeps (s u : State) (key n : Nat) : Prop := ∀ k, k < key ∨ key + n ≤ k → memGet u.mem k = memGet s.mem k

/-- The tags of every hurdle but the one at an offset of a thread's team. -/
def otherTags (s : State) (r : TRef) (off : Nat) : List HurdleTag := s.hurdles.filter fun h => !(h.grid == r.grid && h.team == r.team && h.off == off)

/-- No thread stands at a word of the batch to come, and no request belongs to it (R221). -/
def newBatch (s : State) : Prop := s.batchWaits s.nextOp = false ∧ ∀ a ∈ s.atoms, a.batch ≠ s.nextOp

/-- The new value of an atomic on numbers of its width (R220). -/
def atomResult (op : AtomOp) (w : AtomWidth) (v e old : Nat) : Nat :=
  let bits := 8 * w.bytes
  let signed (x : Nat) : Int := signedField x bits
  let half (f : Fmt) : Nat := arith f 0 (old / 2 ^ 16 % 2 ^ 16) (v / 2 ^ 16 % 2 ^ 16) 0 * 2 ^ 16 + arith f 0 (old % 2 ^ 16) (v % 2 ^ 16) 0
  match op with
  | .add => (old + v) % 2 ^ bits
  | .min => if signed v < signed old then v else old
  | .max => if signed old < signed v then v else old
  | .minu => min old v
  | .maxu => max old v
  | .and => old &&& v
  | .or => old ||| v
  | .xor => old ^^^ v
  | .xchg => v
  | .cas => if old = e then v else old
  | .fadd => match w with
    | .w32 => arith fp32 0 old v 0
    | .w64 => arith fp64 0 old v 0
    | .f16x2 => half fp16
    | .bf16x2 => half bf16
  | .fmin => arith fp32 5 old v 0
  | .fmax => arith fp32 6 old v 0
  | .inc => if v ≤ old then 0 else old + 1
  | .dec => if old = 0 ∨ v < old then v else old - 1

/-- A dirty byte of an interval, in the core that holds it (R122). -/
def inInterval (v : Interval) (e : Dirty) : Bool := e.asid == v.asid && decide (v.base ≤ e.va ∧ e.va < v.base + v.len) && v.core == some e.core

/-- The dirty bytes of an interval stand at their places, and every other byte reads as before, where none of them lies in a hole and no two stand for one place. -/
def writtenBack (s u : State) (v : Interval) : Prop :=
  (∀ e ∈ s.dirty, inInterval v e = true → s.inHole e.place = false ∧ ∀ e' ∈ s.dirty, inInterval v e' = true → e'.place = e.place → e' = e) →
    u.eventQ = s.eventQ ∧ (∀ e ∈ s.dirty, inInterval v e = true → memGet u.mem e.place = e.byte)
      ∧ ∀ k, (∀ e ∈ s.dirty, inInterval v e = true → e.place ≠ k) → memGet u.mem k = memGet s.mem k

/-- An atomic word: the request its registers make, whether it returns, D, A, and the channel it names. -/
def atomWordOf (c : Ctx) : Instr → Option (AtomReq × Bool × Reg × Reg × Option Nat)
  | .atom op _ w d a => some (c.t.atomReq op w d, true, d, a, none)
  | .red op w d a => some (c.t.atomReq op w d, false, d, a, none)
  | .ratom op _ ch d a => some (c.t.atomReq (ratomKind op).1 (ratomKind op).2 d, true, d, a, some ch.toNat)
  | _ => none

end Sys2Proof.Statements

/-! ## Hurdles (10) -/

/-- R201, R202, R203, R205, R206, R207: ARRIVE.REL, ARRIVE.RLX and EXPECT on a tagged hurdle nobody waits on change its fields as the events say and record the scope;
HINIT makes a hurdle of count arrivals that has collected no scopes, or untags with field 0. Nothing else changes: every byte outside the object reads as before,
and every other hurdle's tag stays. -/
def Obligations.HurdleWordsAct : Prop :=
  ∀ (s : State) (i : Instr) (r : TRef) (c : Ctx), s.Issues i r c →
    (∀ a scs f ok tag, hurdleWord s c i = some (a, scs, f, ok) → ok →
      let off := (c.t.rd a).toNat
      let h := s.hurdle c.team off
      hurdleAddress c off → s.tag? r.grid r.team off = some tag → s.waitersOf r.grid r.team off = [] →
      ∃ u : State, exec i s = .next (u.suspend i r s.nextOp) ∧ u = { s with nextOp := s.nextOp + 1, mem := u.mem, hurdles := u.hurdles }
        ∧ u.hurdle c.team off = f h ∧ keeps s u (scratchPlace c off) 16 ∧ otherTags u r off = otherTags s r off
        ∧ ∃ tag', u.tag? r.grid r.team off = some tag'
          ∧ ((f h).phase = h.phase → tag'.now = { scopes := tag.now.scopes ++ scs, channels := tag.now.channels } ∧ tag'.past = tag.past)
          ∧ ((f h).phase ≠ h.phase → tag'.now = { scopes := [], channels := [] } ∧ tag'.past = tag.past ++ [(h.phase, { scopes := tag.now.scopes ++ scs, channels := tag.now.channels })]))
    ∧ (∀ l a b, i = .hinit l a b →
      let off := (c.t.rd a).toNat
      let v := (c.t.rd b).toNat
      hurdleAddress c off → s.scratchLocked c off 16 = false → s.waitersOf r.grid r.team off = [] → (b ≠ 0 → v % 2 ^ 16 ≠ 0 ∧ v / 2 ^ 16 % 2 ^ 15 = 0) →
      ∃ u : State, exec i s = .next (u.suspend i r s.nextOp) ∧ u = { s with nextOp := s.nextOp + 1, mem := u.mem, hurdles := u.hurdles }
        ∧ otherTags u r off = otherTags s r off
        ∧ (b = 0 → u.mem = s.mem ∧ u.tag? r.grid r.team off = none)
        ∧ (b ≠ 0 → u.hurdle c.team off = { phase := 0, arrivals := v % 2 ^ 16, reload := v % 2 ^ 16, bytes := 0, flags := if v / 2 ^ 31 = 1 then 16 else 0 }
          ∧ keeps s u (scratchPlace c off) 16
          ∧ u.tag? r.grid r.team off = some { grid := r.grid, team := r.team, off := off, now := { scopes := [], channels := [] }, past := [] }))

/-- R208 to R212: WAITP goes on with word 3 in D once the awaited phase has completed, takes HURDLE_ERROR on OVER and WAIT_TIMEOUT with a limit of 0, and waits
otherwise, 1,024 die cycles for each unit; an arrival that completes the phase lets a waiter go on; HTEST reads PHASE and word 3. -/
def Obligations.HurdleWaits : Prop :=
  ∀ (s : State) (i : Instr) (r : TRef) (c : Ctx), s.Issues i r c →
    (∀ d a b tag, i = .waitp d a b → hasPending c.t = false →
      let off := (c.t.rd a).toNat
      let h := s.hurdle c.team off
      let p := (c.t.rd d).toNat
      let ahead := (h.phase + 2 ^ 32 - p) % 2 ^ 32
      let passed : Prop := 0 < ahead ∧ ahead < 2 ^ 31
      hurdleAddress c off → s.tag? r.grid r.team off = some tag → s.seenPending r = false →
      (passed → ∃ u : State, exec i s = .next u ∧ u = { s with nextOp := s.nextOp + 1, l1 := u.l1, rdc := u.rdc, threads := u.threads }
          ∧ u.threads = updWhere (fun t => t.ref = r) (fun t => { t.wr d (word h.flags) with status := .stopped .pass }) s.threads)
      ∧ (¬passed → h.flags % 2 = 1 → exec i s = .next (s.modThread r fun t => { t with status := .stopped (.fail { cause := .hurdleError, addr := off }) }))
      ∧ (¬passed → h.flags % 2 = 0 → b ≠ 0 → c.t.rd b = 0 →
        exec i s = .next (s.modThread r fun t => { t with status := .stopped (.fail { cause := .waitTimeout, addr := off }) }))
      ∧ (¬passed → h.flags % 2 = 0 → (b ≠ 0 → c.t.rd b ≠ 0) → exec i s = .next (({ s with nextOp := s.nextOp + 1 } : State).suspend i r s.nextOp
          (.waitHurdle off p d (if b = 0 then none else some (s.clockOf c.die + 1024 * (c.t.rd b).toNat))))))
    ∧ (∀ d a tag, i = .htest d a → hurdleAddress c (c.t.rd a).toNat → s.tag? r.grid r.team (c.t.rd a).toNat = some tag →
      let h := s.hurdle c.team (c.t.rd a).toNat
      exec i s = .next ((({ s with nextOp := s.nextOp + 1 } : State).modThread r fun t => (t.wrAt d 0 (word h.phase)).wrAt d 1 (word h.flags)).suspend i r s.nextOp))
    ∧ (∀ l a q cq d limit tag, i = .arriveRlx l a 0 →
      let off := (c.t.rd a).toNat
      let h := s.hurdle c.team off
      hurdleAddress c off → s.tag? r.grid r.team off = some tag → s.waitersOf r.grid r.team off = [q] → s.ctx? q = some cq →
      cq.t.status = .waitHurdle off h.phase d limit → h.arrivals = 1 → h.bytes = 0 → h.flags % 2 = 0 →
      ∃ u : State, exec i s = .next u ∧ u.thread? q = some { (cq.t.wr d (word h.flags)).step with status := .ready })

/-- R212, R279, R281: a WAITP whose deadline has passed takes WAIT_TIMEOUT with the hurdle's offset; one whose deadline is to come waits on. -/
def Obligations.WaitTimeouts : Prop :=
  ∀ (s : State) (r : TRef) (c : Ctx) (off p : Nat) (d : Reg) (limit : Nat), s.ctx? r = some c → c.t.status = .waitHurdle off p d (some limit) →
    (s.clockOf c.die < limit → exec (.waitpTimeout r) s = .next s)
    ∧ (∀ entry, limit ≤ s.clockOf c.die → c.kernel.trap = some entry → c.t.trap = none → c.team.killed = none → hasPending c.t = false →
      s.inFaultWait r.grid r.team = false →
      exec (.waitpTimeout r) s = .next (s.modThread r fun t =>
        { t with trap := some { cause := 0x0C, tpc := t.pc, taddr := off, tinfo := false, wbase := t.wbase, depth := t.stack.length, gval := t.gval, gcnt := t.gcnt },
                 pc := entry, gcnt := 0, windows := [], status := .ready }))

/-! ## Atomics (10) -/

/-- R218, R219, R221: ATOM, RED and RATOM whose checks pass suspend their thread and stand as one request at or on the way to the unit of the place they name:
directly on the issuing die, over channel 0 for another die, over the named channel for RATOM, also to a region of another device. Their own registers stay.
Choices of the model among what it rests on: log 18. -/
def Obligations.AtomicWordsIssue : Prop :=
  ∀ (s : State) (i : Instr) (r : TRef) (c : Ctx) (q : AtomReq) (returns : Bool) (d a : Reg) (ch : Option Nat),
    s.Issues i r c → atomWordOf c i = some (q, returns, d, a, ch) → s.loadsHeld r = false → newBatch s →
    (∀ p, s.atomAccess c (c.t.rd64 a) q = .ok p → s.atomChecks c (c.t.rd64 a) q (.ok p) = [] → (ch ≠ none → isFabric (c.t.rd64 a).toNat = false) →
      let way := if ch = none ∧ p.home ≠ c.die then some 0 else ch
      (∀ k, way = some k → s.chanBroken (c.chan k) = false ∧ s.chanTakes (c.chan k) (s.here p.home) s.nextOp = true ∧ s.storesBehind c.core r p.key 8 = false) →
      ∃ (u : State) (arrival : Bool), exec i s = .next (u.suspend i r s.nextOp) ∧ u.threads = s.threads
        ∧ u.atoms = s.atoms ++ [{ op := s.nextOp, batch := s.nextOp, lane := 0, thread := r, place := p.key, va := (c.t.rd64 a).toNat, dst := s.here p.home, req := .atom q
                                  returns := returns, d := d, wbase := c.t.wbase, chan := way, sent := true, explicit := ch ≠ none, arrival := arrival
                                  performed := false, answer := none }]
        ∧ (isScratchKey p.key = false → arrival = false)
        ∧ ((∀ e ∈ s.dirty, e.core ≠ c.core) → quiet s r → inAperture (c.t.rd64 a).toNat = true → arrival = s.isArrival p.key (.atom q))
        ∧ ((∀ e ∈ s.dirty, e.core ≠ c.core) → quiet s r → ∃ v : State, translated s v c.core c.asid (c.t.rd64 a).toNat ∧ u.mem = v.mem ∧ u.wtb = s.wtb ∧ u.hurdles = s.hurdles)
        ∧ ∀ k, way = some k → ∃ o ∈ u.chanOps, o.op = s.nextOp ∧ o.key = c.chan k ∧ o.awaits = returns)
    ∧ (∀ k, ch = some k → isFabric (c.t.rd64 a).toNat = true → s.fabricOk (c.t.rd64 a).toNat = true → (c.t.rd64 a).toNat % q.width.bytes = 0 →
      canonical (c.t.rd64 a).toNat → s.chanBroken (c.chan k) = false → s.chanTakes (c.chan k) (fabricDst (c.t.rd64 a).toNat) s.nextOp = true →
      ∃ u : State, exec i s = .next (u.suspend i r s.nextOp) ∧ u.threads = s.threads ∧ (∃ x ∈ u.atoms, x.op = s.nextOp ∧ x.req = .atom q ∧ x.chan = some k)
        ∧ ∃ o ∈ u.chanOps, o.op = s.nextOp ∧ o.key = c.chan k ∧ o.awaits = true)

/-- R202, R220, R221, R224: the unit performs a request on memory or on plain scratch: the bytes at the place become the operation's result on the old value, every
other byte reads as before, and the old value stands for its return; a RED leaves. What R224 admits on an exported hurdle is an arrival, and the old value is PHASE;
an arrival that finds its bytes untagged, and an atomic that is none and finds them tagged meanwhile, change nothing; that one that returns is answered with the
bytes as they stand is the model's choice (log 50). -/
def Obligations.AtomicsArePerformed : Prop :=
  ∀ (s : State) (x : AtomOpRec) (q : AtomReq), s.batchAt (s.subj 0) (s.subj 1) = [x] → x.req = .atom q → atomPairing q.op q.width = true →
    s.atomBehind x = false → s.batchWaits (s.subj 0) = false →
    let n := q.width.bytes
    let v := q.v.toNat % 2 ^ (8 * n)
    let e := q.expected.toNat % 2 ^ (8 * n)
    let after (old : Nat) : List AtomOpRec := if x.returns then updWhere (fun b => b.op = x.op) (fun b => { b with performed := true, answer := some (BitVec.ofNat 64 old) }) s.atoms
      else s.atoms.filter fun b => b.op ≠ x.op
    (s.scratchOwner x.place n = none → s.inHole x.place = false → x.arrival = false →
      ∃ u : State, exec .atomicService s = .next u ∧ u = { s with mem := u.mem, l1 := u.l1, rdc := u.rdc, atoms := after (leNat (memRead s.mem x.place n)) }
        ∧ leNat (memRead u.mem x.place n) = atomResult q.op q.width v e (leNat (memRead s.mem x.place n)) ∧ keeps s u x.place n)
    ∧ (∀ m off, s.scratchOwner x.place n = some (m, off) → m.inPlace = true → s.tagHit m.grid m.idx off n = false → x.arrival = false →
      ∃ u : State, exec .atomicService s = .next u ∧ u = { s with mem := u.mem, l1 := u.l1, rdc := u.rdc, atoms := after (leNat (s.teamRead m off n)) }
        ∧ leNat (u.teamRead m off n) = atomResult q.op q.width v e (leNat (s.teamRead m off n)) ∧ keeps s u (scratchKey m.lastCore (m.scratch + off)) n)
    ∧ (s.scratchOwner x.place n = none → s.inHole x.place = false → x.arrival = true →
      ∃ u : State, exec .atomicService s = .next u ∧ u = { s with l1 := u.l1, rdc := u.rdc, atoms := after (leNat (memRead s.mem x.place n)) })
    ∧ (∀ m off, s.scratchOwner x.place n = some (m, off) →
      (s.tagHit m.grid m.idx off n = false ∧ x.arrival = true) ∨ (s.tagHit m.grid m.idx off n = true ∧ s.arrivalAdmitted m off q = false) →
      ∃ u : State, exec .atomicService s = .next u ∧ u = { s with l1 := u.l1, rdc := u.rdc, atoms := after (leNat (s.teamRead m off n)) })
    ∧ (∀ m off tag, s.scratchOwner x.place n = some (m, off) → m.inPlace = true → s.tagHit m.grid m.idx off n = true → s.tag? m.grid m.idx off = some tag →
      s.arrivalAdmitted m off q = true → s.team? m.grid m.idx = some m → s.waitersOf m.grid m.idx off = [] → q.v.toNat % 65536 ≠ 0 →
      ∃ u : State, exec .atomicService s = .next u ∧ u = { s with mem := u.mem, hurdles := u.hurdles, l1 := u.l1, rdc := u.rdc, atoms := after (s.hurdle m off).phase }
        ∧ u.hurdle m off = afterArrival (q.v.toNat % 65536) (s.hurdle m off) ∧ keeps s u (scratchKey m.lastCore (m.scratch + off)) 16
        ∧ otherTags u { grid := m.grid, team := m.idx, tid := 0 } off = otherTags s { grid := m.grid, team := m.idx, tid := 0 } off)

/-- R32, R221: an atomic's old value comes back to D under the window base it issued with, in a pair for 64 bits; its pending set clears and its request leaves. -/
def Obligations.AtomicsReturn : Prop :=
  ∀ (s : State) (x : AtomOpRec) (q : AtomReq) (v : W64), s.atoms.find? (fun b => b.op = s.subj 0) = some x → x.answer = some v → x.req = .atom q →
    (∀ t ∈ s.threads, t.ref = x.thread → t.status ≠ .interlock) →
    exec .atomicReturn s = .next { s with
      atoms := s.atoms.filter fun b => b.op ≠ x.op
      threads := updWhere (fun t => t.ref = x.thread) (fun t =>
        ({ t.wrUnder x.wbase x.d (if q.width = .w64 then [word v.toNat, word (v.toNat / 2 ^ 32 : Nat)] else [word v.toNat]) with
            windows := clearSet x.op t.windows } : Thread).settle) s.threads }

/-- R266, R227: RST whose checks pass goes out on its channel: to a place of this package it also stands in the write-through buffer as an explicit word, to a
region of another device it is an operation of the channel alone.
Choices of the model among what it rests on: log 18. -/
def Obligations.ChannelStores : Prop :=
  ∀ (s : State) (r : TRef) (c : Ctx) (ch : BitVec 4) (sz : Size) (d a : Reg) (off : BitVec 6),
    s.Issues (.rst ch sz d a off) r c → quiet s r → s.chanBroken (c.chan ch.toNat) = false →
    let va := formedAddress c.t a off sz.bytes
    (∀ p, va % sz.bytes = 0 → canonical va → s.resolve c.core c.asid c.system va sz.bytes .write = .ok p →
      (p.home = c.die → s.lockHit c.die (.global c.asid) va sz.bytes false = false) →
      (inAperture va = false → s.ownedElsewhere r.grid r.team c.asid va sz.bytes true = false) → s.placeTagged p.key sz.bytes = false →
      s.chanTakes (c.chan ch.toNat) (s.here p.home) s.nextOp = true → s.pathClash c.core r p.key sz.bytes (some ch.toNat) = false →
      ∃ u : State, exec (.rst ch sz d a off) s = .next (u.suspend (.rst ch sz d a off) r s.nextOp) ∧ u.threads = s.threads
        ∧ u.wtb = s.wtb ++ [{ op := s.nextOp, core := c.core, thread := r, place := p.key, bytes := storedBytes c.t d sz.bytes, chan := some ch.toNat, explicit := true, seen := [] }]
        ∧ ∃ o ∈ u.chanOps, o.op = s.nextOp ∧ o.key = c.chan ch.toNat ∧ o.awaits = false)
    ∧ (isFabric va = true → s.fabricOk va = true → va % sz.bytes = 0 → canonical va → s.chanTakes (c.chan ch.toNat) (fabricDst va) s.nextOp = true →
      ∃ u : State, exec (.rst ch sz d a off) s = .next (u.suspend (.rst ch sz d a off) r s.nextOp) ∧ u.mem = s.mem ∧ u.threads = s.threads ∧ u.wtb = s.wtb
        ∧ ∃ o ∈ u.chanOps, o.op = s.nextOp ∧ o.key = c.chan ch.toNat ∧ o.awaits = false)

/-- R215, R216: QWAIT blocks its thread at its node with a request to link it; WAKE releases, sends its count to the queue's unit and awaits the answer by
interlock; the unit links a node into an empty queue with NEXT and WOKEN zero. -/
def Obligations.WaiterQueues : Prop :=
  ∀ (s : State) (r : TRef) (c : Ctx),
    (∀ a b p node, s.Issues (.qwait a b) r c → hasPending c.t = false → quiet s r → newBatch s → s.seenPending r = false → (∀ e ∈ s.dirty, e.core ≠ c.core) →
      let n := (c.t.rd b).toNat
      s.queueChecks c (c.t.rd64 a) = ([], p) → s.queueAccess c n = .ok node → n % 16 = 0 → (s.localBytes c).1 ≤ n → n + 16 ≤ (s.localBytes c).1 + (s.localBytes c).2 →
      s.lockHit c.die (.global c.asid) n 16 false = false → s.ownedElsewhere r.grid r.team c.asid n 16 true = false → p.home = c.die →
      ∃ u v w : State, translated s v c.core c.asid (c.t.rd64 a).toNat ∧ translated v w c.core c.asid n
        ∧ exec (.qwait a b) s = .next (u.suspend (.qwait a b) r s.nextOp (.waitQueue node.key)) ∧ u = { w with nextOp := s.nextOp + 1, l1 := u.l1, rdc := u.rdc, atoms := u.atoms }
        ∧ ∃ x, u.atoms = s.atoms ++ [x] ∧ x.op = s.nextOp ∧ x.req = .link node.key n ∧ x.place = p.key ∧ x.thread = r)
    ∧ (∀ d a b p, s.Issues (.wake d a b) r c → newBatch s → s.queueChecks c (c.t.rd64 a) = ([], p) → p.home = c.die → s.released r c.core .package s.nextOp = true →
      ∃ (u v : State) (x : AtomOpRec), translated s v c.core c.asid (c.t.rd64 a).toNat
        ∧ exec (.wake d a b) s = .next (u.suspend (.wake d a b) r s.nextOp .interlock) ∧ u = { v with nextOp := s.nextOp + 1, atoms := s.atoms ++ [x] }
        ∧ x.op = s.nextOp ∧ x.req = .wake (c.t.rd b).toNat ∧ x.place = p.key ∧ x.returns = true ∧ x.d = d)
    ∧ (∀ x node va, s.batchAt (s.subj 0) (s.subj 1) = [x] → x.req = .link node va → s.atomBehind x = false → s.batchWaits (s.subj 0) = false →
      (∀ k < 16, s.inHole (x.place + k) = false ∧ s.inHole (node + k) = false) → (node + 16 ≤ x.place ∨ x.place + 16 ≤ node) → va < 2 ^ 64 →
      leNat (memRead s.mem (x.place + 8) 8) = 0 →
      ∃ u : State, exec .atomicService s = .next u ∧ leNat (memRead u.mem x.place 8) = va ∧ leNat (memRead u.mem (x.place + 8) 8) = va
        ∧ leNat (memRead u.mem node 8) = 0 ∧ leNat (memRead u.mem (node + 8) 4) = 0
        ∧ ∀ k, (k < x.place ∨ x.place + 16 ≤ k) → (k < node ∨ node + 16 ≤ k) → memGet u.mem k = memGet s.mem k)

/-- R121 to R127: OCLAIM enters an interval; ORELS writes its dirty bytes back and removes it; OMOVE does so and gives it to another team of the grid on the die.
The bytes written back stand at their places, every other byte of memory reads as before, and no other dirty byte goes.
Choices of the model among what it rests on: logs 24 and 56. -/
def Obligations.OwnershipWords : Prop :=
  ∀ (s : State) (i : Instr) (r : TRef) (c : Ctx), s.Issues i r c → quiet s r →
    (∀ l a b, i = .oclaim l a b →
      let base := (c.t.rd64 a).toNat
      let len := (c.t.rd b).toNat % 2 ^ 31
      let writable := decide (2 ^ 31 ≤ (c.t.rd b).toNat)
      canonical base → 0 < len → canonical (base + len - 1) → s.rangeFails c.core c.asid c.system base len (.claim writable) = [] → s.awayFromDie c base len = false →
      (∀ v ∈ s.intervals, v.asid = c.asid → overlap base len v.base v.len = true → v.core ≠ some c.core ∧ ((v.grid = r.grid ∧ v.team = r.team) ∨ (v.writable = false ∧ writable = false))) →
      s.lockHit c.die (.global c.asid) base len false = false → s.coreIntervals c.core < 32 → s.homeIntervals c.die < 4096 → s.rangeBehind c base len = false →
      ∃ u : State, exec i s = .next (u.suspend i r s.nextOp) ∧ u = { s with nextOp := s.nextOp + 1, l1 := u.l1, intervals := s.intervals ++ [{ asid := c.asid, base := base, len := len, writable := writable, grid := r.grid, team := r.team, core := some c.core, home := c.die }] }
        ∧ u.l1.Sublist s.l1)
    ∧ (∀ l a v, i = .orels l a → s.heldInterval c (c.t.rd64 a).toNat = some v →
      ∃ u : State, exec i s = .next (u.suspend i r s.nextOp)
        ∧ u = { s with nextOp := s.nextOp + 1, mem := u.mem, l1 := u.l1, rdc := u.rdc, eventQ := u.eventQ
                       intervals := s.intervals.filter (fun x => x ≠ v), dirty := s.dirty.filter fun e => !inInterval v e }
        ∧ writtenBack s u v)
    ∧ (∀ l a b v core, i = .omove l a b → s.heldInterval c (c.t.rd64 a).toNat = some v → s.moveTarget c v (c.t.rd b).toNat = some core → s.released r c.core .die s.nextOp = true →
      ∃ u : State, exec i s = .next (u.suspend i r s.nextOp)
        ∧ u = { s with nextOp := s.nextOp + 1, mem := u.mem, l1 := u.l1, rdc := u.rdc, eventQ := u.eventQ
                       intervals := updWhere (fun x => x = v) (fun x => { x with team := (c.t.rd b).toNat, core := some core }) s.intervals
                       dirty := s.dirty.filter fun e => !inInterval v e }
        ∧ writtenBack s u v)

namespace Sys2Proof.Statements

/-! ## Copies and engines (07, 08, 09, 12) -/

/-- The number in n bytes of a team's scratch. -/
def scratchNumber (s : State) (m : Team) (off n : Nat) : Nat := leNat (s.teamRead m off n)

/-- A descriptor of n bytes aligned to n lies in scratch at the offset a register holds. -/
def descriptorAt (c : Ctx) (a : Reg) (n : Nat) : Prop := (c.t.rd a).toNat % n = 0 ∧ (c.t.rd a).toNat + n ≤ c.kernel.scratch

/-- The hurdle operand of an engine word: field 0 names none. -/
def hurdleOperandOk (c : Ctx) (b : Reg) : Prop := b ≠ 0 → hurdleAddress c (c.t.rd b).toNat

/-- A progress record's offset (R128). -/
def progressOk (c : Ctx) (p : Nat) : Prop := p = 0xFFFFFFFF ∨ (p % 32 = 0 ∧ p + 32 ≤ c.kernel.scratch)

/-- No load of the thread is in flight, and its core keeps no dirty owned byte. -/
def calm (s : State) (r : TRef) (c : Ctx) : Prop := quiet s r ∧ ∀ e ∈ s.dirty, e.core ≠ c.core

/-- An engine word is accepted (R131): its thread is suspended with every check passed, one operation e of its team stands registered behind the others with its locks,
not begun, and no byte of memory has changed. -/
def accepts (s : State) (i : Instr) (r : TRef) (c : Ctx) (b : Reg) (hs : List Hull) (e : EngineOp) : Prop :=
  ∃ u : State, exec i s = .next (u.suspend i r s.nextOp) ∧ u.mem = s.mem ∧ u.threads = s.threads ∧ u.engines = s.engines ++ [e]
    ∧ u.locks = s.locks ++ hs.flatMap (c.lockOf s.nextOp) ∧ e.op = s.nextOp ∧ e.grid = r.grid ∧ e.team = r.team ∧ e.core = c.core ∧ e.started = false ∧ e.frow = 0
    ∧ e.landed = 0 ∧ e.stopped = none ∧ e.hurdle = (if b = 0 then none else some (c.t.rd b).toNat)

/-- The table of the cluster has room for so many more locks (R130). -/
def lockRoom (s : State) (c : Ctx) (n : Nat) : Prop := (s.locks.filter fun l => l.cluster = c.cluster).length + n ≤ 256

/-- The channel of an operand can take a packet to each of these dies, and no request of an earlier word still waits to go before it (R256, R259, R260). -/
def chanRoom (s : State) (c : Ctx) (ch : BitVec 4) (ds : List DieId) : Prop :=
  ds ≠ [] → s.unsentBefore (c.chan ch.toNat) s.nextOp = false ∧ ∀ d ∈ ds, s.roomFor (c.chan ch.toNat) d = true

/-- No table entry and no byte that a read of a context's range touches lies in a tower that has not passed (R17). -/
def clearOf (s : State) (core asid : Nat) (system : Bool) (va n : Nat) : Prop :=
  ∀ y ∈ pageChunks va n, (∀ a ∈ s.walkKeys core asid y.1, s.inHole (devKey a) = false) ∧
    ∀ p, s.resolve core asid system y.1 y.2 .read = .ok p → s.inHole p.key = false

/-- A snapshot's tables read in memory as it has them, so that no draw decides a lookup (R171). -/
def steady (s : State) (core asid : Nat) (system : Bool) (x : Shape) : Prop :=
  let bs := s.readVa core asid system x.recordVa x.extent
  x.extent ≤ bs.length ∧ withTables x bs = x

/-- A copy word: its kind, channel, descriptor and hurdle. -/
def copyWordOf : Instr → Option (CopyFn × BitVec 4 × Reg × Reg)
  | .cpy _ ch a b => some (.cpy, ch, a, b)
  | .cpyg _ ch a b => some (.cpyg, ch, a, b)
  | .cpys _ ch a b => some (.cpys, ch, a, b)
  | .cpyf _ ch a b => some (.cpyf, ch, a, b)
  | _ => none

/-- An operation of one row that stays inside the cluster and is about to land its only piece, with nothing else to happen at its end. -/
def lastRow (s : State) (e : EngineOp) (m : Team) : Prop :=
  s.engines.find? (fun x => x.op = s.subj 0) = some e ∧ s.team? e.grid e.team = some m ∧ m.inPlace = true ∧ e.started = true ∧ e.stopped = none ∧ e.pieces = []
    ∧ e.frow = 0 ∧ e.rows = 1 ∧ e.ord = 0 ∧ e.hurdle = none ∧ 0 < e.rowBytes ∧ e.landed = 0 ∧ s.subj 1 = 0 ∧ s.subj 2 = 0 ∧ s.subj 3 = e.rowBytes
    ∧ (∀ x ∈ s.engines, ∀ t, x.kind ≠ .accclr t) ∧ s.engineWaits e = false

/-- The row has landed: bytes bs stand at scratch offset d, the operation and its locks are gone, its progress record tells (R129), and every other byte of memory
reads as before. -/
def landed (s : State) (e : EngineOp) (m : Team) (d : Nat) (bs : List Byte) : Prop :=
  ∃ u : State, exec .copyBytesLand s = .next u ∧ u.engines = s.engines.filter (fun x => x.op ≠ e.op) ∧ u.locks = s.locks.filter (fun x => x.op ≠ e.op) ∧ u.threads = s.threads
    ∧ memRead u.mem (scratchKey m.lastCore (m.scratch + d)) e.rowBytes = bs
    ∧ (∀ p, e.prog = some p → leNat (u.teamRead m p 8) = e.rowBytes ∧ leNat (u.teamRead m (p + 8) 8) = 0 ∧ leNat (u.teamRead m (p + 16) 4) = 1 ∧ leNat (u.teamRead m (p + 20) 1) = 0)
    ∧ ∀ k, (k < scratchKey m.lastCore (m.scratch + d) ∨ scratchKey m.lastCore (m.scratch + d) + e.rowBytes ≤ k) →
        (∀ p, e.prog = some p → k < scratchKey m.lastCore (m.scratch + p) ∨ scratchKey m.lastCore (m.scratch + p) + 32 ≤ k) → memGet u.mem k = memGet s.mem k

/-- Elements of a group (R157). -/
def groupOf (fmt : Nat) : Nat := if fmt ≤ 1 then 16 else if fmt ≤ 3 then 32 else 64

/-- The sums of consecutive groups of g terms, each rounded once to FP32, the last group short where the terms do not fill it (R157). -/
def groupSums (g : Nat) (terms : List FVal) : List Nat :=
  (List.range ((terms.length + g - 1) / g)).map fun n => let ts := (terms.drop (n * g)).take g; fp32.round (ts.tail.foldl FVal.add (ts.headD .nan))

/-- An element of formats 0 to 4 (R158): group sums added to what it starts from, in their order; the first stands for itself where it starts empty. -/
def summed (fo : Bool) (start : Option Nat) (sums : List Nat) : Nat :=
  let add (xs : List Nat) (y : Nat) : Nat := xs.foldl (fun a x => flushed fp32 fo (arith fp32 0 a x 0)) y
  match start, sums with
  | some y, xs => add xs y
  | none, x :: xs => add xs (flushed fp32 fo x)
  | none, [] => 0

/-- An element of FP64 (R159): one rounding for each k. -/
def chained (fo : Bool) (start : Option Nat) (terms : List (Nat × Nat)) : Nat :=
  let add (xs : List (Nat × Nat)) (y : Nat) : Nat := xs.foldl (fun a x => flushed fp64 fo (arith fp64 3 x.1 x.2 a)) y
  match start, terms with
  | some y, xs => add xs y
  | none, x :: xs => add xs (flushed fp64 fo (arith fp64 2 x.1 x.2 0))
  | none, [] => 0

/-- An element of RES16 (R160): the products' residues modulo 31, 32 and 33 added to those it starts from, and the poison flag, set once by any operand that is no triple. -/
def residueSum (start : Nat) (terms : List (Nat × Nat)) : Nat :=
  let residue (pos w md : Nat) : Nat := (start / 2 ^ pos % 2 ^ w + (terms.map fun x => x.1 / 2 ^ pos % 2 ^ w * (x.2 / 2 ^ pos % 2 ^ w)).sum) % md
  let bad (w : Nat) : Bool := w % 2 ^ 5 == 31 || decide (33 ≤ w / 2 ^ 10 % 2 ^ 6)
  residue 0 5 31 + 2 ^ 5 * residue 5 5 32 + 2 ^ 10 * residue 10 6 33 + if start.testBit 31 || terms.any (fun x => bad x.1 || bad x.2) then 2 ^ 31 else 0

/-- What an element starts a pass from (R158): the first pass from the tile's word or words with ACC = 1, else from nothing; a later one from its partial result. -/
def startAt (s : State) (m : MmaReq) (i j : Nat) : Option Nat :=
  if m.kDone ≠ 0 then ((m.partials[i * m.n + j]?).bind (·.2)).map (·.toNat)
  else if m.acc = false then none
  else some (if m.aFmt = 7 then leNat (memRead s.mem (tileKey m.cluster m.tile (512 * i + 8 * j)) 8) else leNat (memRead s.mem (tileKey m.cluster m.tile (512 * i + 4 * j)) 4))

end Sys2Proof.Statements

/-! ## Copies (07) -/

/-- R128, R131: CPY, CPYG, CPYS and CPYF with a descriptor in order are accepted: the operation has the rows, sizes, strides and progress record its descriptor names.
Choices of the model among what it rests on: log 25. -/
def Obligations.CopyWords : Prop :=
  ∀ (s : State) (i : Instr) (r : TRef) (c : Ctx) (k : CopyFn) (ch : BitVec 4) (a b : Reg), s.Issues i r c → copyWordOf i = some (k, ch, a, b) → calm s r c →
    descriptorAt c a 64 → hurdleOperandOk c b →
    let o := (c.t.rd a).toNat
    let f := copyDesc (s.teamRead c.team o 64)
    f.ok k c.kernel.scratch = true → progressOk c f.prog → s.rangeChecks c (f.source k ++ [f.dest k]) = [] →
    (∀ h ∈ f.source k, c.hullsMeet h (f.dest k) = false) → s.chanBroken (c.chan ch.toNat) = false → chanRoom s c ch ((f.source k ++ [f.dest k]).flatMap (s.hullDies c)) →
    lockRoom s c (f.source k ++ [f.dest k] ++ f.list k).length →
    ∃ e : EngineOp, accepts s i r c b (f.source k ++ [f.dest k] ++ f.list k) e ∧ e.ch = ch.toNat
      ∧ e.rowBytes = scratchNumber s c.team (o + 0x10) 4 ∧ e.rows = scratchNumber s c.team (o + 0x14) 4
      ∧ e.sstride = scratchNumber s c.team (o + 0x18) 4 ∧ e.dstride = scratchNumber s c.team (o + 0x1C) 4
      ∧ e.prog = (let p := scratchNumber s c.team (o + 0x30) 4; if p = 0xFFFFFFFF then none else some p)
      ∧ e.kind = match k with
        | .cpy => EngineKind.cpy
        | .cpyg => .cpyg (scratchNumber s c.team (o + 0x24) 4) (scratchNumber s c.team (o + 0x28) 4)
        | .cpys => .cpys (scratchNumber s c.team (o + 0x24) 4) (scratchNumber s c.team (o + 0x28) 4)
        | .cpyf => .cpyf (word (scratchNumber s c.team (o + 0x2C) 4))

/-- R129, R131, R132, R245: an operation starts when no earlier conflicting lock of the die stands, its engine has room and its thread's earlier accesses are performed,
and not before; a row inside one granule of scratch lands whole: a copy's bytes are those of its source, a fill's its pattern.
Choices of the model among what it rests on: log 21. -/
def Obligations.EngineOperationsRun : Prop :=
  (∀ (s : State) (e : EngineOp), s.engines.find? (fun x => x.op = s.subj 0) = some e → e.isRoute = false → e.isCopy = true → e.started = false → e.rows * e.rowBytes ≠ 0 →
    (s.granted e.op = true → s.copiesRunning e.cluster < 64 → s.engineWaits e = false →
      exec .engineOpStart s = .next { s with engines := updWhere (fun x => x.op = e.op) (fun _ => { e with started := true }) s.engines })
    ∧ (s.granted e.op = false ∨ 64 ≤ s.copiesRunning e.cluster ∨ s.engineWaits e = true → exec .engineOpStart s = .next s))
  ∧ (∀ (s : State) (e : EngineOp) (m : Team) (d : Nat), lastRow s e m → e.dst = .scratch d → d % 256 + e.rowBytes ≤ 256 →
    s.tagHit m.grid m.idx d e.rowBytes = false → (∀ p, e.prog = some p → (d + e.rowBytes ≤ p ∨ p + 32 ≤ d) ∧ s.tagHit m.grid m.idx p 32 = false) →
    (∀ a, e.kind = .cpy → e.src = .scratch a → a % 256 + e.rowBytes ≤ 256 → landed s e m d (memRead s.mem (scratchKey m.lastCore (m.scratch + a)) e.rowBytes))
    ∧ (∀ x, e.kind = .cpyf x → e.src = .none → landed s e m d ((List.range e.rowBytes).map fun k => (x.extractLsb' (8 * (k % 4)) 8)))
    ∧ (∀ tile shift row0 col0 cols scale expect, e.kind = .accrd tile 0 shift row0 col0 cols scale expect → e.src = .none → expect ≠ .fp64 → e.rowBytes = 4 * cols →
      landed s e m d (memRead s.mem (tileKey e.cluster tile (row0 * 512 + 4 * col0)) e.rowBytes)))

/-! ## Channel commands (12) -/

/-- R266 to R270: RCPY, RMC and RRED with a descriptor in order are accepted; JOIN notes where its channel stands; DRAIN makes its arrival once every operation before
it is over, and waits for those that are not.
Choices of the model among what it rests on: log 18, 30. -/
def Obligations.ChannelCommands : Prop :=
  ∀ (s : State) (i : Instr) (r : TRef) (c : Ctx), s.Issues i r c →
    (∀ l ch a b, i = .rcpy l ch a b → calm s r c → descriptorAt c a 64 → hurdleOperandOk c b →
      let f := copyDesc (s.teamRead c.team (c.t.rd a).toNat 64)
      let src : Hull := { side := remoteSide f.sspace f.src, n := f.rows, stride := f.sstride, row := f.rowBytes, write := false }
      let dst : Hull := { side := remoteSide f.dspace f.dst, n := f.rows, stride := f.dstride, row := f.rowBytes, write := true }
      f.ok .cpy c.kernel.scratch = true → f.sspace ≤ 1 → f.dspace ≤ 1 → fabricSide f.sspace f.src ≠ fabricSide f.dspace f.dst → progressOk c f.prog →
      s.rangeChecks c [src, dst] = [] → s.chanBroken (c.chan ch.toNat) = false → chanRoom s c ch ([src, dst].flatMap (s.hullDies c)) → lockRoom s c 1 →
      ∃ e, accepts s i r c b [src, dst] e ∧ e.kind = .rcpy ∧ e.rows = f.rows ∧ e.rowBytes = f.rowBytes ∧ e.src = src.side ∧ e.dst = dst.side ∧ e.ch = ch.toNat)
    ∧ (∀ l ch a b, i = .rmc l ch a b → calm s r c → descriptorAt c a 64 → hurdleOperandOk c b →
      let o := (c.t.rd a).toNat
      let n := scratchNumber s c.team (o + 0x18) 4
      let space := scratchNumber s c.team (o + 0x1C) 1
      let h : Hull := { side := sideOf space (scratchNumber s c.team o 8), n := 1, stride := 0, row := n, write := false }
      let slots := s.mapSlots c.asid (scratchNumber s c.team (o + 8) 8)
      1 ≤ n → n ≤ 1048576 → space ≤ 1 → sideFits space (scratchNumber s c.team o 8) = true → scratchNumber s c.team (o + 0x1D) 3 = 0 →
      scratchNumber s c.team (o + 0x24) 28 = 0 → progressOk c (scratchNumber s c.team (o + 0x20) 4) → s.rangeChecks c [h] = [] → slots.1 = [] →
      s.chanBroken (c.chan ch.toNat) = false → chanRoom s c ch (s.hullDies c h ++ slots.2.map (·.1)) → lockRoom s c 1 →
      (slots.2 ≠ [] → ∃ e, accepts s i r c b [h] e ∧ e.kind = .rmc slots.2 (scratchNumber s c.team (o + 0x10) 8) ∧ e.rows = slots.2.length ∧ e.rowBytes = n)
      ∧ (slots.2 = [] → ∃ u : State, exec i s = .next (u.suspend i r s.nextOp) ∧ u = { s with nextOp := s.nextOp + 1, mem := u.mem }
        ∧ ∀ k, (∀ p, progOf (scratchNumber s c.team (o + 0x20) 4) = some p → k < scratchPlace c p ∨ scratchPlace c p + 32 ≤ k) → memGet u.mem k = memGet s.mem k))
    ∧ (∀ l ch a b, i = .rred l ch a b → calm s r c → descriptorAt c a 64 → hurdleOperandOk c b →
      let o := (c.t.rd a).toNat
      let field (k n : Nat) : Nat := scratchNumber s c.team (o + k) n
      let n := field 0xE 2 * (if field 0xC 1 = 1 then 8 else 4)
      let src : Hull := { side := sideOf (field 0xD 1) (field 0x10 8), n := 1, stride := 0, row := n, write := false }
      let dst : Hull := { side := .global (field 0x18 8), n := 1, stride := 0, row := n, write := true }
      field 0xC 1 ≤ 9 → field 0xD 1 ≤ 1 → 1 ≤ field 0xE 2 → n ≤ 4096 → sideFits (field 0xD 1) (field 0x10 8) = true → field 0xA 2 < field 8 2 → field 8 2 ≤ 4096 →
      1 ≤ field 0x20 4 → field 0x20 4 ≤ 1000000 → field 0x24 4 = 0 → field 0x2C 20 = 0 → progressOk c (field 0x28 4) → s.rangeChecks c [src, dst] = [] →
      c.hullsMeet src dst = false → s.chanBroken (c.chan ch.toNat) = false → chanRoom s c ch ([src, dst].flatMap (s.hullDies c)) →
      (∀ q : Contribution, q.coll.toNat = field 0 4 → chanRoom s c ch [s.switchDie q]) → lockRoom s c 2 →
      ∃ e q, accepts s i r c b [src, dst] e ∧ e.kind = .rred q ∧ e.rows = 1 ∧ e.rowBytes = n ∧ q.coll.toNat = field 0 4 ∧ q.gen.toNat = field 4 4 ∧ q.ncon = field 8 2
        ∧ q.index = field 0xA 2 ∧ q.rop = field 0xC 1 ∧ q.elems = field 0xE 2 ∧ q.timeout = field 0x20 4 ∧ q.data = [])
    ∧ (∀ t src, i = .join t src → s.chanBroken (c.chan t.toNat) = false → s.chanBroken (c.chan src.toNat) = false → t ≠ src →
      s.unsentBefore (c.chan t.toNat) s.nextOp = false → s.unsentBefore (c.chan src.toNat) s.nextOp = false →
      let k := s.chanRec (c.chan t.toNat)
      ∃ u : State, exec i s = .next (u.suspend i r s.nextOp) ∧ u = { s with nextOp := s.nextOp + 1, chans := u.chans }
        ∧ u.chanRec (c.chan t.toNat) = { k with joins := k.joins ++ [{ at_ := k.nextOrd, src := src.toNat, upto := (s.chanRec (c.chan src.toNat)).nextOrd }] })
    ∧ (∀ l ch a tag, i = .drain l ch a → hurdleAddress c (c.t.rd a).toNat → s.tag? r.grid r.team (c.t.rd a).toNat = some tag → s.chanBroken (c.chan ch.toNat) = false →
      s.unsentBefore (c.chan ch.toNat) s.nextOp = false → (s.chanRec (c.chan ch.toNat)).violation = none → (∀ d ∈ s.drains, d.key ≠ c.chan ch.toNat) →
      ((∀ p ∈ s.chanOps, p.key ≠ c.chan ch.toNat) → s.waitersOf r.grid r.team (c.t.rd a).toNat = [] →
        ∃ u : State, exec i s = .next (u.suspend i r s.nextOp) ∧ u.hurdle c.team (c.t.rd a).toNat = afterArrival 1 (s.hurdle c.team (c.t.rd a).toNat) ∧ u.threads = s.threads)
      ∧ (s.pendingBelow (c.chan ch.toNat) (s.chanRec (c.chan ch.toNat)).nextOrd = true →
        ∃ (u : State) (d : DrainRec), exec i s = .next (u.suspend i r s.nextOp) ∧ u.mem = s.mem ∧ u.drains = s.drains ++ [d] ∧ d.key = c.chan ch.toNat
          ∧ d.ord = (s.chanRec (c.chan ch.toNat)).nextOrd ∧ d.hurdle = (c.t.rd a).toNat))

/-! ## Buffers and matrices (08) -/

/-- R143 to R149: OBRES enters a reservation with the lowest free handle, zeroes its storage and writes the handle back; OBREL gives it up, at once where no
operation stands on it; ACCCLR clears a tile no operation works on.
Choices of the model among what it rests on: log 26. -/
def Obligations.BufferWords : Prop :=
  ∀ (s : State) (i : Instr) (r : TRef) (c : Ctx), s.Issues i r c →
    (∀ l a h, i = .obres l a → descriptorAt c a 64 → quiet s r → s.freeHandle c.cluster = some h →
      let o := (c.t.rd a).toNat
      let field (k n : Nat) : Nat := scratchNumber s c.team (o + k) n
      let v := reservationOf c h (s.teamRead c.team o 64)
      v.ok = true → field 0x1B 1 = 0 → field 0x34 12 = 0 → (v.space = 2 → s.streamFails c v.base v.len = []) → (v.space ≠ 2 → ∀ w ∈ s.reservations, v.meets w = false) →
      scratchPlace c (o + 64) ≤ 2 ^ 62 → s.tagHit r.grid r.team (o + 0x30) 4 = false →
      ∃ u : State, exec i s = .next (u.suspend i r s.nextOp) ∧ u.reservations = s.reservations ++ [v] ∧ v.handle = h ∧ v.base = field 8 8 ∧ v.len = field 0x10 4
        ∧ v.space = field 0x18 1 ∧ v.grid = r.grid ∧ v.team = r.team
        ∧ scratchNumber u c.team (o + 0x30) 4 = 2 ^ 31 + h
        ∧ (v.space = 0 → ∀ k < v.len, memGet u.mem (obufKey c.cluster (v.base + k)) = 0)
        ∧ (v.space = 3 → ∀ t, v.base ≤ t → t < v.base + v.len → u.tileKind c.cluster t = .cleared ∧ ∀ k < 0x20000, memGet u.mem (tileKey c.cluster t k) = 0))
    ∧ (∀ l a v, i = .obrel l a → s.heldReservation c (c.t.rd a).toNat = some v →
      exec i s = .next (({ s with nextOp := s.nextOp + 1, reservations := (updWhere (fun w => w = v) (fun w => { w with releasing := true }) s.reservations).filter fun w =>
        !w.releasing || s.reservationBusy w } : State).suspend i r s.nextOp))
    ∧ (∀ l a, i = .accclr l a → s.tileHeld c (c.t.rd a).toNat = true → (∀ m ∈ s.mmas, m.cluster ≠ c.cluster) → (∀ x ∈ s.engines, x.cluster ≠ c.cluster) →
      ∃ u : State, exec i s = .next (u.suspend i r s.nextOp) ∧ u.tileKind c.cluster (c.t.rd a).toNat = .cleared
        ∧ (∀ k < 0x20000, memGet u.mem (tileKey c.cluster (c.t.rd a).toNat k) = 0) ∧ keeps s u (tileKey c.cluster (c.t.rd a).toNat 0) 0x20000)

/-- R149, R163, R164: ACCRD is accepted with the kind its tile is expected to have; at its turn it begins when the tile has that kind and the mode reads it; else
nothing is written and it is gone.
Choices of the model among what it rests on: log 26. -/
def Obligations.AccumulatorReadout : Prop :=
  (∀ (s : State) (r : TRef) (c : Ctx) (l ch : BitVec 4) (a b : Reg), s.Issues (.accrd l ch a b) r c → calm s r c → descriptorAt c a 32 → hurdleOperandOk c b →
    let o := (c.t.rd a).toNat
    let field (k n : Nat) : Nat := scratchNumber s c.team (o + k) n
    let tile := field 0xC 1
    let mode := field 0xE 1
    let k := s.expectedKind c.cluster tile
    let size := if mode = 0 ∧ k = .fp64 then 8 else if mode = 0 ∨ mode = 5 then 4 else if mode = 1 ∨ mode = 2 then 2 else 1
    let h : Hull := { side := sideOf (field 0xD 1) (field 0 8), n := field 0x16 2, stride := field 8 4, row := field 0x1A 2 * size, write := true }
    field 0xD 1 ≤ 1 → sideFits (field 0xD 1) (field 0 8) = true → mode ≤ 5 → s.tileHeld c tile = true → 1 ≤ field 0x16 2 → field 0x14 2 + field 0x16 2 ≤ 256 →
    1 ≤ field 0x1A 2 → field 0x18 2 + field 0x1A 2 ≤ (if k = .fp64 then 64 else 128) → (field 0x16 2 = 1 ∨ field 0x1A 2 * size ≤ field 8 4) →
    (if mode = 5 then field 0xF 1 ≤ 15 else field 0xF 1 = 0) → ((1 ≤ mode ∧ mode ≤ 4) ∨ field 0x10 4 = 0) → field 0x1C 4 = 0 → s.rangeChecks c [h] = [] →
    s.chanBroken (c.chan ch.toNat) = false → chanRoom s c ch (s.hullDies c h) → lockRoom s c 1 →
    ∃ e, accepts s (.accrd l ch a b) r c b [h] e ∧ e.rows = field 0x16 2 ∧ e.rowBytes = field 0x1A 2 * size ∧ e.dstride = field 8 4
      ∧ e.kind = .accrd tile mode (field 0xF 1) (field 0x14 2) (field 0x18 2) (field 0x1A 2) (word (field 0x10 4)) k)
  ∧ (∀ (s : State) (e : EngineOp) tile mode shift row0 col0 cols scale expect, s.engines.find? (fun x => x.op = s.subj 0) = some e →
    e.kind = .accrd tile mode shift row0 col0 cols scale expect → e.started = false → s.granted e.op = true → s.tileFirst e.cluster tile e.op = true →
    let k := s.tileKind e.cluster tile
    let reads : Prop := mode = 0 ∨ (mode = 5 ∧ (k = .res16 ∨ k = .cleared)) ∨ (mode ≠ 5 ∧ (k = .fp32 ∨ k = .cleared))
    (k = expect → reads → exec .accrdReadout s = .next { s with engines := updWhere (fun x => x.op = e.op) (fun _ => { e with started := true }) s.engines })
    ∧ (¬(k = expect ∧ reads) → e.hurdle = none → e.ord = 0 → (∀ x ∈ s.engines, ∀ t, x.kind ≠ .accclr t) →
      ∃ u : State, exec .accrdReadout s = .next u ∧ u.mem = s.mem ∧ u.threads = s.threads ∧ u.engines = s.engines.filter (fun x => x.op ≠ e.op)
        ∧ u.locks = s.locks.filter fun x => x.op ≠ e.op))

/-- R150 to R162, R165: MMA with a parameter block in order registers its request with its read locks; a free array grants the one request of its cluster a pass of the
cycles R154 gives; a pass whose end has come yields partial results, and the last one the tile, in the arithmetic of its format from what the tile held with ACC = 1,
masked elements replaced, and one arrival on the hurdle; an operand-fetch fault kills the team.
Choices of the model among what it rests on: log 26, 31, 66, 67. -/
def Obligations.MatrixMultiply : Prop :=
  (∀ (s : State) (r : TRef) (c : Ctx) (l : BitVec 4) (a : Reg), s.Issues (.mma l a) r c → calm s r c → descriptorAt c a 64 →
    let o := (c.t.rd a).toNat
    let bs := s.teamRead c.team o 64
    let field (k n : Nat) : Nat := scratchNumber s c.team (o + k) n
    ∀ ra rb, s.heldReservation c (field 0 1) = some ra → s.heldReservation c (field 1 1) = some rb →
    let m := mmaOf c s.nextOp (s.clockOf c.die) ra rb bs
    blockOk bs m = true → ra.space = 0 → rb.space = 1 → s.tileHeld c m.tile = true → m.agrees (field 0x1C 2) (field 0x1E 2) = true →
    (∀ x ∈ m.aSpans (field 0x1C 2), x.2 ≤ ra.len) → (∀ x ∈ m.bSpans (field 0x1E 2), x.2 ≤ rb.len) → (∀ h, m.hurdle = some h → hurdleAddress c h) →
    m.maskMode = 0 → (s.mmas.filter fun x => x.cluster = c.cluster).length < 32 → lockRoom s c (m.locks (field 0x1C 2) (field 0x1E 2)).length →
    ∃ (u : State) (m' : MmaReq), exec (.mma l a) s = .next (u.suspend (.mma l a) r s.nextOp) ∧ u.mem = s.mem ∧ u.mmas = s.mmas ++ [m'] ∧ m'.op = s.nextOp ∧ m'.begun = false
      ∧ m'.m = field 4 2 ∧ m'.n = field 6 2 ∧ m'.k = field 8 4 ∧ m'.tile = field 2 1 % 4 ∧ m'.aFmt = field 3 1 % 16 ∧ m'.bFmt = field 3 1 / 16
      ∧ m'.acc = decide (4 ≤ field 2 1) ∧ m'.hurdle = (if field 0x30 4 = 0xFFFFFFFF then none else some (field 0x30 4))
      ∧ u.locks = s.locks ++ m.locks (field 0x1C 2) (field 0x1E 2))
  ∧ (∀ (s : State) (m : MmaReq), s.mmas.filter (fun x => x.cluster = s.subj 0) = [m] → m.begun = false → m.running = none → s.eligible m = true →
    (m.acc = true → s.tileKind m.cluster m.tile = .cleared ∨ s.tileKind m.cluster m.tile = kindOfFormat m.aFmt) →
    let kk := min 512 (m.k - m.kDone)
    let cycles := 32 + if m.aFmt ≤ 1 then kk else if m.aFmt ≤ 3 then (kk + 1) / 2 else if m.aFmt ≤ 5 then (kk + 3) / 4 else if m.aFmt = 6 then (kk + 15) / 16 else 16 * kk
    ∃ u : State, exec .mmaPass s = .next u ∧ u.mem = s.mem ∧ { m with begun := true, running := some (s.clockOf (dieOfCluster m.cluster) + cycles) } ∈ u.mmas)
  ∧ (∀ (s : State) (cluster : Nat) (m : MmaReq) (until_ : Nat), s.mmas.find? (fun x => x.cluster = cluster && x.running.isSome) = some m → m.running = some until_ →
    (s.clockOf (dieOfCluster cluster) < until_ → ∀ e, exec (.mmaPassEnd cluster e) s = .next s)
    ∧ (until_ ≤ s.clockOf (dieOfCluster cluster) →
      (∀ off t x, s.team? m.grid m.team = some t → s.grid? m.grid = some x → t.killed = none → t.dying = none →
        ∃ u : State, exec (.mmaPassEnd cluster (some off)) s = .next u ∧ (u.team? m.grid m.team).map (·.killed) = some (some 0x1C))
      ∧ (∀ ps, s.computePass m = .ok ps → m.kDone + 512 < m.k →
        let t : State := { s with mmas := updWhere (fun x => x.op = m.op) (fun _ => { m with partials := ps, kDone := m.kDone + 512, passes := m.passes + 1
                                                                                             since := s.clockOf (dieOfCluster cluster), running := none }) s.mmas }
        ∃ u : State, exec (.mmaPassEnd cluster none) s = .next u ∧ u.mmas = t.mmas ∧ u.threads = s.threads ∧ u.locks = s.locks ∧ (s.notePass m = s → u = t))
      ∧ (m.kDone < m.k → m.k ≤ m.kDone + 512 → m.m ≤ 256 → m.n ≤ (if m.aFmt = 7 then 64 else 128) → (∀ x ∈ s.engines, ∀ t, x.kind ≠ .accclr t) → s.notePass m = s →
        (∀ t x, s.team? m.grid m.team = some t → (m.rowShape = some x ∨ m.colShape = some x) → steady s t.lastCore m.asid m.system x) →
        (s.team? m.grid m.team = none → m.rowShape = none ∧ m.colShape = none) → (∀ h, m.hurdle = some h → s.waitersOf m.grid m.team h = []) →
        (∀ h t, m.hurdle = some h → s.team? m.grid m.team = some t → scratchKey t.lastCore (t.scratch + h + 16) ≤ 2 ^ 62) →
        let masked (i j : Nat) : Prop := m.maskMode ≠ 0 ∧ selected m.rowShape m.colShape m.maskMode (m.rowOrg + i) (m.colOrg + j) = true
        let word4 (u : State) (i j : Nat) : Nat := leNat (memRead u.mem (tileKey m.cluster m.tile (512 * i + 4 * j)) 4)
        let ended (u : State) (k : TileKind) : Prop := u.mmas = s.mmas.filter (fun x => x.op ≠ m.op) ∧ u.locks = s.locks.filter (fun x => x.op ≠ m.op)
          ∧ u.tileKind m.cluster m.tile = k ∧ ∀ h t, m.hurdle = some h → s.team? m.grid m.team = some t → t.inPlace = true → s.tag? m.grid m.team h ≠ none →
              u.hurdle t h = afterArrival 1 (s.hurdle t h)
        (∀ as bs : List (List FVal), m.aFmt ≤ 4 → as.length = m.m → bs.length = m.n → s.passVals m false m.kDone m.k = .ok as → s.passVals m true m.kDone m.k = .ok bs →
          (∀ x ∈ as ++ bs, x.length = m.k - m.kDone) → ∃ u : State, exec (.mmaPassEnd cluster none) s = .next u ∧ ended u .fp32 ∧ ∀ i j, i < m.m → j < m.n →
            word4 u i j = if masked i j then m.maskVal.toNat
              else summed m.fo (startAt s m i j) (groupSums (groupOf m.aFmt) (List.zipWith FVal.mul (as.getD i []) (bs.getD j []))))
        ∧ (∀ as bs : List (List Nat), 5 ≤ m.aFmt → m.aFmt ≤ 7 → as.length = m.m → bs.length = m.n → s.passCodes m false m.kDone m.k = .ok as →
          s.passCodes m true m.kDone m.k = .ok bs → (∀ x ∈ as ++ bs, x.length = m.k - m.kDone) →
          ∃ u : State, exec (.mmaPassEnd cluster none) s = .next u ∧ ended u (if m.aFmt = 5 then .res16 else if m.aFmt = 6 then .int32 else .fp64) ∧ ∀ i j, i < m.m → j < m.n →
            let terms := (as.getD i []).zip (bs.getD j [])
            (m.aFmt = 5 → word4 u i j = if masked i j then m.maskVal.toNat else residueSum ((startAt s m i j).getD 0) terms)
            ∧ (m.aFmt = 6 → word4 u i j = if masked i j then m.maskVal.toNat else
                ((startAt s m i j).getD 0 + (terms.map fun x => if m.bop = true then x.1 * x.2 else (x.1 + x.2) % 2).sum) % 2 ^ 32)
            ∧ (m.aFmt = 7 → leNat (memRead u.mem (tileKey m.cluster m.tile (512 * i + 8 * j)) 8) = chained m.fo (startAt s m i j) terms)))))

namespace Sys2Proof.Statements

/-! ## Ragged words (09, part A) -/

/-- The team may name slot n, bound as g (R173). -/
def boundSlot (s : State) (c : Ctx) (n : Nat) (g : RaggedSlot) : Prop := s.slotOf c n = some g

/-- What SEGRED and SEGSCAN compute with (R177): 0 ADD, 1 MAX, 2 MIN, of FP32, FP64 (format 7) or INT32 (format 17). -/
def segStep (format op x y : Nat) : Nat :=
  let arm (k : Nat) : Nat := match format with
    | 7 => arith fp64 k x y 0
    | 17 =>
      let a : W32 := BitVec.ofNat 32 x
      let b : W32 := BitVec.ofNat 32 y
      (word (if k = 0 then a.toInt + b.toInt else if k = 5 then min a.toInt b.toInt else max a.toInt b.toInt)).toNat
    | _ => arith fp32 k x y 0
  match op with
  | 0 => arm 0
  | 1 => arm 6
  | _ => arm 5

/-- The output of an empty sequence (R177). -/
def segEmpty (format op : Nat) : Nat :=
  match op, format with
  | 1, 7 => 0xFFF0000000000000
  | 1, 17 => 0x80000000
  | 1, _ => 0xFF800000
  | 2, 7 => 0x7FF0000000000000
  | 2, 17 => 0x7FFFFFFF
  | 2, _ => 0x7F800000
  | _, _ => 0

/-- An FP32 score row by R179, its columns all valid. -/
def softmax (scale : Nat) (xs : List Nat) : List Nat :=
  match xs with
  | [] => []
  | v :: vs =>
    let m := vs.foldl (fun a x => arith fp32 6 a x 0) v
    if m = 0xFF800000 then xs.map fun _ => 0
    else
      let e (x : Nat) : Nat := fex2Word (BitVec.ofNat 32 (arith fp32 2 (arith fp32 1 x m 0) scale 0))
      let sum := vs.foldl (fun a x => arith fp32 0 a (e x) 0) (e v)
      xs.map fun x => arith fp32 2 (e x) (fp32.round (fp32.val sum).recip) 0

/-- The next row of an operation that has another one after it, begun and none of the row landed, is about to land whole in scratch at d, where no tagged hurdle
stands: the accesses its thread made before it are performed, and what it reads is on its die, in no hole, its tables as its snapshot has them. -/
def nextRow (s : State) (e : EngineOp) (m : Team) (d : Nat) : Prop :=
  s.engines.find? (fun x => x.op = s.subj 0) = some e ∧ s.team? e.grid e.team = some m ∧ m.inPlace = true ∧ e.started = true ∧ e.stopped = none ∧ e.pieces = []
    ∧ e.frow + 1 < e.rows ∧ e.hurdle = none ∧ 0 < e.rowBytes ∧ s.subj 1 = e.frow ∧ s.subj 2 = 0 ∧ s.subj 3 = e.rowBytes
    ∧ (∃ d0, e.dst = .scratch d0 ∧ d = d0 + e.frow * e.dstride) ∧ d % 256 + e.rowBytes ≤ 256 ∧ s.tagHit m.grid m.idx d e.rowBytes = false ∧ s.engineWaits e = false ∧ s.asksOf e e.frow 0 e.rowBytes = []
    ∧ (∀ x ∈ e.sources e.frow 0 e.rowBytes, clearOf s e.core e.asid e.system x.1 x.2)
    ∧ ∀ x ∈ e.shapes, steady s e.core e.asid e.system x

/-- The row has landed: its bytes stand at d, the operation goes on with the next one, and every other byte of memory reads as before. -/
def landedRow (s : State) (e : EngineOp) (m : Team) (d : Nat) (bs : List Byte) : Prop :=
  ∃ (u : State) (e' : EngineOp), exec .copyBytesLand s = .next u ∧ u.threads = s.threads ∧ u.locks = s.locks
    ∧ u.engines = updWhere (fun x => x.op = e.op) (fun _ => e') s.engines ∧ e' = { e with frow := e.frow + 1, landed := e.landed + e.rowBytes, homes := e'.homes, cleared := e'.cleared }
    ∧ memRead u.mem (scratchKey m.lastCore (m.scratch + d)) e.rowBytes = bs ∧ keeps s u (scratchKey m.lastCore (m.scratch + d)) e.rowBytes

end Sys2Proof.Statements

/-! ## Ragged slots and engines (09, part A) -/

/-- R170, R172, R176 to R179: RBIND binds a slot behind a read lock on the record, RUNBIND frees it, RGLD, SEGRED, SEGSCAN and SEGNORM with descriptors in order are
accepted with the snapshot of the slots they name.
Choices of the model among what it rests on: log 27. -/
def Obligations.RaggedWords : Prop :=
  ∀ (s : State) (i : Instr) (r : TRef) (c : Ctx), s.Issues i r c →
    (∀ l a b y, i = .rbind l a b → s.bindChecks c (c.t.rd b).toNat (c.t.rd64 a) = [] → (∀ x ∈ s.locks, x.write = false) →
      (s.locks.filter fun x => x.cluster = c.cluster).length < 256 → s.readShape c.core c.asid c.system s.nextOp (c.t.rd64 a).toNat = some y →
      clearOf s c.core c.asid c.system (c.t.rd64 a).toNat y.extent →
      exec i s = .next (({ s with
          nextOp := s.nextOp + 1
          locks := s.locks ++ [{ op := s.nextOp, cluster := c.cluster, write := false, space := .global c.asid, lo := (c.t.rd64 a).toNat, hi := (c.t.rd64 a).toNat + y.extent }]
          ragged := s.ragged ++ [{ core := some c.core, slot := (c.t.rd b).toNat, grid := r.grid, team := r.team, va := (c.t.rd64 a).toNat, lock := s.nextOp, shape := y
                                   closing := false }] } : State).suspend i r s.nextOp))
    ∧ (∀ l a g, i = .runbind l a → s.slotOf c (c.t.rd a).toNat = some g → s.slotBusy g.lock = false →
      exec i s = .next (({ s with nextOp := s.nextOp + 1, ragged := s.ragged.filter fun x => x.lock ≠ g.lock, locks := s.locks.filter fun x => x.op ≠ g.lock } : State).suspend i r s.nextOp))
    ∧ (∀ l ch a b g, i = .rgld l ch a b → calm s r c → descriptorAt c a 64 → hurdleOperandOk c b →
      let o := (c.t.rd a).toNat
      let field (k n : Nat) : Nat := scratchNumber s c.team (o + k) n
      let x := g.shape
      let n := field 0x10 4 * shapeSize x.format
      let row0 := field 4 4
      let rows := field 8 2
      let src : List Hull := if x.t ≤ row0 ∨ n = 0 then [] else [{ side := .global (x.at_ row0 (field 0xA 2) (field 0xC 4)), n := min (row0 + rows) x.t - row0, stride := x.rstride, row := n, write := false }]
      let dst : Hull := { side := sideOf (field 1 1) (field 0x14 4), n := rows, stride := field 0x18 4, row := n, write := true }
      let tags : List Hull := if field 0x1C 4 = 0xFFFFFFFF then [] else [{ side := .scratch (field 0x1C 4), n := 1, stride := 0, row := 8 * rows, write := true }]
      boundSlot s c (field 0 1) g → (field 1 1 = 1 ∨ field 1 1 = 2) → field 2 1 ≤ 1 → field 3 1 = 0 → 1 ≤ rows → rows ≤ 256 → field 0xA 2 < x.heads →
      field 0xC 4 + field 0x10 4 ≤ x.width → (rows = 1 ∨ n ≤ field 0x18 4) → (field 0x1C 4 = 0xFFFFFFFF ∨ field 0x1C 4 % 8 = 0) → field 0x24 28 = 0 →
      progressOk c (field 0x20 4) → s.rangeChecks c (src ++ [dst] ++ tags) = [] → (∀ h ∈ src, c.hullsMeet h dst = false) → s.chanBroken (c.chan ch.toNat) = false →
      chanRoom s c ch (src.flatMap (s.hullDies c)) →
      (field 2 1 = 1 → ∀ p q, row0 ≤ p → p < row0 + rows → p < x.t → row0 ≤ q → q < row0 + rows → q < x.t → x.seq p = x.seq q) →
      lockRoom s c (src ++ [dst] ++ tags).length →
      ∃ e, accepts s i r c b (src ++ [dst] ++ tags) e ∧ e.rows = rows ∧ e.rowBytes = n ∧ e.dst = dst.side ∧ e.dstride = field 0x18 4 ∧ e.ch = ch.toNat
        ∧ e.kind = .rgld x row0 (field 0xA 2) (field 0xC 4) (field 0x10 4) (if field 0x1C 4 = 0xFFFFFFFF then none else some (field 0x1C 4)))
    ∧ (∀ l ch a b g scan, (i = .segred l ch a b ∧ scan = false ∨ i = .segscan l ch a b ∧ scan = true) → calm s r c → descriptorAt c a 64 → hurdleOperandOk c b →
      let f := segDesc (s.teamRead c.team (c.t.rd a).toNat 64)
      let x := g.shape
      let n := f.cols * (if x.format = 7 then 8 else 4)
      let lo := x.bounds.getD f.first 0
      let hi := x.bounds.getD (f.first + f.count) 0
      let rows := if scan = true then hi - lo else f.count
      let src : List Hull := if hi ≤ lo then [] else [{ side := .global (x.at_ lo f.head f.col0), n := hi - lo, stride := x.rstride, row := f.cols * shapeSize x.format, write := false }]
      let dst : List Hull := if rows = 0 then [] else [{ side := sideOf f.dspace f.dst, n := rows, stride := f.dstride, row := n, write := true }]
      let bits : List Hull := if f.flags = 0xFFFFFFFF then [] else [{ side := .scratch f.flags, n := 1, stride := 0, row := (f.count + 7) / 8, write := true }]
      boundSlot s c f.slot g → f.okSeg (if scan = true then 1 else 2) (!scan) = true → f.fits x = true → progressOk c f.prog →
      s.rangeChecks c (src ++ dst ++ bits) = [] → (∀ h ∈ src, ∀ d ∈ dst, c.hullsMeet h d = false) → s.chanBroken (c.chan ch.toNat) = false →
      chanRoom s c ch ((src ++ dst ++ bits).flatMap (s.hullDies c)) →
      lockRoom s c (src ++ dst ++ bits).length →
      ∃ e, accepts s i r c b (src ++ dst ++ bits) e ∧ e.rows = rows ∧ e.rowBytes = n ∧ e.dst = sideOf f.dspace f.dst ∧ e.dstride = f.dstride ∧ e.ch = ch.toNat
        ∧ e.kind = (if scan = true then .segscan x (f.op == 1) f.first f.count f.col0 f.cols f.head
                    else .segred x f.op f.first f.count f.col0 f.cols f.head (if f.flags = 0xFFFFFFFF then none else some f.flags)))
    ∧ (∀ l ch a b, i = .segnorm l ch a b → calm s r c → descriptorAt c a 64 → hurdleOperandOk c b →
      let f := segDesc (s.teamRead c.team (c.t.rd a).toNat 64)
      let src : Hull := { side := sideOf f.sspace f.src, n := f.count, stride := f.sstride, row := 4 * f.cols, write := false }
      let dst : Hull := { side := sideOf f.dspace f.dst, n := f.count, stride := f.dstride, row := 4 * f.cols, write := true }
      f.rest = true → f.dspace ≤ 1 → f.sspace ≤ 1 → 1 ≤ f.count → f.count ≤ 256 → 1 ≤ f.cols → f.cols ≤ 65536 → sideFits f.dspace f.dst = true →
      sideFits f.sspace f.src = true → f.op = 0 → f.head = 0 → f.flags = 0xFFFFFFFF → progressOk c f.prog →
      s.rangeChecks c [src, dst] = [] → c.hullsMeet src dst = false → s.chanBroken (c.chan ch.toNat) = false → chanRoom s c ch ([src, dst].flatMap (s.hullDies c)) → lockRoom s c 2 →
      (f.mode = 0 → f.slot = 0xFF → f.cslot = 0xFF →
        ∃ e, accepts s i r c b [src, dst] e ∧ e.rows = f.count ∧ e.rowBytes = 4 * f.cols ∧ e.src = src.side ∧ e.sstride = f.sstride ∧ e.dst = dst.side ∧ e.dstride = f.dstride
          ∧ e.kind = .segnorm none none 0 f.first f.col0 f.cols (word f.scale))
      ∧ (∀ g h, (f.mode = 1 ∨ f.mode = 2) → f.slot ≤ 15 → f.cslot ≤ 15 → boundSlot s c f.slot g → boundSlot s c f.cslot h →
        ∃ e, accepts s i r c b [src, dst] e ∧ e.rows = f.count ∧ e.rowBytes = 4 * f.cols ∧ e.src = src.side ∧ e.dst = dst.side
          ∧ e.kind = .segnorm (some g.shape) (some h.shape) f.mode f.first f.col0 f.cols (word f.scale)))

/-- R176 to R179: a row of an operation lands with these bytes: RGLD's the packed row's or zeros, SEGRED's the fold of each column of its sequence or the
identity, SEGSCAN's the sum of its sequence's earlier rows (and the row itself when inclusive), SEGNORM's the base-2 softmax of its scores. -/
def Obligations.SegmentResults : Prop :=
  ∀ (s : State) (e : EngineOp) (m : Team) (d : Nat), nextRow s e m d →
    (∀ x row0 head col0 cols, e.kind = .rgld x row0 head col0 cols none → e.src = .none →
      (x.t ≤ row0 + e.frow → landedRow s e m d (List.replicate e.rowBytes 0))
      ∧ (∀ bs, row0 + e.frow < x.t → bs.length = e.rowBytes → s.engineRead e (x.at_ (row0 + e.frow) head col0) e.rowBytes = .ok bs → landedRow s e m d bs))
    ∧ (∀ x op first count col0 cols head (data : Nat → Nat → Nat), e.kind = .segred x op first count col0 cols head none → e.src = .none → op ≤ 2 →
      let size := if x.format = 7 then 8 else 4
      let lo := x.bounds.getD (first + e.frow) 0
      let hi := x.bounds.getD (first + e.frow + 1) 0
      e.rowBytes = cols * size →
      (∀ t j, lo ≤ t → t < hi → j < cols → ∃ bs, s.engineRead e (x.at_ t head (col0 + j)) (shapeSize x.format) = .ok bs ∧ segElement x.format bs = data t j) →
      landedRow s e m d ((List.range cols).flatMap fun j => leBytes (if hi ≤ lo then segEmpty x.format op
        else (List.range (hi - lo - 1)).foldl (fun y k => segStep x.format op y (data (lo + 1 + k) j)) (data lo j)) size))
    ∧ (∀ x inclusive first count col0 cols head (data : Nat → Nat → Nat), e.kind = .segscan x inclusive first count col0 cols head → e.src = .none →
      let size := if x.format = 7 then 8 else 4
      let t := x.bounds.getD first 0 + e.frow
      let lo := x.bounds.getD ((x.seq t).getD 0) 0
      let n := if inclusive = true then t + 1 - lo else t - lo
      e.rowBytes = cols * size → x.seq t ≠ none → lo ≤ t →
      (∀ k j, lo ≤ k → k ≤ t → j < cols → ∃ bs, s.engineRead e (x.at_ k head (col0 + j)) (shapeSize x.format) = .ok bs ∧ segElement x.format bs = data k j) →
      landedRow s e m d ((List.range cols).flatMap fun j => leBytes (if n = 0 then 0
        else (List.range (n - 1)).foldl (fun y k => segStep x.format 0 y (data (lo + 1 + k) j)) (data lo j)) size))
    ∧ (∀ rowOrg colOrg cols scale a0, e.kind = .segnorm none none 0 rowOrg colOrg cols scale → e.src = .scratch a0 →
      let a := a0 + e.frow * e.sstride
      a % 256 + e.rowBytes ≤ 256 → e.rowBytes = 4 * cols →
      landedRow s e m d ((softmax scale.toNat ((List.range cols).map fun j => scratchNumber s m (a + 4 * j) 4)).flatMap fun y => leBytes y 4))

namespace Sys2Proof.Statements

/-! ## The tile walker and the Relay unit (09, parts B and C) -/

/-- A WALKER word: A, D, and its request. -/
def walkerOf : Instr → Option (Reg × Option Reg × (Ctx → WalkReq))
  | .walk a => some (a, none, fun _ => .walk)
  | .wnext d a => some (a, some d, fun _ => .next)
  | .wred a b => some (a, none, fun c => .red (c.t.rd64 b) (decide (b.toNat % 2 = 1)) (c.second b))
  | .wend a b => some (a, none, fun c => .fin (c.t.rd b).toNat)
  | _ => none

/-- A packet of this device is in flight and its turn at its destination has come, with nothing else to do there. -/
def inTurn (s : State) (n : Nat) (p : Packet) : Prop :=
  s.net[n]? = some p ∧ p.srcAt.dev = s.boot.device ∧ p.epoch = (s.dstEntry p).epoch ∧ p.seq = (s.dstEntry p).expected ∧ (s.dstEntry p).held = [] ∧ s.rowsIn = []
    ∧ s.returnsIn = [] ∧ s.regions = []

/-- The packet's die answers it with a body. -/
def answers (s u : State) (p : Packet) (b : Body) : Prop :=
  s.unreachable.contains p.srcAt = false → ∃ q ∈ u.net, q.kind = .arsp ∧ q.op = p.op ∧ q.seq = p.seq ∧ q.dst = p.srcAt ∧ q.body = b

/-- What a walk's result starts from (R182): 0, all ones (AND, unsigned minimum), the signed extremes, or the canonical NaN. -/
def walkStartValue (red width : Nat) : Nat :=
  if red = 2 ∨ red = 7 then (if width = 1 then 0xFFFFFFFFFFFFFFFF else 0xFFFFFFFF)
  else if red = 5 then (if width = 1 then 0x7FFFFFFFFFFFFFFF else 0x7FFFFFFF)
  else if red = 6 then (if width = 1 then 0x8000000000000000 else 0x80000000)
  else if red = 9 ∨ red = 10 then 0x7FC00000 else 0

/-- A value combined into a walk's result (R182) on 32 or 64 bits: 1 ADD, 2 AND, 3 OR, 4 XOR, 5 and 6 signed, 7 and 8 unsigned minimum and maximum, 9 and 10 of R104. -/
def walkFold (red width x y : Nat) : Nat :=
  let n := if width = 1 then 64 else 32
  let a : Int := (BitVec.ofNat n x).toInt
  let b : Int := (BitVec.ofNat n y).toInt
  let u := x % 2 ^ n
  let v := y % 2 ^ n
  match red with
  | 1 => (u + v) % 2 ^ n
  | 2 => (BitVec.ofNat n x &&& BitVec.ofNat n y).toNat
  | 3 => (BitVec.ofNat n x ||| BitVec.ofNat n y).toNat
  | 4 => (BitVec.ofNat n x ^^^ BitVec.ofNat n y).toNat
  | 5 => (BitVec.ofInt n (min a b)).toNat
  | 6 => (BitVec.ofInt n (max a b)).toNat
  | 7 => min u v
  | 8 => max u v
  | 9 => arith fp32 5 u v 0
  | _ => arith fp32 6 u v 0

/-- A tag of an inbox slot (R190): source, table, epoch, row and slot, weight, and FULL with the delivery number. -/
def inboxTag (r : RelayRow) (delivery : Nat) : List Byte :=
  let w (x : Nat) : List Byte := (List.range 4).map fun k => BitVec.ofNat 8 (x / 2 ^ (8 * k) % 2 ^ 8)
  w (r.srcDev * 2 ^ 16 + r.srcCore * 2 ^ 8 + r.table * 2 ^ 4) ++ w (r.epoch.toNat * 2 ^ 16 + r.row * 2 ^ 8 + r.slot) ++ w r.weight.toNat ++ w (2 ^ 31 + delivery)

/-- A number in a scratch field of n bytes at an offset of the thread's team, as descriptors hold it. -/
def descField (s : State) (c : Ctx) (o k n : Nat) : Nat := scratchNumber s c.team (o + k) n

/-- The endpoint has taken row r into its free slot k: the tag and the data stand in the inbox, the slot is full, and its hurdle has one arrival (R195). -/
def delivered (s u : State) (e : Endpoint) (m : Team) (r : RelayRow) (k n : Nat) : Prop :=
  u.teamRead m (e.inbox + k * (e.rowBytes + 16)) 16 = inboxTag r n ∧ u.teamRead m (e.inbox + k * (e.rowBytes + 16) + 16) e.rowBytes = r.data
    ∧ u.endpoints = updWhere (fun x => x.asid = e.asid && x.id = e.id) (fun _ => { e with full := s.fullSlots e ++ [k], seq := n, freeing := e.freeing.filter fun f => f.1 ≠ k }) s.endpoints
    ∧ u.hurdle m e.hurdle = afterArrival 1 (s.hurdle m e.hurdle) ∧ u.rowsIn = s.rowsIn.tail ∧ u.noticesIn = s.noticesIn

/-- An element of a complete row (R198): the returned slots' rows, weighted and added in slot order in FP32, rounded to the table's format. -/
def rowElement (s : State) (m : Team) (t : Reassembly) (f : Fmt) (size r e : Nat) : Nat :=
  f.round (fp32.val ((List.range t.k).foldl (fun acc i => if t.slots.getD (r * t.k + i) .waiting = .returned then
      fp32.round (((fp32.val (t.weights.getD (r * t.k + i) 0).toNat).mul (f.val (scratchNumber s m (t.slotBuf + (r * t.k + i) * (t.elems * size) + e * size) size))).add
        (fp32.val acc)) else acc) 0))

/-- Bytes [a, a + n) and [b, b + k) have none in common. -/
def clearOfEachOther (a n b k : Nat) : Prop := a + n ≤ b ∨ b + k ≤ a

/-- An armed table stands with its team on a core, OUT in the team's scratch at off; its slot buffer, its status area, its hurdle and the rows of OUT are apart from one
another, no tagged hurdle stands in the slot buffer or the rows, and no thread waits on its hurdle (R191). -/
def apart (s : State) (t : Reassembly) (m : Team) (off : Nat) : Prop :=
  s.table? t.core t.table = some t ∧ t.held = true ∧ s.team? t.grid t.team = some m ∧ m.inPlace = true ∧ t.out = .scratch off ∧ (t.rows = 1 ∨ t.rowBytes ≤ t.ostride)
    ∧ t.slots.length = t.rows * t.k ∧ t.written.length = t.rows ∧ s.waitersOf t.grid t.team t.hurdle = []
    ∧ clearOfEachOther t.slotBuf (t.rows * t.k * t.rowBytes) t.stats (16 + 2 * t.rows) ∧ clearOfEachOther t.slotBuf (t.rows * t.k * t.rowBytes) t.hurdle 16
    ∧ s.tagHit t.grid t.team t.slotBuf (t.rows * t.k * t.rowBytes) = false
    ∧ ∀ r < t.rows, s.tagHit t.grid t.team (off + r * t.ostride) t.rowBytes = false ∧ clearOfEachOther (off + r * t.ostride) t.rowBytes t.slotBuf (t.rows * t.k * t.rowBytes)
        ∧ clearOfEachOther (off + r * t.ostride) t.rowBytes t.stats (16 + 2 * t.rows) ∧ clearOfEachOther (off + r * t.ostride) t.rowBytes t.hurdle 16

/-- A notice or a return ends the one slot of its row that still waits. -/
def lastSlot (t : Reassembly) (x : RelayReturn) : Prop :=
  t.core = x.core ∧ t.table = x.table ∧ t.epoch = x.epoch ∧ x.row < t.rows ∧ x.slot < t.k ∧ t.written[x.row]? = some false
    ∧ t.slots[x.row * t.k + x.slot]? = some .waiting ∧ ∀ y < t.k, y ≠ x.slot → t.slots[x.row * t.k + y]? ≠ some .waiting

/-- Row r of OUT holds the fold of the table's slots, from the returned rows that state u has in the slot buffer (R198). -/
def foldedIn (u : State) (m : Team) (t : Reassembly) (off r : Nat) : Prop :=
  let f := if t.format = 0 then bf16 else if t.format = 1 then fp16 else fp32
  let size := if t.format = 16 then 4 else 2
  u.teamRead m (off + r * t.ostride) (t.elems * size) = (List.range t.elems).flatMap fun e => leBytes (rowElement u m t f size r e) size

end Sys2Proof.Statements

/-! ## The walker (09, part B) -/

/-- R180 to R186: a WALKER word sends its request to the object's home on channel 0 and suspends its thread; the unit there starts the walk, hands out each tile once,
folds contributions and ends the walk; the answer reaches D and lets the thread go on.
Choices of the model among what it rests on: log 28. -/
def Obligations.WalkerWords : Prop :=
  (∀ (s : State) (i : Instr) (r : TRef) (c : Ctx) (a : Reg) (d : Option Reg) (w : Ctx → WalkReq) (p : Place), s.Issues i r c → walkerOf i = some (a, d, w) → calm s r c →
    let va := (c.t.rd64 a).toNat
    va % 128 = 0 → canonical va → inAperture va = false → isFabric va = false → s.translate c.core c.asid c.system va .write = .ok p → p.host = false →
    (∀ b h, i = .wend b h → hurdleAddress c (c.t.rd h).toNat) → s.chanBroken (c.chan 0) = false → s.chanTakes (c.chan 0) (s.here p.home) s.nextOp = true →
    ∃ (u : State) (x : AtomOpRec), exec i s = .next (u.suspend i r s.nextOp (.stopped .home)) ∧ u.mem = s.mem ∧ u.threads = s.threads ∧ u.atoms = s.atoms ++ [x]
      ∧ x.op = s.nextOp ∧ x.req = .walk (w c) ∧ x.place = p.key ∧ x.thread = r ∧ x.returns = d.isSome ∧ (∀ e, d = some e → x.d = e) ∧ x.performed = false
      ∧ ∃ o ∈ u.chanOps, o.op = s.nextOp ∧ o.key = c.chan 0 ∧ o.awaits = true)
  ∧ (∀ (s : State) (n : Nat) (p : Packet) (key va : Nat) (x : AtomOpRec) (w : WalkReq), inTurn s n p → p.kind = .areq → p.body = .walk key va w →
    s.atoms.find? (fun b => b.op = p.op && !b.performed) = some x → x.req = .walk w → s.inHole key = false → (∀ k < 128, s.inHole (key + k) = false) →
    let o := walkObj (memRead s.mem key 128)
    let at_ (u : State) (k n : Nat) : Nat := leNat (memRead u.mem (key + k) n)
    (w = .walk → o.state ≠ 1 → o.ok = true → (s.walks.filter fun y => y.die = p.dst.die).length < 64 →
      ∃ u : State, exec (.channelPacketArrive (.inFlight n)) s = .next u ∧ at_ u 0x18 1 = 1 ∧ at_ u 0x60 8 = walkStartValue o.red o.width ∧ at_ u 0x68 4 = 0 ∧ at_ u 0x6C 4 = 0
        ∧ u.walks = s.walks.filter (fun y => y.place ≠ key) ++ [{ place := key, die := p.dst.die, given := [], ends := 0, hurdles := [] }] ∧ answers s u p (.value 0 []))
    ∧ (∀ y, w = .next → o.state = 1 → s.walks.find? (fun z => z.place = key) = some y → y.given.Pairwise (· < ·) → (∀ t ∈ y.given, t < o.tiles) → o.tiles < 2 ^ 32 →
      (y.given.length < o.tiles → ∃ (u : State) (t : Nat), exec (.channelPacketArrive (.inFlight n)) s = .next u ∧ t < o.tiles ∧ t ∉ y.given ∧ at_ u 0x68 4 = y.given.length + 1
        ∧ (∃ z, u.walks.find? (fun z => z.place = key) = some z ∧ ∀ v, v ∈ z.given ↔ v = t ∨ v ∈ y.given) ∧ answers s u p (.value (BitVec.ofNat 64 t) []))
      ∧ (o.tiles ≤ y.given.length → ∃ u : State, exec (.channelPacketArrive (.inFlight n)) s = .next u ∧ u.mem = s.mem ∧ u.walks = s.walks ∧ answers s u p (.value 0xFFFFFFFF [])))
    ∧ (∀ v odd second y, w = .red v odd second → o.state = 1 → o.red ≠ 0 → o.red ≤ 10 → (o.width = 1 → odd = false ∧ second ≠ 3 ∧ second ≠ 4) → s.walks.find? (fun z => z.place = key) = some y →
      ∃ u : State, exec (.channelPacketArrive (.inFlight n)) s = .next u ∧ at_ u 0x60 8 = walkFold o.red o.width o.result v.toNat ∧ u.walks = s.walks ∧ keeps s u (key + 0x60) 8
        ∧ answers s u p (.value 0 []))
    ∧ (∀ h y t, w = .fin h → s.team? x.thread.grid x.thread.team = some t → t.killed = none → o.state = 1 → s.walks.find? (fun z => z.place = key) = some y → ((s.walks.filter fun z => z.die = p.dst.die).map fun z => z.hurdles.length).sum < 4096 →
      (y.ends + 1 < o.parts → ∃ u : State, exec (.channelPacketArrive (.inFlight n)) s = .next u ∧ u.mem = s.mem ∧ answers s u p (.value 0 [])
        ∧ u.walks = updWhere (fun z => z.place = key) (fun z => { z with ends := z.ends + 1, hurdles := y.hurdles ++ [(x.thread.grid, x.thread.team, h)] }) s.walks)
      ∧ (o.parts ≤ y.ends + 1 → y.hurdles = [] → s.waitersOf x.thread.grid x.thread.team h = [] →
        ∃ u : State, exec (.channelPacketArrive (.inFlight n)) s = .next u ∧ at_ u 0x18 1 = 2 ∧ u.walks = s.walks.filter (fun z => z.place ≠ key) ∧ answers s u p (.value 0 []))))
  ∧ (∀ (s : State) (n : Nat) (p : Packet) (x : AtomOpRec) (q : WalkReq) (v : W64), s.net[n]? = some p → p.kind = .arsp → p.body = .value v [] → (∃ g t ch, p.src = .team g t ch) →
    s.atoms.find? (fun b => b.op = p.op) = some x → x.req = .walk q →
    (∀ d ∈ s.drains, d.key ≠ p.src) →
    ∃ u : State, exec (.arspReceive (.inFlight n)) s = .next u ∧ u.mem = s.mem ∧ u.atoms = s.atoms.filter (fun b => b.op ≠ x.op)
      ∧ u.threads = updWhere (fun t => t.ref = x.thread) (fun t => if t.status = .stopped .home then { (if x.returns = true then t.wr x.d (word v.toNat) else t) with status := .stopped .pass } else t) s.threads)

/-! ## The Relay unit (09, part C) -/

/-- R187 to R194, R197: EPDEF defines an endpoint or gives it up, RASM arms a table, ROUTE registers its rows for sending and notes its deadline, RRET returns a row
on its channel and clears FULL.
Choices of the model among what it rests on: log 27, 34. -/
def Obligations.RelayWords : Prop :=
  ∀ (s : State) (i : Instr) (r : TRef) (c : Ctx), s.Issues i r c →
    (∀ l a, i = .epdef l a → descriptorAt c a 64 → quiet s r →
      let o := (c.t.rd a).toNat
      let field := descField s c o
      let id := field 0 4
      let cap := field 8 2
      let row := field 0xA 2
      (∀ e, cap = 0 → s.endpoint? c.asid id = some e → e.grid = r.grid → e.team = r.team →
        exec i s = .next (({ s with nextOp := s.nextOp + 1, endpoints := s.endpoints.filter fun x => !(x.asid = c.asid && x.id = id) } : State).suspend i r s.nextOp))
      ∧ (id ≤ 4095 → 1 ≤ cap → cap ≤ 4096 → 16 ≤ row → row ≤ 4096 → row % 16 = 0 → field 0x28 24 = 0 → field 4 4 % 128 = 0 → field 4 4 + cap * (row + 16) ≤ c.kernel.scratch →
        hurdleAddress c (field 0xC 4) → s.endpoint? c.asid id = none → (s.endpoints.filter fun e => e.core = c.core && !e.away).length < 16 →
        s.spillFails c o (field 0x10 8) (field 0x18 4 * (row + 16)) = [] → s.tagHit r.grid r.team (o + 0x20) 8 = false →
        ∃ (u : State) (e : Endpoint), exec i s = .next (u.suspend i r s.nextOp) ∧ u.threads = s.threads ∧ u.endpoints = s.endpoints ++ [e] ∧ e.asid = c.asid ∧ e.id = id
          ∧ e.grid = r.grid ∧ e.team = r.team ∧ e.core = c.core ∧ e.inbox = field 4 4 ∧ e.cap = cap ∧ e.rowBytes = row ∧ e.hurdle = field 0xC 4 ∧ e.spill = field 0x10 8
          ∧ e.spillCap = field 0x18 4 ∧ e.fallback.toNat = field 0x1C 4 ∧ e.full = [] ∧ e.away = false ∧ e.seq = 0
          ∧ scratchNumber u c.team (o + 0x20) 4 = (s.boot.device * 2 ^ 16 + c.die * 2 ^ 8 + c.core) % 2 ^ 32 ∧ scratchNumber u c.team (o + 0x24) 4 = 2 ^ 31))
    ∧ (∀ l a, i = .rasm l a → descriptorAt c a 64 → quiet s r →
      let o := (c.t.rd a).toNat
      let field := descField s c o
      let bs := s.teamRead c.team o 64
      s.rasmChecks c o bs = [] → s.locks = [] →
      ∃ (u : State) (t : Reassembly), exec i s = .next (u.suspend i r s.nextOp) ∧ u.threads = s.threads ∧ u.locks = (rasmHulls bs).flatMap (c.lockOf s.nextOp)
        ∧ u.table? c.core (field 0xC 1) = some t ∧ t.held = true ∧ t.counting = true ∧ t.routed = false ∧ t.deadline = none ∧ t.grid = r.grid ∧ t.team = r.team
        ∧ t.epoch = ((s.table? c.core (field 0xC 1)).map (·.epoch)).getD 0 + 1 ∧ t.k = field 0xF 1 ∧ t.rows = field 0x10 2 ∧ t.elems = field 0x12 2 ∧ t.format = field 0xE 1
        ∧ t.slotBuf = field 0x14 4 ∧ t.hurdle = field 0x18 4 ∧ t.timeout = field 0x1C 4 ∧ t.stats = field 0x20 4 ∧ t.ostride = field 8 4 ∧ t.late = 0 ∧ t.timeouts = 0
        ∧ t.drops = 0 ∧ t.wfaults = 0 ∧ t.slots = List.replicate (t.rows * t.k) .waiting ∧ t.written = List.replicate t.rows false
        ∧ u.teamRead c.team t.stats (16 + 2 * t.rows) = List.replicate (16 + 2 * t.rows) 0)
    ∧ (∀ l ch a b t, i = .route l ch a b → calm s r c → descriptorAt c a 64 → hurdleOperandOk c b → s.chanBroken (c.chan ch.toNat) = false →
      let o := (c.t.rd a).toNat
      let field := descField s c o
      let rows := field 0xC 2
      let n := field 0xE 2
      let k := field 0x10 1
      let hs : List Hull := [{ side := .scratch (field 0 4), n := rows, stride := field 4 4, row := n, write := false }, { side := .scratch (field 8 4), n := 1, stride := 0, row := 8 * rows * k, write := false }]
      s.table? c.core (field 0x11 1) = some t → t.held = true → t.grid = r.grid → t.team = r.team → t.routed = false → field 0x11 1 ≤ 15 → rows = t.rows → n = t.rowBytes →
      k = t.k → field 0x12 1 ≤ 1 → field 0x13 45 = 0 → field 0 4 + (rows - 1) * field 4 4 + n ≤ c.kernel.scratch → field 8 4 % 8 = 0 → field 8 4 + 8 * rows * k ≤ c.kernel.scratch →
      (∀ j, j < rows * k → let id := scratchNumber s c.team (field 8 4 + 8 * j) 4; id = 0xFFFFFFFF ∨ id / 2 ^ 16 ≠ s.boot.device ∨ s.endpoint? c.asid (id % 2 ^ 16) ≠ none) →
      s.unsentBefore (c.chan ch.toNat) s.nextOp = false →
      (∀ j, j < rows * k → let id := scratchNumber s c.team (field 8 4 + 8 * j) 4; id ≠ 0xFFFFFFFF → s.roomFor (c.chan ch.toNat) (s.idDie c.asid id) = true) →
      lockRoom s c 2 →
      (∃ e, accepts s i r c b hs e ∧ e.ch = ch.toNat ∧ e.kind = .route (field 0 4) (field 4 4) (field 8 4) rows n k (field 0x11 1) (field 0x12 1) c.core t.epoch)
      ∧ ∃ v : State, exec i s = .next v ∧ v.table? c.core (field 0x11 1) = some { t with routed := true, deadline := if t.timeout = 0 then none else some (s.clockOf c.die + t.timeout * 1024) })
    ∧ (∀ l ch a b e, i = .rret l ch a b → quiet s r → s.chanBroken (c.chan ch.toNat) = false →
      let v := (c.t.rd a).toNat
      let k := v % 2 ^ 16
      let tag := e.inbox + k * (e.rowBytes + 16)
      let dst : DieId := { dev := scratchNumber s c.team (tag + 2) 2, die := scratchNumber s c.team (tag + 1) 1 / 48 % 4 }
      s.endpoint? c.asid (v / 2 ^ 16) = some e → e.grid = r.grid → e.team = r.team → k < e.cap → 2 ^ 31 ≤ scratchNumber s c.team (tag + 12) 4 →
      (c.t.rd b).toNat + e.rowBytes ≤ c.kernel.scratch → s.chanTakes (c.chan ch.toNat) dst s.nextOp = true → s.tagHit r.grid r.team (tag + 12) 4 = false →
      ∃ u : State, exec i s = .next (u.suspend i r s.nextOp) ∧ u.threads = s.threads ∧ scratchNumber u c.team (tag + 12) 4 = scratchNumber s c.team (tag + 12) 4 - 2 ^ 31
        ∧ (∃ o ∈ u.chanOps, o.op = s.nextOp ∧ o.key = c.chan ch.toNat ∧ o.awaits = false)
        ∧ u.endpoints = updWhere (fun x => x.asid = e.asid && x.id = e.id) (fun _ => { e with freeing := e.freeing.filter (fun f => f.1 ≠ k) ++ [(k, r, [])] }) s.endpoints)

/-- R190, R195 to R200: a row that has reached its endpoint takes the lowest free slot with its tag and one arrival, or, where it fits nowhere, goes back as a notice; a
notice and a returned row end their slot; the step that ends the last slot of a row leaves its fold in the row of OUT; at the deadline the slots still waiting time out.
Choices of the model among what it rests on: log 27. -/
def Obligations.RelaySteps : Prop :=
  (∀ (s : State) (r : RelayRow) (rest : List RelayRow), s.subj 0 = 0 → s.rowsIn = r :: rest →
    (∀ e m k tag, s.endpoint? r.asid r.endpoint = some e → e.rowBytes = r.data.length → e.away = false → s.team? e.grid e.team = some m → m.inPlace = true → k < e.cap →
      k ∉ s.fullSlots e → (∀ j < k, j ∈ s.fullSlots e) → s.tag? e.grid e.team e.hurdle = some tag → s.waitersOf e.grid e.team e.hurdle = [] →
      (e.hurdle + 16 ≤ e.inbox ∨ e.inbox + e.cap * (e.rowBytes + 16) ≤ e.hurdle) → s.tagHit e.grid e.team (e.inbox + k * (e.rowBytes + 16)) (e.rowBytes + 16) = false →
      ∃ u : State, exec .relayRowArrive s = .next u ∧ delivered s u e m r k (if e.seq = 0x7FFFFFFF then 1 else e.seq + 1))
    ∧ ((s.endpoint? r.asid r.endpoint = none ∨ (∃ e, s.endpoint? r.asid r.endpoint = some e ∧ (e.rowBytes ≠ r.data.length
          ∨ (e.away = false ∧ (∀ j < e.cap, j ∈ s.fullSlots e) ∧ (r.forward = false ∨ r.forwarded = true ∨ e.fallback = 0xFFFFFFFF))))) → r.srcDev = s.boot.device →
      exec .relayRowArrive s = .next { s with rowsIn := rest, noticesIn := s.noticesIn ++ [{ dev := r.srcDev, core := r.srcCore, table := r.table, epoch := r.epoch, row := r.row, slot := r.slot, data := [] }] })
    ∧ (∀ e, s.endpoint? r.asid r.endpoint = some e → e.rowBytes = r.data.length → e.away = false → (∀ j < e.cap, j ∈ s.fullSlots e) → r.forward = true → r.forwarded = false →
      e.fallback ≠ 0xFFFFFFFF → e.fallback.toNat / 2 ^ 16 = s.boot.device →
      exec .relayRowArrive s = .next { s with rowsIn := rest ++ [{ r with forwarded := true, endpoint := e.fallback.toNat % 2 ^ 16 }] }))
  ∧ (∀ (s : State) (x : RelayReturn) (rest : List RelayReturn) (t : Reassembly) (m : Team), s.subj 0 = 0 → s.table? x.core x.table = some t → t.core = x.core → t.table = x.table →
    s.team? t.grid t.team = some m → m.inPlace = true → t.held = true → t.epoch = x.epoch → x.row < t.rows → x.slot < t.k → t.slots.length = t.rows * t.k → t.written.length = t.rows →
    t.slots[x.row * t.k + x.slot]? = some .waiting →
    (∀ j, j < t.rows → t.written[j]? = some false → j = x.row ∨ ∃ y < t.k, t.slots[j * t.k + y]? = some .waiting) → t.written[x.row]? = some false →
    (∃ y < t.k, y ≠ x.slot ∧ t.slots[x.row * t.k + y]? = some .waiting) →
    (s.noticesIn = x :: rest → ∃ u : State, exec .relayDropNotice s = .next u ∧ u.noticesIn = rest
      ∧ u.table? x.core x.table = some { t with slots := t.slots.set (x.row * t.k + x.slot) .dropped, drops := t.drops + 1 })
    ∧ (s.returnsIn = x :: rest → x.data.length = t.rowBytes → (t.stats + 16 + 2 * t.rows ≤ t.slotBuf ∨ t.slotBuf + t.rows * t.k * t.rowBytes ≤ t.stats) →
      s.tagHit t.grid t.team (t.slotBuf + (x.row * t.k + x.slot) * t.rowBytes) t.rowBytes = false →
      ∃ u : State, exec .relayReturnArrive s = .next u ∧ u.returnsIn = rest ∧ u.teamRead m (t.slotBuf + (x.row * t.k + x.slot) * t.rowBytes) t.rowBytes = x.data
      ∧ u.table? x.core x.table = some { t with slots := t.slots.set (x.row * t.k + x.slot) .returned }))
  ∧ (∀ (s : State) (t : Reassembly) (m : Team) (off : Nat), apart s t m off →
    (∀ x rest, s.subj 0 = 0 → lastSlot t x → s.noticesIn = x :: rest →
      ∃ u : State, exec .relayDropNotice s = .next u ∧ foldedIn u m { t with slots := t.slots.set (x.row * t.k + x.slot) .dropped } off x.row)
    ∧ (∀ x rest, s.subj 0 = 0 → lastSlot t x → s.returnsIn = x :: rest → x.data.length = t.rowBytes →
      ∃ u : State, exec .relayReturnArrive s = .next u ∧ u.teamRead m (t.slotBuf + (x.row * t.k + x.slot) * t.rowBytes) t.rowBytes = x.data
        ∧ foldedIn u m { t with slots := t.slots.set (x.row * t.k + x.slot) .returned } off x.row)
    ∧ (∀ limit r, s.subj 0 = t.core → s.subj 1 = t.table → t.deadline = some limit → limit ≤ s.clockOf (dieOfCore t.core) → r < t.rows → t.written[r]? = some false →
      ∃ u : State, exec .reassemblyDeadline s = .next u ∧ foldedIn u m { t with slots := t.slots.map fun x => if x = .waiting then .timedOut else x } off r))
  ∧ (∀ (s : State) (t : Reassembly) (limit : Nat), s.table? (s.subj 0) (s.subj 1) = some t → t.held = true → t.deadline = some limit → s.waitersOf t.grid t.team t.hurdle = [] →
    (s.clockOf (dieOfCore (s.subj 0)) < limit → exec .reassemblyDeadline s = .next s)
    ∧ (limit ≤ s.clockOf (dieOfCore (s.subj 0)) → ∃ (u : State) (t' : Reassembly), exec .reassemblyDeadline s = .next u ∧ u.table? t.core t.table = some t' ∧ t'.deadline = none
      ∧ t'.timeouts = t.timeouts + (t.slots.filter fun x => x = .waiting).length ∧ t'.slots = t.slots.map fun x => if x = .waiting then .timedOut else x))

namespace Sys2Proof.Statements

/-! ## Launching, starting, the mailbox (01, 03, 04) -/

/-- The thread of a word and its step: thread r moved past the word, with k in its D. -/
def steppedWith (s : State) (r : TRef) (d : Reg) (k : W32) : List Thread := updWhere (fun t => t.ref = r) (fun t => t.step.wr d k) s.threads

/-- A step instance of the start sequence that ends: its place in the record, whether it passed (HOST_LINK passes at 64 GT/s and FW_LOAD with an
accepted image only), its DETAIL. -/
def stepEnd : Instr → Option (Nat × Bool × BitVec 10)
  | .fuseLoad ok d => some (1, ok, d)
  | .powerRamp ok d => some (2, ok, d)
  | .switchTrain n ok d => if n < 2 then some (3 + n, ok, d) else none
  | .towerTrain n ok d => if n < 8 then some (5 + n, ok, d) else none
  | .dieTest n ok d => if n < 4 then some (13 + n, ok, d) else none
  | .bondTest n ok d => if n < 48 then some (17 + n, ok, d) else none
  | .hostLink ok d rate => some (65, ok && rate == 64, d)
  | .vilcorTrain n ok d => if n < 24 then some (66 + n, ok, d) else none
  | .fwLoad ok d img => some (90, ok && imageAccepted img, d)
  | _ => none

/-- The mailbox answers (R21): a host link is up and the device is on. -/
def mailboxAnswers (s : State) : Prop := s.boot.link ≠ none ∧ s.boot.service ≠ .off

/-- A mailbox command of the host. -/
def mailboxWord : Instr → Prop
  | .getCaps | .getBringup | .clearBringup | .getAttest _ | .imageLoad _ | .reset | .mailboxUnknownCommand _ => True
  | _ => False

/-- The reply's bytes from offset k on as a number of n bytes, behind the status byte. -/
def replyField (b : Boot) (k n : Nat) : Nat := leNat ((b.reply.drop (1 + k)).take n)

end Sys2Proof.Statements

/-! ## SPAWN, HEAT, LAUNCH (03, 04) -/

/-- R63 to R66, R77 to R79: SPAWN joins the heat of its entry or opens one, or says why it cannot; HEAT sets the team's timer; a heat launches at its deadline, one thread
for each argument; LAUNCH accepts a child grid whose descriptor is in order.
Choices of the model among what it rests on: log 13, 39. -/
def Obligations.SpawnAndLaunch : Prop :=
  (∀ (s : State) (r : TRef) (c : Ctx) (d a b : Reg) (m : Team), s.Issues (.spawn d a b) r c → s.team? r.grid r.team = some m →
    let e := (c.t.rd a).toNat
    let limit := c.kernel.teamSize + c.grid.desc.spawn
    e % 4 = 0 → e < c.code.size →
    (∀ h, s.heats.find? (fun x => x.grid = r.grid && x.team = r.team && x.entry = e) = some h →
      (h.base + h.args.length < limit → h.args.length + 1 < 64 → exec (.spawn d a b) s = .next { s with
        threads := steppedWith s r d 0
        heats := updWhere (fun x => x = h) (fun _ => { h with args := h.args ++ [c.t.rd b] }) s.heats })
      ∧ (h.base + h.args.length < limit → h.args.length + 1 = 64 → ∃ u : State, exec (.spawn d a b) s = .next u ∧ u.threads.length = s.threads.length + 64)
      ∧ (limit ≤ h.base + h.args.length → exec (.spawn d a b) s = .next { s with threads := steppedWith s r d 2 }))
    ∧ (s.heats.find? (fun x => x.grid = r.grid && x.team = r.team && x.entry = e) = none →
      let base := (m.cursor + 63) / 64 * 64
      let open_ := (s.heats.filter fun h => h.core = c.core).length
      (16 ≤ open_ → exec (.spawn d a b) s = .next { s with threads := steppedWith s r d 1 })
      ∧ (open_ < 16 → limit ≤ base → exec (.spawn d a b) s = .next { s with threads := steppedWith s r d 2 })
      ∧ (open_ < 16 → base < limit → s.cohortsFit c.core [(base / 64 % 8, 64 * c.kernel.alloc)] = true → exec (.spawn d a b) s = .next { s with
        threads := steppedWith s r d 0
        heats := s.heats ++ [{ core := c.core, grid := r.grid, team := r.team, entry := e, base := base, args := [c.t.rd b], deadline := s.clockOf c.die + m.heatTimer }]
        teams := updWhere (fun x => x.grid = r.grid && x.idx = r.team) (fun x => { x with cursor := base + 64 }) s.teams })))
  ∧ (∀ (s : State) (r : TRef) (c : Ctx) (a : Reg), s.Issues (.heat a) r c → exec (.heat a) s = .next { s with
      threads := updWhere (fun t => t.ref = r) Thread.step s.threads
      teams := updWhere (fun x => x.grid = r.grid && x.idx = r.team) (fun x => { x with heatTimer := max 256 (min 65536 (c.t.rd a).toNat) }) s.teams })
  ∧ (∀ (s : State) (h : Heat), (s.heats.filter fun x => x.core = s.subj 0)[s.subj 1]? = some h →
      (s.clockOf (dieOfCore h.core) < h.deadline → exec .heatDeadline s = .next s)
      ∧ (∀ m k, h.deadline ≤ s.clockOf (dieOfCore h.core) → s.team? h.grid h.team = some m → (s.grid? h.grid).bind s.kernelOf = some k → 32 ≤ k.alloc →
        ∃ (u : State) (ts : List Thread), exec .heatDeadline s = .next u ∧ u.heats = s.heats.erase h ∧ u.threads = s.threads ++ ts ∧ ts.length = h.args.length
          ∧ ∀ (j : Nat) (t : Thread), ts[j]? = some t → t.ref = { grid := h.grid, team := h.team, tid := h.base + j } ∧ t.pc = h.entry ∧ t.status = .ready ∧ t.regs.length = k.alloc
            ∧ t.regs[1]? = h.args[j]?))
  ∧ (∀ (s : State) (r : TRef) (c : Ctx) (l : BitVec 4) (a b : Reg), s.Issues (.launch l a b) r c → calm s r c →
      let desc := (c.t.rd64 a).toNat
      c.t.ref.tid = 0 → c.grid.depth ≠ 10 → desc % 64 = 0 → s.spanFails c desc 320 false = [] → s.spanFails c (desc + 0x3C) 4 true = [] → hurdleOperandOk c b →
      s.released r c.core .package s.nextOp = true → clearOf s chipUnit c.asid c.system desc 320 →
      ∀ bs, s.readObject c.asid c.system desc 320 = some bs →
      (∀ k ps, s.checkDesc c.asid c.system bs false = (.ok, some k) → s.readObject c.asid c.system (fld bs 0x10 8) k.params = some ps → s.noSlot = false →
        ∃ (u : State) (x : Grid), exec (.launch l a b) s = .next (u.suspend (.launch l a b) r s.nextOp) ∧ u.threads = s.threads ∧ u.grids = s.grids ++ [x] ∧ x.id = s.nextGrid
          ∧ u.nextGrid = s.nextGrid + 1 ∧ x.asid = c.asid ∧ x.desc = parseDesc bs ∧ x.params = ps ∧ x.depth = c.grid.depth + 1 ∧ x.parent = some (r.grid, r.team) ∧ x.prio = c.grid.prio
          ∧ x.onEnd = (if b = 0 then .none else .hurdle r.grid r.team (c.t.rd b).toNat)
          ∧ ∀ key, inAperture desc = false → s.objectPlaces c.asid c.system (desc + 0x3C) 4 .write = some [(key, 4)] → s.inHole key = false → memRead u.mem key 4 = [0, 0, 0, 0])
      ∧ (∀ st k, s.checkDesc c.asid c.system bs false = (st, k) → st ≠ .ok → b = 0 →
        ∃ u : State, exec (.launch l a b) s = .next (u.suspend (.launch l a b) r s.nextOp) ∧ u.threads = s.threads ∧ u.grids = s.grids
          ∧ ∀ key, inAperture desc = false → s.objectPlaces c.asid c.system (desc + 0x3C) 4 .write = some [(key, 4)] → s.inHole key = false → leNat (memRead u.mem key 4) = st.code))

/-! ## Start, power, mailbox (01) -/

/-- R10 to R20: a start plans every instance and runs ROM_CHECK; an instance that runs ends with its status and DETAIL, and what depends on it starts; SERVE_FULL ends the
sequence; in recovery the ROM keeps the widest link that
trains and of its rates the highest, 64 GT/s first; a power window moves the clock.
Choices of the model among what it rests on: log 42, 57. -/
def Obligations.StartSequence : Prop :=
  (∀ s : State, s.boot.service ≠ .off → exec .deviceStart s = .next s)
  ∧ (∀ s : State, s.boot.service = .off → s.boot.entries.length = 92 → ∃ u : State, exec .deviceStart s = .next u ∧ u = { s with boot := u.boot } ∧ u.boot.clock = 1200
      ∧ u.boot.link = none ∧ u.boot.clearNext = false ∧ u.boot.idleCycles = false ∧ u.boot.entries.length = 92
      ∧ (s.boot.clearNext = true → u.boot.service = .starting ∧ u.boot.entries = freshRecord.modify 0 fun e => { e with attempts := 1, status := 5 })
      ∧ (∀ e, s.boot.clearNext = false → s.boot.entries[0]? = some e → e.status ≤ 2 →
        u.boot.entries[0]? = some { e with attempts := min 15 (e.attempts + 1), status := 5, altUsed := e.altUsed || decide (e.status = 2) }))
  ∧ (∀ (s : State) (i : Instr) (k : Nat) (ok : Bool) (d : BitVec 10), stepEnd i = some (k, ok, d) →
      (s.boot.running k = false → exec i s = .next s)
      ∧ (∀ e, s.boot.running k = true → s.grids = [] → s.boot.entries[k]? = some e → ∃ u : State, exec i s = .next u
        ∧ u.boot.entries[k]? = some { e with status := if ok = false then 3 else if s.boot.planAt k = some .alternate then 2 else 1, detail := if ok = true then 0 else d.toNat }
        ∧ u.boot.planAt k = none ∧ (ok = true ∨ s.boot.service = .starting → u = { s with boot := u.boot })
        ∧ (i = .hostLink true d 64 → u.boot.link = some (if s.boot.planAt 65 = some .alternate then 8 else 16, 64))
        ∧ (∀ img, i = .fwLoad true d img → imageAccepted img = true → u.boot.fwDigest = digestOf img.body)
        ∧ (∀ e2 p, i = .fuseLoad true d → s.boot.entries[2]? = some e2 → s.boot.planAt 2 = some p → e2.status ≠ 5 → s.boot.service = .starting →
          (∀ j < 92, s.boot.endedBad j = false) →
          u.boot.entries[2]? = some { e2 with attempts := min 15 (e2.attempts + 1), status := 5, altUsed := e2.altUsed || decide (p = .alternate) })))
  ∧ (∀ s : State, (s.boot.running 0 = false → exec .romCheck s = .next s)
      ∧ (∀ e, s.boot.running 0 = true → s.boot.entries[0]? = some e →
        let preferred := slotGood (if s.boot.preferB = true then s.boot.slotB else s.boot.slotA)
        let other := slotGood (if s.boot.preferB = true then s.boot.slotA else s.boot.slotB)
        ∃ u : State, exec .romCheck s = .next u ∧ u = { s with boot := u.boot }
          ∧ (preferred = true → s.boot.planAt 0 = some .normal → u.boot.runningB = s.boot.preferB ∧ u.boot.entries[0]? = some { e with status := 1, detail := 0 })
          ∧ (preferred = false → other = true → u.boot.runningB = !s.boot.preferB ∧ u.boot.entries[0]? = some { e with status := 2, detail := 0, altUsed := true })
          ∧ (preferred = false → other = false → (s.boot.service ≠ .full → u.boot.service = .recovery) ∧ u.boot.entries[0]? = some { e with status := 3, detail := Config.romDetail.toNat, altUsed := true })))
  ∧ (∀ (s : State) (e : BringupEntry), s.boot.service = .reduced → s.boot.planAt 91 ≠ none → s.boot.dep 91 = .met → s.boot.entries[91]? = some e →
      ∃ u : State, exec .serveFull s = .next u ∧ u = { s with boot := u.boot } ∧ u.boot.service = .full
        ∧ u.boot.entries[91]? = some { e with status := 1, detail := 0, attempts := min 15 (e.attempts + 1) })
  ∧ (∀ (s : State) (p : LinkPartner), s.boot.service = .recovery → s.boot.link = none →
      let tried (w r : Nat) : Prop := (w = 16 ∨ w = 8 ∨ w = 4) ∧ (r = 64 ∨ (0 < r ∧ r < 64 ∧ r ∈ p.offered))
      ((∀ w r, (w, r) ∈ p.trains → ¬tried w r) → exec (.recoveryLinkRetry p) s = .next s)
      ∧ (∀ w r, (w, r) ∈ p.trains → tried w r → (∀ w2 r2, (w2, r2) ∈ p.trains → tried w2 r2 → w2 < w ∨ (w2 = w ∧ r2 ≤ r)) →
        exec (.recoveryLinkRetry p) s = .next { s with boot := { s.boot with link := some (w, r) } }))
  ∧ (∀ (s : State) (mw : Nat), s.boot.service = .reduced ∨ s.boot.service = .full →
      (2600000 < mw → 1200 < s.boot.clock → exec (.powerWindow mw) s = .next { s with boot := { s.boot with clock := max 1200 (s.boot.clock - 50) } })
      ∧ (2600000 < mw → s.boot.clock ≤ 1200 → ∃ u : State, exec (.powerWindow mw) s = .next u ∧ u.boot = { s.boot with idleCycles := true })
      ∧ (2500000 ≤ mw → mw ≤ 2600000 → exec (.powerWindow mw) s = .next s)
      ∧ (mw < 2500000 → ∃ u : State, exec (.powerWindow mw) s = .next u
          ∧ u.boot = { s.boot with idleCycles := false, clock := if s.boot.service = .full then min 1750 (s.boot.clock + 50) else s.boot.clock }))

/-- R12, R21 to R23: while a host link is up the mailbox answers each of its commands with a status byte: the capability block, the record, a report whose fields stand at their
offsets; IMAGE_LOAD fills the slot not in use; CLEAR_BRINGUP asks for a fresh record; RESET turns the device off and keeps flash and host memory.
Choices of the model among what it rests on: log 1 and 2 (what RESET leaves of device memory, the host's memory and the occurrences to come), 7, 42. -/
def Obligations.Mailbox : Prop :=
  (∀ (s : State) (i : Instr), mailboxWord i → ¬mailboxAnswers s → exec i s = .next s)
  ∧ (∀ s : State, mailboxAnswers s →
    (∃ u : State, exec .getCaps s = .next u ∧ u = { s with boot := { s.boot with reply := u.boot.reply } } ∧ u.boot.reply.length = 129 ∧ u.boot.reply.head? = some 0
      ∧ replyField u.boot 0 4 = 1 ∧ replyField u.boot 8 4 = s.boot.clock % 2 ^ 32 ∧ replyField u.boot 0x0C 2 = ((List.range 4).filter fun k => s.boot.passed (13 + k)).length
      ∧ replyField u.boot 4 4 = (match s.boot.service with | .recovery => 0 | .reduced => 1 | .full => 2 | _ => Config.startingState.toNat))
    ∧ (∃ u : State, exec .getBringup s = .next u ∧ u = { s with boot := { s.boot with reply := u.boot.reply } } ∧ u.boot.reply.head? = some 0
      ∧ ∀ k e, s.boot.entries[k]? = some e → replyField u.boot (4 + 4 * k) 4 =
          (e.step * 2 ^ 24 + e.inst * 2 ^ 18 + e.attempts * 2 ^ 14 + e.status * 2 ^ 11 + (if e.altUsed = true then 2 ^ 10 else 0) + e.detail) % 2 ^ 32)
    ∧ (s.boot.service ≠ .recovery → exec .clearBringup s = .next { s with boot := { s.boot with clearNext := true, reply := [0] } })
    ∧ (∀ nonce, s.boot.service ≠ .recovery → ∃ u : State, exec (.getAttest nonce) s = .next u ∧ u = { s with boot := { s.boot with reply := u.boot.reply } }
      ∧ u.boot.reply.head? = some 0 ∧ replyField u.boot 0 4 = 1 ∧ replyField u.boot 8 16 = Config.deviceId.toNat ∧ replyField u.boot 24 32 = nonce.toNat)
    ∧ (∀ img, exec (.imageLoad img) s = .next { s with boot :=
        (let toB := !(if s.boot.passed 0 = true then s.boot.runningB else s.boot.preferB)
         { s.boot with slotA := if toB = true then s.boot.slotA else some img, slotB := if toB = true then some img else s.boot.slotB, preferB := toB, clearNext := true, reply := [0] }) })
    ∧ (∀ code, (code = 0 ∨ 6 < code) → exec (.mailboxUnknownCommand code) s = .next { s with boot := { s.boot with reply := [1] } })
    ∧ ∃ u : State, exec .reset s = .next u ∧ u.boot = { s.boot with service := .off, plan := [], link := none, reply := [] } ∧ u.threads = [] ∧ u.teams = [] ∧ u.grids = []
      ∧ u.codes = [] ∧ u.cycle = State.reset.cycle ∧ u.dieClock = State.reset.dieClock ∧ u.queues = State.reset.queues ∧ u.agenda = s.agenda
      ∧ ∀ k, memGet u.mem k = if isHostKey k = true then memGet s.mem k else 0)

namespace Sys2Proof.Statements

/-! ## Rings and queues (03, 12, 13) -/

/-- A host ring by number, 64 the privileged one. -/
def ringOf (s : State) (q : Nat) : Option HostQueue := if q = 64 then some s.priv else s.queues[q]?

/-- The state with that ring's record replaced. -/
def putRing (s : State) (q : Nat) (x : HostQueue) : State := if q = 64 then { s with priv := x } else { s with queues := s.queues.set q x }

/-- A ring size R44 allows: 0, or a power of two from 16 to 65,536. -/
def ringSize (n : Nat) : Prop := n = 0 ∨ ∃ k, 4 ≤ k ∧ k ≤ 16 ∧ n = 2 ^ k

/-- A well-formed entry of an opcode stands at the HEAD of a bound queue of a device that serves, in no hole, with nothing before it that holds
it (R46). -/
def entryAtHead (s : State) (q op : Nat) (x : HostQueue) (bs : List Byte) : Prop :=
  q < 64 ∧ s.queues[q]? = some x ∧ (∃ a, x.asid = some a ∧ s.readObject a x.system (x.base.toNat + 64 * x.head.toNat) 64 = some bs
      ∧ clearOf s chipUnit a x.system (x.base.toNat + 64 * x.head.toNat) 64)
    ∧ (s.boot.service = .reduced ∨ s.boot.service = .full) ∧ x.size ≠ 0 ∧ x.head ≠ x.tail ∧ (∀ p ∈ x.pending, entryOp p.2 ≠ 6)
    ∧ (fld bs 1 1 % 2 = 1 → ∀ p ∈ x.pending, entryOp p.2 ≠ 5) ∧ entryOp bs = op ∧ entryReserved bs = false ∧ entryDone bs % 8 = 0

/-- The entry has been taken: HEAD stands behind it and the count of entries taken is one more. -/
def takenFrom (x y : HostQueue) : Prop := y.head.toNat = (x.head.toNat + 1) % x.size.toNat % 2 ^ 32 ∧ y.taken = x.taken + 1 ∧ y.asid = x.asid ∧ y.base = x.base ∧ y.tail = x.tail

/-- The entry has ended with an id and a status: taken, and its completion record, where it names a place in memory, holds tag, id and status. -/
def entryEnded (s u : State) (q : Nat) (x : HostQueue) (bs : List Byte) (id : Nat) (st : Status) : Prop :=
  (∃ y, u.queues[q]? = some y ∧ takenFrom x y ∧ y.pending = x.pending)
    ∧ ∀ key, entryDone bs ≠ 0 → inAperture (entryDone bs) = false → s.objectPlaces (x.asid.getD 0) x.system (entryDone bs) 8 .write = some [(key, 8)] → s.inHole key = false →
        leNat (memRead u.mem key 4) = fld bs 4 4 ∧ leNat (memRead u.mem (key + 4) 2) = id % 2 ^ 16 ∧ leNat (memRead u.mem (key + 6) 2) = st.code

/-- The entry has been taken and waits among the pending ones. -/
def entryPends (u : State) (q : Nat) (x : HostQueue) (bs : List Byte) : Prop := ∃ y, u.queues[q]? = some y ∧ takenFrom x y ∧ y.pending = x.pending ++ [(x.taken, bs)]

/-- A device queue's BASE takes a multiple of 64 and its SIZE a ring size, each while READ equals WRITE; any other write of them leaves the queue as it is (R291). becomes:
what the write of a register leaves of the queue. -/
def queueConfigured (q : OutQueue) (v : W64) (becomes : OutQueue → RingReg → Prop) : Prop :=
  (q.read = q.write → v.toNat % 64 = 0 → becomes { q with base := v } .base)
    ∧ (q.read = q.write → v.toNat % 64 ≠ 0 → becomes q .base)
    ∧ (q.read = q.write → ringSize (v.toNat % 2 ^ 32) → becomes { q with size := BitVec.ofNat 32 v.toNat } .size)
    ∧ (q.read = q.write → ¬ringSize (v.toNat % 2 ^ 32) → becomes q .size)
    ∧ (q.read ≠ q.write → ∀ r, becomes q r)

end Sys2Proof.Statements

/-! ## Queue registers and kicks (03, 12, 13) -/

/-- R44, R45, R55, R56, R272, R291: a base or size is taken while HEAD equals TAIL and the value is in its range, else RING_ERR or RESERVED; a TAIL outside the ring is refused;
ones clear status flags; the fault, kill and event queues take BASE, SIZE and READ alike; a kick makes an instance or shows its refusal, with its code, in QSTATUS.
Choices of the model among what it rests on: log 29, 41 (a device queue's READ and WRITE stand over a write of its BASE or SIZE). -/
def Obligations.QueueRegisters : Prop :=
  (∀ (s : State) (q : Nat) (x : HostQueue), ringOf s q = some x →
    (∀ v : W64, exec (.qbaseWrite q v) s = .next (putRing s q (if x.head = x.tail ∧ v.toNat % 64 = 0 then { x with base := v, head := 0, tail := 0 } else { x with status := x.status ||| 4 })))
    ∧ (∀ v : W32, (x.head = x.tail ∧ ringSize v.toNat → exec (.qsizeWrite q v) s = .next (putRing s q { x with size := v, head := 0, tail := 0 }))
      ∧ (¬(x.head = x.tail ∧ ringSize v.toNat) → exec (.qsizeWrite q v) s = .next (putRing s q { x with status := x.status ||| 4 })))
    ∧ (∀ v : W32, exec (.tailWrite q v) s = .next (putRing s q (if v.toNat < x.size.toNat then { x with tail := v } else { x with status := x.status ||| 4 })))
    ∧ (∀ v : W32, exec (.qstatusW1c q v) s = .next (putRing s q { x with status := x.status &&& ~~~(v &&& 7) }))
    ∧ (∀ v : W32, exec (.registerWrite q v) s = .next (putRing s q { x with prio := v &&& 7 })))
  ∧ (∀ (s : State) (q : Nat) (x : HostQueue) (v : W64), q < 64 → s.queues[q]? = some x →
    exec (.kick q v false) s = .next (putRing s q { x with status := (x.status &&& 0xFFFF00FF) ||| 0x402 })
    ∧ (∀ st, (∃ s1, s.takeKick x v = (st, s1)) → st ≠ .ok → exec (.kick q v true) s = .next (putRing s q { x with
        status := (((x.status >>> 16) + 1) <<< 16) ||| (if st = .kickFull then (x.status &&& 0xFF) ||| 0xC01 else (x.status &&& 0xFF) ||| 2 ||| BitVec.ofNat 32 (st.code * 256)) }))
    ∧ (v.getLsbD 51 = true → ∃ s1, s.takeKick x v = (.reserved, s1))
    ∧ (∀ g a ps, v.getLsbD 51 = false → x.asid = some a → s.graphs.find? (fun y => y.id = (v.toNat / 2 ^ 52) && y.asid = a) = some g →
      (4 ≤ g.outstanding → ∃ s1, s.takeKick x v = (.kickFull, s1))
      ∧ (g.outstanding < 4 → s.readObject a x.system (patchTable v) (8 * gPatches g.bytes) = some ps →
        ∃ (u : State) (i : GraphInst), exec (.kick q v true) s = .next u ∧ (clearOf s chipUnit a x.system (patchTable v) (8 * gPatches g.bytes) → u.mem = s.mem) ∧ u.insts = s.insts ++ [i] ∧ i.uid = s.nextInst ∧ u.nextInst = s.nextInst + 1 ∧ i.graph = g.id
          ∧ i.number = g.instances + 1 ∧ i.asid = g.asid ∧ i.started = false ∧ i.failed = [] ∧ i.nodes = List.replicate (gNodes g.bytes) .waiting
          ∧ (∀ k, k < gPatches g.bytes → (i.patches[k]?).map (·.toNat) = some (fld ps (8 * k) 8))
          ∧ u.graphs = updWhere (fun y => y.id = g.id) (fun y => { y with instances := y.instances + 1, outstanding := y.outstanding + 1 }) s.graphs
          ∧ u.queues = s.queues.set q { x with status := (((x.status >>> 16) + 1) <<< 16) ||| (x.status &&& 0xFFFF) })))
  ∧ (∀ (s : State) (q : Nat) (x : RmaQueue), s.rmas[q]? = some x →
    (∀ v : W64, exec (.rmaRingConfigWrite q .base v) s = .next { s with rmas := s.rmas.set q (if x.head = x.tail ∧ v.toNat % 64 = 0 then { x with base := v, head := 0, tail := 0 } else { x with status := x.status ||| 8 }) })
    ∧ (∀ v : W64, (x.head = x.tail ∧ ringSize (v.toNat % 2 ^ 32) → exec (.rmaRingConfigWrite q .size v) s = .next { s with rmas := s.rmas.set q { x with size := BitVec.ofNat 32 v.toNat, head := 0, tail := 0 } })
      ∧ (¬(x.head = x.tail ∧ ringSize (v.toNat % 2 ^ 32)) → exec (.rmaRingConfigWrite q .size v) s = .next { s with rmas := s.rmas.set q { x with status := x.status ||| 8 } }))
    ∧ (∀ v : W32, exec (.rmaTailWrite q v) s = .next { s with rmas := s.rmas.set q (if v.toNat < x.size.toNat then { x with tail := v } else { x with status := x.status ||| 8 }) })
    ∧ (∀ v : W32, exec (.rstatusW1c q v) s = .next { s with rmas := s.rmas.set q { x with status := x.status &&& ~~~(v &&& 0xF) } }))
  ∧ (∀ s : State,
    (∀ v : W32, exec (.queueReadWrite .fault v) s = .next { s with faultQ := { s.faultQ with read := v } } ∧ exec (.queueReadWrite .kill v) s = .next { s with killQ := { s.killQ with read := v } }
      ∧ exec (.queueReadWrite .event v) s = .next { s with eventQ := { s.eventQ with read := v } })
    ∧ (∀ (v : W64), queueConfigured s.faultQ v fun q r => exec (.queueConfigWrite .fault r v) s = .next { s with faultQ := q })
    ∧ (∀ (v : W64), queueConfigured s.killQ v fun q r => exec (.queueConfigWrite .kill r v) s = .next { s with killQ := q })
    ∧ (∀ (v : W64), queueConfigured s.eventQ v fun q r => exec (.queueConfigWrite .event r v) s = .next { s with eventQ := q }))

/-! ## Ring entries (03) -/

/-- R42, R43, R46, R50, R54, R62: each well-formed entry at HEAD is taken and has the effect of its opcode, with its completion record; a LAUNCH and an unmet WAIT_VALUE stay
pending; a malformed entry is passed over with RING_ERR.
Choices of the model among what it rests on: log 29, 59 (the object id of a record that names none, a status word that cannot be written), 61 (LOAD_CODE and UPLOAD_GRAPH
assign the lowest free number). -/
def Obligations.RingEntries : Prop :=
  ∀ (s : State) (x : HostQueue) (bs : List Byte), let q := s.subj 0
    (entryAtHead s q 1 x bs →
      (∀ h ob id, s.readObject (x.asid.getD 0) x.system (fld bs 8 8) 80 = some h → fld h 0 4 = 0x4F435A41 → fld h 4 2 = 1 →
        s.readObject (x.asid.getD 0) x.system (fld bs 8 8) (codeEnd h) = some ob → codeStatus ob = .ok → 1 ≤ id → id ≤ 1023 → (∀ c ∈ s.codes, c.id ≠ id) →
        (∀ j, 1 ≤ j → j < id → ∃ c ∈ s.codes, c.id = j) → clearOf s chipUnit (x.asid.getD 0) x.system (fld bs 8 8) (codeEnd h) →
        ∃ u : State, exec .loadCode s = .next u ∧ u.codes = s.codes ++ [parseCode id (x.asid.getD 0) ob] ∧ entryEnded s u q x bs id .ok)
      ∧ (s.readObject (x.asid.getD 0) x.system (fld bs 8 8) 80 = none → clearOf s chipUnit (x.asid.getD 0) x.system (fld bs 8 8) 80 → ∃ u : State, exec .loadCode s = .next u ∧ u.codes = s.codes ∧ entryEnded s u q x bs 0 .fault))
    ∧ (entryAtHead s q 2 x bs →
      ((∀ c ∈ s.codes, c.id = fld bs 2 2 → some c.asid ≠ x.asid) → ∃ u : State, exec .unloadCode s = .next u ∧ u.codes = s.codes ∧ entryEnded s u q x bs (fld bs 2 2) .unknownId)
      ∧ ((∃ c ∈ s.codes, c.id = fld bs 2 2 ∧ some c.asid = x.asid) →
        (s.codeInUse (fld bs 2 2) = true → ∃ u : State, exec .unloadCode s = .next u ∧ u.codes = s.codes ∧ entryEnded s u q x bs (fld bs 2 2) .inUse)
        ∧ (s.codeInUse (fld bs 2 2) = false → ∃ u : State, exec .unloadCode s = .next u ∧ u.codes = s.codes.filter (fun c => c.id ≠ fld bs 2 2) ∧ entryEnded s u q x bs (fld bs 2 2) .ok)))
    ∧ (entryAtHead s q 3 x bs → ∀ h ob id, s.readObject (x.asid.getD 0) x.system (fld bs 8 8) 64 = some h → 64 ≤ fld h 0x24 4 →
        s.readObject (x.asid.getD 0) x.system (fld bs 8 8) (fld h 0x24 4) = some ob → clearOf s chipUnit (x.asid.getD 0) x.system (fld bs 8 8) (fld h 0x24 4) →
        (s.graphStatus (x.asid.getD 0) x.system ob = .ok → 1 ≤ id → id ≤ 4095 → (∀ g ∈ s.graphs, g.id ≠ id) → (∀ j, 1 ≤ j → j < id → ∃ g ∈ s.graphs, g.id = j) →
          ∃ u : State, exec .uploadGraph s = .next u ∧ u.graphs = s.graphs ++ [{ id := id, asid := x.asid.getD 0, system := x.system, bytes := ob, instances := 0, outstanding := 0 }]
            ∧ entryEnded s u q x bs id .ok)
        ∧ (∀ st, s.graphStatus (x.asid.getD 0) x.system ob = st → st ≠ .ok → ∃ u : State, exec .uploadGraph s = .next u ∧ u.graphs = s.graphs ∧ entryEnded s u q x bs 0 st))
    ∧ (entryAtHead s q 4 x bs →
      (s.graph? (x.asid.getD 0) (fld bs 2 2) = none → ∃ u : State, exec .releaseGraph s = .next u ∧ u.graphs = s.graphs ∧ entryEnded s u q x bs (fld bs 2 2) .unknownId)
      ∧ (∀ g, s.graph? (x.asid.getD 0) (fld bs 2 2) = some g →
        (g.outstanding ≠ 0 → ∃ u : State, exec .releaseGraph s = .next u ∧ u.graphs = s.graphs ∧ entryEnded s u q x bs (fld bs 2 2) .inUse)
        ∧ (g.outstanding = 0 → ∃ u : State, exec .releaseGraph s = .next u ∧ u.graphs = s.graphs.filter (fun y => y.id ≠ fld bs 2 2) ∧ entryEnded s u q x bs (fld bs 2 2) .ok)))
    ∧ (entryAtHead s q 5 x bs →
      (fld bs 8 8 % 64 ≠ 0 → ∃ u : State, exec .ringLaunch s = .next u ∧ u.grids = s.grids ∧ entryEnded s u q x bs 0 .range)
      ∧ (∀ d k ps, fld bs 8 8 % 64 = 0 → s.readObject (x.asid.getD 0) x.system (fld bs 8 8) 320 = some d → s.checkDesc (x.asid.getD 0) x.system d false = (.ok, some k) →
        s.readObject (x.asid.getD 0) x.system (fld d 0x10 8) k.params = some ps → s.noSlot = false → clearOf s chipUnit (x.asid.getD 0) x.system (fld bs 8 8) 320 →
        ∃ (u : State) (y : Grid), exec .ringLaunch s = .next u ∧ u.grids = s.grids ++ [y] ∧ y.id = s.nextGrid ∧ y.desc = parseDesc d ∧ y.params = ps ∧ y.depth = 1 ∧ y.parent = none
          ∧ y.prio = x.prio.toNat ∧ y.onEnd = .ring q x.taken ∧ u.rdc = [] ∧ entryPends u q x bs))
    ∧ (entryAtHead s q 6 x bs → ∀ w, s.readObject (x.asid.getD 0) x.system (fld bs 8 8) 8 = some w → clearOf s chipUnit (x.asid.getD 0) x.system (fld bs 8 8) 8 →
      (fld bs 0x18 8 ≤ leNat w → ∃ u : State, exec .waitValue s = .next u ∧ entryEnded s u q x bs 0 .ok)
      ∧ (leNat w < fld bs 0x18 8 → ∃ u : State, exec .waitValue s = .next u ∧ u.mem = s.mem ∧ entryPends u q x bs))
    ∧ (∀ n e w, q < 64 → s.queues[q]? = some x → x.pending = [(n, e)] → entryOp e = 6 → s.readObject (x.asid.getD 0) x.system (fld e 8 8) 8 = some w →
      clearOf s chipUnit (x.asid.getD 0) x.system (fld e 8 8) 8 →
      (leNat w < fld e 0x18 8 → exec .waitValueSatisfied s = .next s)
      ∧ (fld e 0x18 8 ≤ leNat w → ∃ (u : State) (y : HostQueue), exec .waitValueSatisfied s = .next u ∧ u.queues[q]? = some y ∧ y.pending = [] ∧ y.head = x.head))
    ∧ (entryAtHead s q 7 x bs → x.pending = [] → ∀ key, inAperture (fld bs 8 8) = false → s.objectPlaces (x.asid.getD 0) x.system (fld bs 8 8) 8 .write = some [(key, 8)] →
      s.inHole key = false → entryDone bs = 0 → ∃ u : State, exec .writeValue s = .next u ∧ leNat (memRead u.mem key 8) = fld bs 0x18 8 ∧ keeps s u key 8 ∧ entryEnded s u q x bs 0 .ok)
    ∧ (q < 64 → s.queues[q]? = some x →
      (s.headEntry q = .bytes bs → entryDone bs % 8 = 0 → entryReserved bs = true → ∃ (u : State) (y : HostQueue), exec .ringEntryReserved s = .next u ∧ u.queues[q]? = some y
        ∧ takenFrom x y ∧ y.status = x.status ||| 4)
      ∧ (s.headEntry q = .unreadable → (∀ a, x.asid = some a → clearOf s chipUnit a x.system (x.base.toNat + 64 * x.head.toNat) 64) → exec .ringEntryReserved s = .next (putRing s q { x with head := BitVec.ofNat 32 ((x.head.toNat + 1) % x.size.toNat), taken := x.taken + 1, status := x.status ||| 4 })))

/-! ## Task graphs (03) -/

/-- R57 to R61: an instance starts when it may, its first nodes with it; a clean edge drops its regions' lines; a node whose edges have finished starts, a join at once, another
as a grid with its patched parameters; a finished instance gives its kick back and writes its done word.
Choices of the model among what it rests on: log 29, 40, 59. -/
def Obligations.TaskGraphs : Prop :=
  ∀ (s : State) (i : GraphInst) (g : Graph), s.insts.find? (fun j => j.uid = s.subj 0) = some i → s.graphs.find? (fun y => y.id = i.graph) = some g →
    let b := g.bytes
    let n := s.subj 1
    (i.started = false → (gReentrant b = true ∨ ∀ j ∈ s.insts, j.graph = i.graph → i.number ≤ j.number) → gEdges b = 0 → (∀ k, k < gNodes b → isJoin b k = true) → i.nodes.length = gNodes b →
      ∃ (u : State) (j : GraphInst), exec .graphInstanceStart s = .next u ∧ u.mem = s.mem ∧ u.insts.find? (fun x => x.uid = i.uid) = some j ∧ j.started = true
        ∧ j.nodes = List.replicate (gNodes b) .ended ∧ j.failed = i.failed)
    ∧ ((i.started = true ∨ (gReentrant b = false ∧ ∃ j ∈ s.insts, j.graph = i.graph ∧ j.number < i.number)) → exec .graphInstanceStart s = .next s)
    ∧ (n < gEdges b → i.edges[n]? = some false → producer b n ≠ 0xFFFF → i.nodes[producer b n]? = some .ended →
      ∃ u : State, exec .edgeClean s = .next u ∧ u = { s with l1 := u.l1, rdc := u.rdc, insts := updWhere (fun j => j.uid = i.uid) (fun j => { j with edges := j.edges.set n true }) s.insts }
        ∧ u.l1.Sublist s.l1 ∧ u.rdc.Sublist s.rdc
        ∧ (∀ l ∈ u.rdc, ∀ r ∈ edgeRegions b n, ∀ y ∈ pageChunks r.1 r.2, ∀ key, s.placeUnder i.asid y.1 = some key → overlap (l.line * 128) 128 key y.2 = false)
        ∧ (∀ l ∈ s.rdc, (∀ r ∈ edgeRegions b n, ∀ y ∈ pageChunks r.1 r.2, ∀ key, s.placeUnder i.asid y.1 = some key → overlap (l.line * 128) 128 key y.2 = false) → l ∈ u.rdc))
    ∧ (i.started = true → n < gNodes b → i.nodes[n]? = some .waiting → (∀ e, e < gEdges b → consumer b e = n → i.edges[e]? = some true) →
      (isJoin b n = true → exec .graphNodeStart s = .next { s with insts := updWhere (fun j => j.uid = i.uid) (fun j => { j with nodes := j.nodes.set n .ended }) s.insts })
      ∧ (isJoin b n = false → s.nodeTooLarge i.asid (parseDesc (nodeDesc b n)) = false →
        ∃ (u : State) (y : Grid), exec .graphNodeStart s = .next u ∧ u.grids = s.grids ++ [y] ∧ y.id = s.nextGrid ∧ y.desc = parseDesc (nodeDesc b n) ∧ y.params = nodeParams b i n
          ∧ y.depth = 1 ∧ y.prio = i.prio ∧ y.onEnd = .node i.uid n
          ∧ u.insts = updWhere (fun j => j.uid = i.uid) (fun j => { j with nodes := j.nodes.set n (.running s.nextGrid) }) s.insts))
    ∧ (i.started = true → (∀ e, e < gEdges b → consumer b e = 0xFFFF → i.edges[e]? = some true) →
      (∀ k, k < gNodes b → (∀ e, e < gEdges b → producer b e = k → consumer b e = 0xFFFF) → i.nodes[k]? = some .ended) → i.failed = [] →
      (fld b 0x28 8 = 0 → exec .graphInstanceComplete s = .next { s with
          insts := s.insts.filter fun j => j.uid ≠ i.uid
          graphs := updWhere (fun y => y.id = i.graph) (fun y => { y with outstanding := y.outstanding - 1 }) s.graphs })
      ∧ (∀ key, fld b 0x28 8 ≠ 0 → s.objectPlaces i.asid i.system (fld b 0x28 8) 8 .write = some [(key, 8)] → s.inHole key = false → i.number < 2 ^ 63 →
        ∃ u : State, exec .graphInstanceComplete s = .next u ∧ leNat (memRead u.mem key 8) = i.number ∧ keeps s u key 8 ∧ u.insts = s.insts.filter fun j => j.uid ≠ i.uid))

/-! ## Placement (04) -/

/-- R48, R67 to R76, R80, R84 to R86, R285 to R287: a team is placed with its threads at their start; an empty core takes a carve code a waiting team calls for; a ready team comes
back where there is room; a team leaves for one that waits, the tops of its return stacks written to their slot; a Starter issues up to two gangs of ready threads; a waiting grid takes a free slot.
Choices of the model among what it rests on: log 38, 45, 54, 55. -/
def Obligations.TeamPlacement : Prop :=
  (∀ (s : State) (x : Grid) (k : Kernel) (core : Nat) (p : Spot) (i : Nat) (y : Grid), s.grid? x.id = some x → s.kernelOf x = some k → x.queued = false → x.desc.coResident = false →
    s.outranked core x = false → s.spotOn core x k = some p → x.again = [] →
    s.takeIndex s.choose.1 x (clusterOfCore core) = (some i, y) →
    ∃ (u : State) (t : Team) (ts : List Thread), exec (.teamPlace x.id [core]) s = .next u ∧ u.teams = s.teams ++ [t] ∧ u.threads = s.threads ++ ts ∧ t.grid = x.id ∧ t.idx = i
      ∧ t.core = some core ∧ t.scratch = p.scratch ∧ t.localSlot = p.localSlot ∧ t.rstackSlot = p.rstackSlot ∧ t.attempt = 0 ∧ t.lastCause = 0 ∧ t.heatTimer = 4096
      ∧ ts.length = k.teamSize ∧ ∀ (j : Nat) (v : Thread), ts[j]? = some v → v.ref = { grid := x.id, team := i, tid := j } ∧ v.pc = k.entry ∧ v.status = .ready ∧ v.preds = 0 ∧ v.wbase = 0
        ∧ v.stack = [] ∧ v.trap = none ∧ v.regs.length = k.alloc
        ∧ (16 ≤ k.alloc → ∀ n, n < k.alloc → v.regs[n]? = some (if n = 15 then word (p.localSlot + (j + 1) * s.stackSize x.asid : Nat) else 0)))
  ∧ (∀ (s : State) (core code : Nat) (x : Grid) (k : Kernel), x ∈ s.grids → x.queued = false → (x.unplaced ≠ [] ∨ x.again ≠ []) → s.kernelOf x = some k →
    s.wantsCarve core code x k = true → code ≤ 5 → s.boot.coreUp core = true → code ≠ s.carveOf core → s.scratchOn core = [] →
    ∃ u : State, exec (.carveChange core code) s = .next u ∧ u.threads = s.threads ∧ u.teams = s.teams ∧ u.l1 = s.l1.filter (fun l => l.owner ≠ core) ∧ u.carveOf core = code
      ∧ ∀ c, c ≠ core → u.carveOf c = s.carveOf c)
  ∧ (∀ (s : State) (x : Grid) (k : Kernel) (t : Team) (core o : Nat), s.grid? x.id = some x → s.kernelOf x = some k → x.desc.coResident = false → s.team? x.id t.idx = some t →
    t.grid = x.id → s.readyToResume t = true → s.resumeSpot t x k core = some o → (∀ y ∈ s.grids, x.prio < y.prio → s.couldPlace core y = false ∧ s.couldResume core y = false) →
    (∀ v ∈ s.threadsOf x.id t.idx, (∀ a b c d, v.status ≠ .waitHurdle a b c d) ∧ ∀ n, v.status ≠ .waitQueue n) →
    ∃ (u : State) (t' : Team), exec (.teamResume x.id [(t.idx, core)]) s = .next u ∧ u.team? x.id t.idx = some t'
      ∧ t' = { t with core := some core, lastCore := core, scratch := o, held := false, saved := [], waitDie := dieOfCore core }
      ∧ (t.held = false → s.trace = [] → s.eventQ.size = 0 → s.endpoints = [] → s.ragged = [] → t.saved.Pairwise (fun a b => a.1 < b.1) → ∀ n, n < (k.scratch + 127) / 128 * 128 →
        memGet u.mem (scratchKey core o + n) = memGet t.saved n))
  ∧ (∀ (s : State) (t : Team) (x : Grid) (w : Grid × Option Team), s.subject = [t.grid, t.idx] → s.team? t.grid t.idx = some t → s.grid? t.grid = some x → x.desc.coResident = false →
    s.evictable t = true → s.anyWakes t = false → w ∈ s.waiters x.prio → s.holds [t.lastCore] w = false → (s.evictOne t).holds [t.lastCore] w = true →
    ∃ (u : State) (t' : Team), exec .teamEvict s = .next u ∧ u.team? t.grid t.idx = some t' ∧ t'.core = none ∧ t'.count.evictions = t.count.evictions + 1
      ∧ u.threads = updWhere (fun v => v.ofTeam t.grid t.idx) (fun v => { v with starve := 0 }) s.threads
      ∧ (∀ v, s.threadsOf t.grid t.idx = [v] → v.status ≠ .exited → s.dirty = [] → s.endpoints = [] → s.trace = [] → ∀ k e, k < 4 → v.stack[k]? = some e →
        (∀ j < 4, s.inHole (t.stackKey v.ref.tid (v.stack.length - 1 - j)) = false) → let key := t.stackKey v.ref.tid (v.stack.length - 1 - k)
        leNat (memRead u.mem key 4) = e.1 % 2 ^ 32 ∧ leNat (memRead u.mem (key + 4) 4) = e.2 % 2 ^ 32)
      ∧ ((∀ v ∈ s.threadsOf t.grid t.idx, v.stack = []) → s.dirty = [] → s.endpoints = [] → s.hurdles = [] → t'.held = false ∧ ∀ n, n < (s.scratchRange (x, t)).2 → memGet t'.saved n = memGet s.mem (scratchKey t.lastCore t.scratch + n)))
  ∧ (∀ s : State, let ts := s.partThreads (s.subj 0) (s.subj 1)
    (∀ t ∈ ts, s.mismatched t = false) → ∃ (u : State) (gs : List (List TRef)), exec .starterPick s = .next u ∧ u.issueQ = s.issueQ ++ gs ∧ gs.length ≤ 2
      ∧ ((∃ t ∈ ts, s.isReady t = true) → gs ≠ [])
      ∧ ∀ g ∈ gs, g.length ≤ 64 ∧ ∀ r ∈ g, ∃ t ∈ s.threads, t.ref = r ∧ t.cohort % 8 = s.subj 1 ∧ t.status = .ready ∧ ∀ n, t.lastIssue = some n → n + 1 < s.clockOf (dieOfCore (s.subj 0)))
  ∧ (∀ (s : State) (x : Grid), (s.grids.filter fun y => !y.queued).length < 4096 → s.grids.find? (·.queued) = some x → (∀ a b, x.onEnd ≠ .node a b) →
    ∃ (u : State) (y : Grid), exec .gridSlotFreed s = .next u ∧ u.grids = updWhere (fun z => z.id = x.id) (fun z => { z with queued := false, unplaced := y.unplaced }) s.grids)

/-! ## Stops, traps, retirement (13, 14) -/

/-- R89, R279 to R284: at the end of its stop a thread goes on, or takes its cause; a cause that kills takes effect as the cycle of its die ends, of several that of the
lowest sr.tid; a thread that waits for trap entry enters the handler once no pending set stands; the oldest
fault and kill records reach their rings. R293, R294: a team whose threads have exited retires, and a grid without teams.
Choices of the model among what it rests on: log 8, 17. -/
def Obligations.StopsAndRecords : Prop :=
  (∀ (s : State) (r : TRef) (c : Ctx), s.ctx? r = some c →
    (c.t.status = .stopped .pass → c.team.killed = none → exec (.preciseStopEnd r) s = .next (s.modThread r fun t => { t.step with status := .ready }))
    ∧ (∀ f entry, c.t.status = .stopped (.fail f) → (∀ t ∈ s.threads, t.ref = r → t = c.t) → c.kernel.trap = some entry → c.t.trap = none → f.cause ≠ .notPresent → f.cause ≠ .breakpoint →
      c.team.killed = none → hasPending c.t = false → s.inFaultWait r.grid r.team = false → exec (.preciseStopEnd r) s = .next (s.modThread r fun t =>
        { t with trap := some { cause := f.cause.code, tpc := t.pc, taddr := f.addr, tinfo := false, wbase := t.wbase, depth := t.stack.length, gval := t.gval, gcnt := t.gcnt }
                 pc := entry, gcnt := 0, windows := [], status := .ready }))
    ∧ (∀ f, c.t.status = .stopped (.fail f) → (∀ t ∈ s.threads, t.ref = r → t = c.t) → c.kernel.trap = none → c.t.trap = none → f.cause ≠ .notPresent → f.cause ≠ .breakpoint →
      c.team.killed = none → ∃ (u : State) (m : Team) (k : KillInfo), exec (.preciseStopEnd r) s = .next u ∧ u.team? r.grid r.team = some m ∧ m.dying = some k ∧ m.killed = none
        ∧ (∀ t ∈ u.threads, t.ref = r → t.status = .exited)
        ∧ (∀ d, c.team.dying = some d → d.tid ≤ r.tid → k = d) ∧ (c.team.dying = none ∨ (∃ d, c.team.dying = some d ∧ r.tid < d.tid) → k.cause = f.cause.code ∧ k.tid = r.tid))
    ∧ (∀ f entry, c.t.status = .trapWait f → c.kernel.trap = some entry →
      (s.inFaultWait r.grid r.team = true ∨ hasPending c.t = true → exec (.trapEntry r) s = .next s)
      ∧ (s.inFaultWait r.grid r.team = false → hasPending c.t = false → exec (.trapEntry r) s = .next (s.modThread r fun t =>
        { t with trap := some { cause := f.cause.code, tpc := t.pc, taddr := f.addr, tinfo := false, wbase := t.wbase, depth := t.stack.length, gval := t.gval, gcnt := t.gcnt }
                 pc := entry, gcnt := 0, windows := [], status := .ready })))
    ∧ (c.t.status = .ready → s.fences = [] → exec (.preciseStopEnd r) s = .next s))
  ∧ (∀ (s : State) (t : Team) (x : Grid) (k : KillInfo) (core : Nat), s.boot.service ≠ .off → s.agenda = [] → s.issueQ = [] → s.turn = 383 → s.teams = [t] → s.grid? t.grid = some x →
    t.core = some core → dieOfCore core = s.turnDie → t.dying = some k → t.killed = none →
    ∃ (u : State) (m : Team), step s = .next u ∧ u.teams = [m] ∧ m.killed = some k.cause ∧ m.dying = none
      ∧ ∀ v ∈ u.threads, v.ofTeam t.grid t.idx = true → v.status = .exited ∨ ∃ st, v.status = .stopped st)
  ∧ (∀ (s : State) (t : Team) (x : Grid), s.team? (s.subj 0) (s.subj 1) = some t → s.grid? t.grid = some x → (∀ v ∈ s.threadsOf t.grid t.idx, v.status = .exited) →
    (∀ h ∈ s.heats, ¬(h.grid = t.grid ∧ h.team = t.idx)) → (∀ a ∈ s.atoms, ¬(a.thread.grid = t.grid ∧ a.thread.team = t.idx)) → (∀ e ∈ s.engines, ¬(e.grid = t.grid ∧ e.team = t.idx)) →
    (∀ m ∈ s.mmas, ¬(m.grid = t.grid ∧ m.team = t.idx)) → (∀ b ∈ s.tables, b.heldBy t.grid t.idx = false) → (∀ o ∈ s.chanOps, (∃ ch, o.key = .team t.grid t.idx ch) → o.isOver = true) →
    t.killed = none → t.dying = none → t.count.issued = false → ∃ u : State, exec .teamRetire s = .next u ∧ u.teams = s.teams.filter (fun v => !(v.grid = t.grid && v.idx = t.idx)) ∧ (∀ v ∈ u.threads, v.ofTeam t.grid t.idx = false)
      ∧ (∀ v ∈ s.threads, v.ofTeam t.grid t.idx = false → v ∈ u.threads) ∧ (∀ h ∈ u.hurdles, ¬(h.grid = t.grid ∧ h.team = t.idx)) ∧ (∀ v ∈ u.intervals, v.heldBy t.grid t.idx = false)
      ∧ (∀ e ∈ u.endpoints, ¬(e.grid = t.grid ∧ e.team = t.idx)) ∧ ∃ y, u.grid? x.id = some y ∧ y.retired = x.retired + 1)
  ∧ (∀ (s : State) (t : Team) (v : Thread), s.team? (s.subj 0) (s.subj 1) = some t → v ∈ s.threadsOf t.grid t.idx → v.status ≠ .exited → exec .teamRetire s = .next s)
  ∧ (∀ (s : State) (x : Grid), s.grid? (s.subj 0) = some x → x.queued = false → x.unplaced = [] → x.again = [] → (∀ t ∈ s.teams, t.grid ≠ x.id) →
    (∀ y ∈ s.grids, ∀ i, y.parent ≠ some (x.id, i)) → (∀ w ∈ s.wtb, w.thread.grid ≠ x.id) → (∀ a ∈ s.atoms, a.thread.grid ≠ x.id) →
    (x.onEnd = .none → x.desc.blockBuf = 0 → exec .gridRetire s = .next { s with grids := s.grids.filter fun y => y.id ≠ x.id })
    ∧ (∀ g i off m tag, x.onEnd = .hurdle g i off → x.desc.blockBuf = 0 → s.team? g i = some m → s.tag? g i off = some tag → s.waitersOf g i off = [] → m.inPlace = true →
      ∃ u : State, exec .gridRetire s = .next u ∧ u.grids = s.grids.filter (fun y => y.id ≠ x.id) ∧ u.hurdle m off = afterArrival 1 (s.hurdle m off)))
  ∧ (∀ (s : State) (f : FaultRec), s.faultRecs.find? (fun g => !g.posted) = some f →
    let q := s.faultQ
    let room : Prop := q.size ≠ 0 ∧ (q.write.toNat + 1) % q.size.toNat ≠ q.read.toNat % q.size.toNat
    (¬room → exec .faultRecordPost s = .next s)
    ∧ (room → ∃ u : State, exec .faultRecordPost s = .next u ∧ memRead u.mem (hostKey (q.base.toNat + q.write.toNat % q.size.toNat * f.bytes.length)) f.bytes.length = f.bytes
      ∧ u.faultQ = { q with write := BitVec.ofNat 32 ((q.write.toNat + 1) % q.size.toNat) } ∧ u.faultRecs = updWhere (fun g => g.seq = f.seq) (fun g => { g with posted := true }) s.faultRecs))
  ∧ (∀ (s : State) (k : List Byte) (rest : List (List Byte)), s.killQ.held = k :: rest →
    let q := s.killQ
    q.size ≠ 0 → (q.write.toNat + 1) % q.size.toNat ≠ q.read.toNat % q.size.toNat →
    ∃ u : State, exec .killRecordPost s = .next u ∧ memRead u.mem (hostKey (q.base.toNat + q.write.toNat % q.size.toNat * k.length)) k.length = k
      ∧ u.killQ = { q with write := BitVec.ofNat 32 ((q.write.toNat + 1) % q.size.toNat), held := rest })

namespace Sys2Proof.Statements

/-! ## Channels (12) -/

/-- No DRAIN, engine operation or request of a thread stands anywhere, and nothing waits to be sent. -/
def calmChannels (s : State) : Prop := s.drains = [] ∧ s.engines = [] ∧ s.atoms = [] ∧ ∀ e ∈ s.srcEntries, e.waiting = []

/-- An answer of a kind for this device is in flight, of its channel's epoch, for an entry that is not BROKEN; it concerns a team's channel. -/
def answerInFlight (s : State) (n : Nat) (k : PKind) (p : Packet) : Prop :=
  s.net[n]? = some p ∧ p.kind = k ∧ (∃ g t ch, p.src = .team g t ch) ∧ p.epoch = (s.chanRec p.src).epoch ∧ (s.entry p.src p.srcAt).state ≠ .broken

/-- A packet for a die of this device is in flight there, unless the die cannot be reached. -/
def sentTo (s u : State) (d : DieId) (q : Packet) : Prop := d.dev = s.boot.device → s.unreachable.contains d = false → q ∈ u.net

/-- An element of a reduction (R267): 0 and 1 ADD of 32 and 64 bits, 2 and 3 signed minimum and maximum, 4 AND, 5 OR, 6 to 8 FP32 ADD, minimum, maximum, 9 packed BF16 ADD. -/
def rredElement (rop x y : Nat) : Nat :=
  let a : Int := (BitVec.ofNat 32 x).toInt
  let b : Int := (BitVec.ofNat 32 y).toInt
  match rop with
  | 0 => (x + y) % 2 ^ 32
  | 1 => (x + y) % 2 ^ 64
  | 2 => (word (min a b)).toNat
  | 3 => (word (max a b)).toNat
  | 4 => x &&& y
  | 5 => x ||| y
  | 6 => arith fp32 0 x y 0
  | 7 => arith fp32 5 x y 0
  | 8 => arith fp32 6 x y 0
  | _ => arith bf16 0 (x % 2 ^ 16) (y % 2 ^ 16) 0 + 2 ^ 16 * arith bf16 0 (x / 2 ^ 16) (y / 2 ^ 16) 0

/-- Bytes of an element of a reduction. -/
def reducedSize (rop : Nat) : Nat := if rop = 1 then 8 else 4

/-- Each element of a result is that of two others combined. -/
def combines (rop elems : Nat) (z x y : List Byte) : Prop :=
  ∀ k, k < elems → let w := reducedSize rop
    fld z (k * w) w = rredElement rop (fld x (k * w) w) (fld y (k * w) w)

/-- An RRED of this device is in flight and names a hurdle of its team, in its place and waited on by no thread; nothing else ends with it. -/
def contributing (s : State) (op : Nat) (e : EngineOp) (m : Team) (h : Nat) : Prop :=
  s.engine? op = some e ∧ (∃ c, e.kind = .rred c) ∧ e.hurdle = some h ∧ e.prog = none ∧ s.team? e.grid e.team = some m ∧ m.inPlace = true ∧ s.tag? e.grid e.team h ≠ none
    ∧ s.waitersOf e.grid e.team h = [] ∧ s.drains = [] ∧ (∀ x ∈ s.engines, ∀ t, x.kind ≠ .accclr t) ∧ ∀ z ∈ s.rred, z.closing = false

/-- A contributor has heard the end of its reduction: its engine has left and its hurdle has one arrival with flags; its operation, where it ends so, is marked for the next DRAIN. -/
def heard (s u : State) (op : Nat) (e : EngineOp) (m : Team) (h flags : Nat) (mark : ChanOp → ChanOp) : Prop :=
  u.engines = s.engines.filter (fun x => x.op ≠ op) ∧ (∀ l ∈ u.locks, l.op ≠ op)
    ∧ u.hurdle m h = afterArrival 1 { s.hurdle m h with flags := (s.hurdle m h).flags ||| flags }
    ∧ ∀ o ∈ s.chanOps, o.key = .team e.grid e.team e.ch → o.op = op → o.left = 1 → o.awaits = false → o.reported = false → e.ord ≠ 0 →
        ((mark o).refused = true ∨ (mark o).late = true) → mark { o with left := 0 } ∈ u.chanOps

end Sys2Proof.Statements

/-! ## Channel protocol (12) -/

/-- R256 to R265, R274, R276: a packet in sequence is performed once, an earlier one is answered again and one past a gap is held; acknowledgements, refusals, NACKs,
resynchronisation and CLOSE change the entries as stated; a die without a path breaks its entries. A packet of 16 bytes is two events in no order (R226): one of them may come first.
Choices of the model among what it rests on: log 19, 33, 47. -/
def Obligations.ChannelProtocol : Prop :=
  (∀ (s : State) (n : Nat) (p : Packet) (key va : Nat) (bs : List Byte), s.net[n]? = some p → p.kind = .data → p.body = .write (.place key va) bs → p.srcAt.dev = s.boot.device →
    (inTurn s n p → s.placeTagged key bs.length = false → s.inHole key = false → (bs.length = 16 → key % 16 ≠ 0) →
      ∃ u : State, exec (.channelPacketArrive (.inFlight n)) s = .next u ∧ memRead u.mem key bs.length = bs ∧ keeps s u key bs.length ∧ u.net = s.net.eraseIdx n
        ∧ (u.dstEntry p).expected = p.seq + 1 ∧ (u.dstEntry p).owesAck = true)
    ∧ (inTurn s n p → bs.length = 16 → key % 16 = 0 → s.placeTagged key 16 = false → s.placeTagged key 8 = false → s.placeTagged (key + 8) 8 = false → s.inHole key = false →
      s.inHole (key + 8) = false → ∃ u : State, exec (.channelPacketArrive (.inFlight n)) s = .next u ∧ keeps s u key 16
        ∧ ((memRead u.mem key 16 = bs ∧ (u.dstEntry p).expected = p.seq + 1)
          ∨ ((u.dstEntry p).expected = p.seq ∧ memRead u.mem key 8 = bs.take 8 ∧ memRead u.mem (key + 8) 8 = memRead s.mem (key + 8) 8)
          ∨ ((u.dstEntry p).expected = p.seq ∧ memRead u.mem key 8 = memRead s.mem key 8 ∧ memRead u.mem (key + 8) 8 = bs.drop 8)))
    ∧ (p.epoch = (s.dstEntry p).epoch → (p.seq - (s.dstEntry p).expected).toInt < 0 → s.regions = [] →
      ∃ (u : State) (q : Packet), exec (.channelPacketArrive (.inFlight n)) s = .next u ∧ u.mem = s.mem
        ∧ (u.dstEntry p).expected = (s.dstEntry p).expected ∧ (u.dstEntry p).held = (s.dstEntry p).held ∧ (u.dstEntry p).owesAck = false
        ∧ q.kind = .ack ∧ q.seq = (s.dstEntry p).expected - 1 ∧ q.src = p.src ∧ q.epoch = p.epoch ∧ sentTo s u (s.here (s.chanHome p.src)) q)
    ∧ (p.epoch = (s.dstEntry p).epoch → 0 < (p.seq - (s.dstEntry p).expected).toInt → (p.seq - (s.dstEntry p).expected).toInt ≤ 65535 → (∀ q ∈ (s.dstEntry p).held, q.seq ≠ p.seq) →
      (∀ q ∈ (s.dstEntry p).held, q.seq ≠ (s.dstEntry p).expected) → s.regions = [] → let port := s.ingress s.choose.1
      (s.heldAt (s.dstEntry p).die port < 1024 → ∃ u : State, exec (.channelPacketArrive (.inFlight n)) s = .next u ∧ u.mem = s.mem
        ∧ (u.dstEntry p).expected = (s.dstEntry p).expected ∧ (u.dstEntry p).held = (s.dstEntry p).held ++ [p] ∧ (p.seq, port) ∈ (u.dstEntry p).ports)
      ∧ (1024 ≤ s.heldAt (s.dstEntry p).die port → ∃ (u : State) (q : Packet), exec (.channelPacketArrive (.inFlight n)) s = .next u ∧ u.mem = s.mem
        ∧ (u.dstEntry p).expected = (s.dstEntry p).expected ∧ (u.dstEntry p).held = (s.dstEntry p).held ∧ q.kind = .nack ∧ q.seq = p.seq ∧ sentTo s u p.srcAt q))
    ∧ ((p.epoch - (s.dstEntry p).epoch).toInt < 0 → s.regions = [] → exec (.channelPacketArrive (.inFlight n)) s = .next { s with net := s.net.eraseIdx n }))
  ∧ (∀ (s : State) (x : DstEntry) (e : EntryId), s.dstEntries = [x] → e = { src := x.key, dst := s.here x.die } → x.owesAck = true → x.srcDev = s.boot.device →
    ∃ (u : State) (q : Packet), exec (.ackSend e) s = .next u ∧ u.dstEntries = [{ x with owesAck := false }] ∧ q.kind = .ack ∧ q.seq = x.expected - 1 ∧ q.epoch = x.epoch ∧ q.src = x.key
      ∧ sentTo s u (s.here (s.chanHome x.key)) q)
  ∧ (∀ (s : State) (n : Nat) (p : Packet), calmChannels s → let e := s.entry p.src p.srcAt
    (answerInFlight s n .ack p → (∀ v ∈ s.net, v.kind ≠ .viol) → ∃ u : State, exec (.ackReceive (.inFlight n)) s = .next u
      ∧ (u.entry p.src p.srcAt).replay = e.replay.filter (fun w => decide ((p.seq - w.2.seq).toInt < 0)))
    ∧ (∀ w, answerInFlight s n .nack p → w ∈ e.replay → w.2.seq = p.seq → ∃ u : State, exec (.nackReceive (.inFlight n)) s = .next u ∧ (u.entry p.src p.srcAt).replay = e.replay
      ∧ (p.seq, s.chanClock p.src + 1024) ∈ (u.entry p.src p.srcAt).nacked)
    ∧ (∀ w, answerInFlight s n .viol p → e.replay.find? (fun x => x.2.seq = p.seq) = some w → w.2.src = p.src → ∃ u : State, exec (.violReceive (.inFlight n)) s = .next u
      ∧ (u.entry p.src p.srcAt).replay = e.replay.filter (fun x => x.2.seq ≠ p.seq)
      ∧ (∀ o ∈ s.chanOps, o.key = p.src → o.op = w.2.op → o.reported = false → ∃ o' ∈ u.chanOps, o' = { o with left := o.left - 1, refused := true, awaits := false })
      ∧ ∀ g t ch, p.src = .team g t ch → 14 ≤ ch → (s.chanRec p.src).violation = none → (u.chanRec p.src).violation = some (packetAddr w.2))
    ∧ (answerInFlight s n .syncAck p → e.state = .resync → (∀ v ∈ s.net, v.kind ≠ .viol) → ∃ u : State, exec (.syncAckReceive (.inFlight n)) s = .next u
      ∧ (let rest := e.replay.filter fun w => decide ((p.seq - 1 - w.2.seq).toInt < 0)
         (u.entry p.src p.srcAt).replay.map (·.2) = rest.map (·.2) ∧ (u.entry p.src p.srcAt).state = (if rest.isEmpty then .idle else .active)
          ∧ ∀ w ∈ rest, sentTo s u w.2.dst w.2)))
  ∧ (∀ (s : State) (x : EntryId), let e := s.entry x.src x.dst
    let now := s.clockOf (s.chanHome x.src)
    (∀ q w, e.state = .active → (q, w) ∈ e.nacked → w ≤ now → ∃ u : State, exec (.nackReplay x q) s = .next u ∧ u.mem = s.mem ∧ (∀ y ∈ e.replay, y.2.seq = q → sentTo s u y.2.dst y.2)
      ∧ (u.entry x.src x.dst).nacked = e.nacked.filter fun n => n.1 ≠ q)
    ∧ ((e.state ≠ .active ∨ ∀ w ∈ e.replay, now ≤ w.1 + 65536) → exec (.channelGapTimeout x) s = .next s)
    ∧ (e.state = .active → (∃ w ∈ e.replay, w.1 + 65536 < now) → ∃ (u : State) (q : Packet), exec (.channelGapTimeout x) s = .next u ∧ u.mem = s.mem ∧ (u.entry x.src x.dst).state = .resync
      ∧ (u.entry x.src x.dst).syncs = 1 ∧ q.kind = .syncReq ∧ q.dst = x.dst ∧ sentTo s u x.dst q)
    ∧ ((e.state ≠ .resync ∨ now < e.since + 65536) → exec (.syncReqRetry x) s = .next s)
    ∧ (e.state = .resync → e.since + 65536 ≤ now → e.syncs < 8 → ∃ (u : State) (q : Packet), exec (.syncReqRetry x) s = .next u ∧ u.mem = s.mem
      ∧ (u.entry x.src x.dst).state = .resync ∧ (u.entry x.src x.dst).syncs = e.syncs + 1 ∧ q.kind = .syncReq ∧ sentTo s u x.dst q)
    ∧ (calmChannels s → e.state = .resync → e.since + 65536 ≤ now → 8 ≤ e.syncs → ∃ u : State, exec (.syncReqRetry x) s = .next u ∧ (u.entry x.src x.dst).state = .broken
      ∧ (u.entry x.src x.dst).replay = []))
  ∧ (∀ (s : State) (n : Nat) (p : Packet), s.net[n]? = some p → p.epoch = (s.dstEntry p).epoch → s.regions = [] →
    (p.kind = .syncReq → ∃ (u : State) (q : Packet), exec (.syncReqReceive (.inFlight n)) s = .next u ∧ u.mem = s.mem ∧ q.kind = .syncAck ∧ q.seq = (s.dstEntry p).expected ∧ q.src = p.src
      ∧ sentTo s u p.srcAt q)
    ∧ (p.kind = .close → exec (.closeReceive (.inFlight n)) s = .next { s with
        net := s.net.eraseIdx n
        dstEntries := s.dstEntries.filter fun x => !(x.key = p.src && x.srcDev = p.srcAt.dev && x.die = p.dst.die) }))
  ∧ (∀ (s : State) (d : DieId),
    (calmChannels s → ∃ u : State, exec (.noPathReport d) s = .next u ∧ d ∈ u.unreachable ∧ (∀ e ∈ s.srcEntries, e.dst = d → (u.entry e.key d).state = .broken)
      ∧ ∀ p ∈ u.net, p.dst = d → p.kind = .arsp ∨ p.kind = .viol)
    ∧ exec (.pathReturn d) s = .next { s with unreachable := s.unreachable.filter (· ≠ d) })
  ∧ (∀ (s : State) (port : Nat) (lost : List Nat), ∃ u : State, exec (.linkDown port lost) s = .next u ∧ port ∈ u.portsDown ∧ u.threads = s.threads
    ∧ ∀ (n : Nat) (p : Packet), s.net[n]? = some p → n ∉ lost → p ∈ u.net)
  ∧ (∀ s : State, ∃ u : State, exec .linkDegraded s = .next u ∧ u.portsDown = s.portsDown.filter (· ≠ s.subj 0) ∧ u.threads = s.threads)

/-- R267, R268: a contribution opens a slot at its switch die, is merged element by element, or completes it; one that does not match is refused; at its deadline the slot is
marked expired, and the mark lapses. A contributor whose reduction ends without a result hears it by one arrival: with ERR where it is refused, with ABANDONED where it is late or
its slot expires; one whose slot is whole gets the result by a write on its channel, and the arrival as that is acknowledged.
Choices of the model among what it rests on: log 30, 36. -/
def Obligations.ReductionSlots : Prop :=
  (∀ (s : State) (n : Nat) (since : Nat) (c : Contribution), s.subj 0 = n → s.contribs[n]? = some (since, c) → s.contributionBehind n c = false →
    let left : State := { s with contribs := s.contribs.eraseIdx n }
    let switch := s.switchOf c
    (s.rred.find? (fun x => x.holds c) = none →
      ((s.rred.filter fun x => x.switch = switch).length < 512 → 2 ≤ c.ncon → exec (.rredContributionArrive none) s = .next { left with
          rred := s.rred ++ [{ switch := switch, asid := c.asid, coll := c.coll, gen := c.gen, ncon := c.ncon, rop := c.rop, elems := c.elems, partialSum := c.data, got := [c]
                               members := s.contributor c, deadline := (if since = 0 then s.cycle else since) + c.timeout * s.boot.clock, expired := false, closing := false }] })
      ∧ (512 ≤ (s.rred.filter fun x => x.switch = switch).length →
        exec (.rredContributionArrive none) s = .next { s with contribs := s.contribs.set n (if since = 0 then max 1 s.cycle else since, c) }))
    ∧ (∀ x, s.rred.find? (fun x => x.holds c) = some x →
      (x.expired = true →
        (c.dev ≠ s.boot.device ∨ s.engine? c.op = none → exec (.rredContributionArrive none) s = .next left)
        ∧ (∀ e m h, c.dev = s.boot.device → contributing s c.op e m h →
          ∃ u : State, exec (.rredContributionArrive none) s = .next u ∧ u.contribs = left.contribs ∧ u.rred = s.rred ∧ heard s u c.op e m h 4 fun o => { o with late := true }))
      ∧ (x.expired = false → (x.ncon ≠ c.ncon ∨ x.rop ≠ c.rop ∨ x.elems ≠ c.elems ∨ ∃ g ∈ x.got, g.index = c.index) →
        (c.dev ≠ s.boot.device ∨ s.engine? c.op = none → exec (.rredContributionArrive none) s = .next left)
        ∧ (∀ e m h, c.dev = s.boot.device → contributing s c.op e m h →
          ∃ u : State, exec (.rredContributionArrive none) s = .next u ∧ u.contribs = left.contribs ∧ u.rred = s.rred ∧ heard s u c.op e m h 2 fun o => { o with refused := true }))
      ∧ (x.expired = false → x.got ≠ [] → x.ncon = c.ncon → x.rop = c.rop → x.elems = c.elems → (∀ g ∈ x.got, g.index ≠ c.index) → x.rop ≤ 9 →
        let others := s.rred.filter fun z => !z.holds c
        let merged (y : RredSlot) (whole : Bool) : Prop := y = { x with partialSum := y.partialSum, got := x.got ++ [c], members := x.members ++ s.contributor c, closing := whole }
          ∧ combines x.rop x.elems y.partialSum x.partialSum c.data
        (x.got.length + 1 ≠ x.ncon → ∃ (u : State) (y : RredSlot), exec (.rredContributionArrive none) s = .next u ∧ u = { left with rred := others ++ [y] } ∧ merged y false)
        ∧ (x.got.length + 1 = x.ncon → (∀ z ∈ s.rred, z.closing = false) →
          (c.dev ≠ s.boot.device → (∀ g ∈ x.got, g.dev ≠ s.boot.device) → exec (.rredContributionArrive none) s = .next { left with rred := others })
          ∧ (∀ e va p, c.dev = s.boot.device → (∀ g ∈ x.got, g.dev ≠ s.boot.device) → s.engine? c.op = some e → (∃ k, e.kind = .rred k) → e.rows = 1 → e.frow = 0 →
            e.dst = .global va → e.rowBytes ≤ e.src.toGranule → e.rowBytes = x.elems * reducedSize x.rop → 1 ≤ x.elems → e.rowBytes ≤ 256 - va % 256 → e.pieces = [] → e.stopped = none →
            e.ord ≠ 0 → s.chanBroken (.team e.grid e.team e.ch) = false → s.resolve e.core e.asid e.system va e.rowBytes .write = .ok p → p.aperture = false →
            s.ownedElsewhere e.grid e.team e.asid va e.rowBytes true = false →
            ∃ (u : State) (y : RredSlot) (q : Packet), exec (.rredContributionArrive none) s = .next u ∧ u.contribs = left.contribs ∧ u.rred = others ++ [y] ∧ merged y true
              ∧ q.body = .write (.place p.key va) y.partialSum ∧ q.op = c.op ∧ q.src = .team e.grid e.team e.ch ∧ q.dst = s.here p.home
              ∧ ((∃ k, (k, q) ∈ (u.entry q.src q.dst).waiting) ∨ ∃ k, (k, q) ∈ (u.entry q.src q.dst).replay))))))
  ∧ (∀ (s : State) (n : Nat) (p : Packet) (w : Packet) (t key va : Nat) (bs : List Byte) (e : EngineOp) (m : Team) (h : Nat), answerInFlight s n .ack p → (∀ v ∈ s.net, v.kind ≠ .viol) →
    s.engines = [e] → contributing { s with rred := [] } e.op e m h → e.rows = 1 → e.frow = 0 → e.stopped = none → 1 ≤ bs.length → e.rowBytes = bs.length →
    e.pieces = [{ row := 0, lo := 0, len := bs.length, sent := true, landed := false }] → p.src = .team e.grid e.team e.ch → (s.entry p.src p.srcAt).replay = [(t, w)] →
    w.src = p.src → w.dst = p.srcAt → w.op = e.op → w.part = 0 → w.seq = p.seq → w.body = .write (.place key va) bs →
    ∃ u : State, exec (.ackReceive (.inFlight n)) s = .next u ∧ u.engines = [] ∧ (∀ l ∈ u.locks, l.op ≠ e.op) ∧ u.rred = s.rred.filter (fun x => !x.closing)
      ∧ u.hurdle m h = afterArrival 1 (s.hurdle m h))
  ∧ ∀ (s : State) (n : Nat) (x : RredSlot), s.subj 0 = n → s.rred[n]? = some x →
    (x.expired = false →
      (s.cycle < x.deadline ∨ x.closing = true → exec .rredSlotExpire s = .next s)
      ∧ (x.deadline ≤ s.cycle → x.closing = false →
        let marked := s.rred.set n { x with expired := true, partialSum := [], got := [], members := [], deadline := s.cycle + 1000000 * s.boot.clock }
        ((∀ g ∈ x.got, g.dev ≠ s.boot.device) → exec .rredSlotExpire s = .next { s with rred := marked })
        ∧ (∀ g e m h, x.got = [g] → g.dev = s.boot.device → contributing s g.op e m h →
          ∃ u : State, exec .rredSlotExpire s = .next u ∧ u.rred = marked ∧ heard s u g.op e m h 4 id)
        ∧ (∀ g e m a, x.got = [g] → g.dev = s.boot.device → s.engine? g.op = some e → e.prog = some a → e.hurdle = none → (∃ c, e.kind = .rred c) →
          s.team? e.grid e.team = some m → m.inPlace = true →
          ∃ u : State, exec .rredSlotExpire s = .next u ∧ leNat (u.teamRead m a 8) = 0 ∧ leNat (u.teamRead m (a + 20) 1) = 0x16)))
    ∧ (x.expired = true → x.deadline ≤ s.cycle → exec .rredExpiredMarkEnd s = .next { s with rred := s.rred.eraseIdx n })

namespace Sys2Proof.Statements

/-! ## RMA queues (12) -/

/-- A well-formed entry of an opcode stands at the HEAD of a bound RMA queue that takes entries (R272, R273). -/
def rmaAtHead (s : State) (q op : Nat) (x : RmaQueue) (bs : List Byte) : Prop :=
  s.rmas[q]? = some x ∧ (∃ a, x.asid = some a ∧ s.readObject a x.system (x.base.toNat + 64 * x.head.toNat) 64 = some bs
      ∧ clearOf s chipUnit a x.system (x.base.toNat + 64 * x.head.toNat) 64)
    ∧ (s.boot.service = .reduced ∨ s.boot.service = .full) ∧ x.size ≠ 0 ∧ x.head ≠ x.tail ∧ x.status.getLsbD 0 = false ∧ x.waits = none ∧ entryOp bs = op

/-- The queue's HEAD behind the entry that stood there. -/
def pastHead (x : RmaQueue) : W32 := BitVec.ofNat 32 ((x.head.toNat + 1) % x.size.toNat)

/-- A transfer is in flight: HEAD is past its entry, and one packet of its own goes to the die its REMOTE names, the only one that stands there. -/
def transferSent (s u : State) (q : Nat) (x : RmaQueue) (bs : List Byte) (get : Bool) (kind : PKind) (body : Body) : Prop :=
  let d : DieId := { dev := fabricDev (rmaRemote bs), die := fabricDie (rmaRemote bs) }
  u.mem = s.mem ∧ u.threads = s.threads
    ∧ u.rmas[q]? = some { x with head := pastHead x, inFlight := x.inFlight ++ [{ op := s.nextOp, get := get, here := rmaLocal bs, there := rmaRemote bs, broken := false }] }
    ∧ ∃ (now : Nat) (p : Packet), (u.entry (.rma q) d).replay = [(now, p)] ∧ p.kind = kind ∧ p.body = body ∧ p.src = .rma q ∧ p.dst = d ∧ p.op = s.nextOp

end Sys2Proof.Statements

/-- R272, R273: a PUT sends what LOCAL holds, a GET asks for what REMOTE holds, a WAIT holds its queue until the count is reached and then completes; an entry on a BROKEN path
and a malformed one halt the queue. That a WAIT counts as a completed entry, and the FADDR of a malformed entry, are the model's (log 43). -/
def Obligations.RmaEntries : Prop :=
  ∀ (s : State) (x : RmaQueue) (bs : List Byte), let q := s.subj 0
    let remote := rmaRemote bs
    let d : DieId := { dev := fabricDev remote, die := fabricDie remote }
    let stopped (u : State) (bits : Nat) (addr : Nat) : Prop :=
      u.rmas[q]? = some { x with head := pastHead x, status := x.status ||| BitVec.ofNat 32 bits, faddr := BitVec.ofNat 64 addr } ∧ u.threads = s.threads
    let way : Prop := s.rmaReserved bs = false ∧ rmaLen bs ≤ 256 - fabricOff remote % 256 ∧ s.engines = [] ∧ (s.chanRec (.rma q)).joins = [] ∧ (s.entry (.rma q) d).waiting = []
      ∧ (s.entry (.rma q) d).replay = [] ∧ (s.entry (.rma q) d).state = .idle ∧ s.roomFor (.rma q) d = true
    (∀ data, rmaAtHead s q 1 x bs → way → s.readObject (x.asid.getD 0) x.system (rmaLocal bs) (rmaLen bs) = some data →
      clearOf s chipUnit (x.asid.getD 0) x.system (rmaLocal bs) (rmaLen bs) →
      ∃ u : State, exec .rmaPut s = .next u ∧ transferSent s u q x bs false .data (.write (.region (fabricRegion remote) (fabricOff remote)) (data.take (rmaLen bs))))
    ∧ (rmaAtHead s q 2 x bs → way →
      ∃ u : State, exec .rmaGet s = .next u ∧ transferSent s u q x bs true .areq (.get (.region (fabricRegion remote) (fabricOff remote)) (rmaLen bs)))
    ∧ (rmaAtHead s q 1 x bs → s.rmaReserved bs = false → (s.entry (.rma q) d).state = .broken → ∃ u : State, exec .rmaPut s = .next u ∧ stopped u 5 remote)
    ∧ (rmaAtHead s q 2 x bs → s.rmaReserved bs = false → (s.entry (.rma q) d).state = .broken → ∃ u : State, exec .rmaGet s = .next u ∧ stopped u 5 remote)
    ∧ (rmaAtHead s q 3 x bs → fld bs 1 1 = 0 → rmaLen bs = 0 → fld bs 0x20 32 = 0 → fld bs 2 2 < 16 → let n := fld bs 2 2
      let count := BitVec.ofNat 64 (fld bs 0x18 8)
      ((∀ y, s.rmas[n]? = some y → y.completed.toNat < count.toNat) →
        exec .rmaWait s = .next { s with rmas := s.rmas.set q { x with head := pastHead x, waits := some (n, count) } })
      ∧ ((∃ y, s.rmas[n]? = some y ∧ count.toNat ≤ y.completed.toNat) → x.inFlight = [] → s.chanOps = [] →
        exec .rmaWait s = .next { s with nextOp := s.nextOp + 1, rmas := s.rmas.set q { x with head := pastHead x, completed := x.completed + 1 } }))
    ∧ (∀ n count, s.rmas[q]? = some x → x.waits = some (n, count) →
      ((∀ y, s.rmas[n]? = some y → y.completed.toNat < count.toNat) → exec .rmaWaitSatisfied s = .next s)
      ∧ ((∃ y, s.rmas[n]? = some y ∧ count.toNat ≤ y.completed.toNat) → x.inFlight = [] → s.chanOps = [] →
        exec .rmaWaitSatisfied s = .next { s with nextOp := s.nextOp + 1, rmas := s.rmas.set q { x with waits := none, completed := x.completed + 1 } }))
    ∧ (∀ op, rmaAtHead s q op x bs → op = 0 ∨ 3 < op ∨ fld bs 1 1 ≠ 0 ∨ fld bs 0x20 32 ≠ 0 ∨ (op = 3 ∧ (rmaLen bs ≠ 0 ∨ 16 ≤ fld bs 2 2)) →
      ∃ u : State, exec .rmaEntryReserved s = .next u ∧ stopped u 9 (x.base.toNat + 64 * x.head.toNat))

namespace Sys2Proof.Statements

/-! ## The privileged ring (13) -/

/-- A well-formed command stands at the HEAD of the privileged ring, the one before it ended (R46, R291). -/
def commandAtHead (s : State) (op : Nat) (bs : List Byte) : Prop :=
  (s.boot.service = .reduced ∨ s.boot.service = .full) ∧ s.priv.size ≠ 0 ∧ s.priv.head ≠ s.priv.tail ∧ s.priv.pending = []
    ∧ memRead s.mem (hostKey (s.priv.base.toNat + 64 * s.priv.head.toNat)) 64 = bs ∧ privOp bs = op ∧ privReserved bs = false ∧ privDone bs % 8 = 0

/-- The command has ended in state u, t being what its effect left: HEAD is past it, and its completion record, where it names one, holds tag and status. -/
def commandEnded (t u : State) (bs : List Byte) (st : Status) : Prop :=
  u = { t with priv := { t.priv with head := BitVec.ofNat 32 ((t.priv.head.toNat + 1) % t.priv.size.toNat), taken := t.priv.taken + 1 }, mem := u.mem }
    ∧ (privDone bs = 0 → u.mem = t.mem)
    ∧ (privDone bs ≠ 0 → let key := hostKey (privDone bs)
        leNat (memRead u.mem key 4) = fld bs 4 4 ∧ leNat (memRead u.mem (key + 4) 2) = 0 ∧ leNat (memRead u.mem (key + 6) 1) = st.code ∧ keeps t u key 8)

/-- An instruction ends the command at HEAD with a status, t being what its effect left. -/
def endsWith (i : Instr) (s t : State) (bs : List Byte) (st : Status) : Prop := ∃ u : State, exec i s = .next u ∧ commandEnded t u bs st

/-- The state but for one context's settings, which are as a function makes them; a context not seen before starts with none. -/
def contextSet (s t : State) (a : Nat) (f : Context → Context) : Prop :=
  t = { s with contexts := t.contexts } ∧ t.context? a = some (f ((s.context? a).getD { asid := a, root := none, window := none, save := none }))
    ∧ ∀ b, b ≠ a → t.context? b = s.context? b

end Sys2Proof.Statements

/-- R44, R46, R47, R111, R263, R264, R269, R271, R275, R280, R282, R289, R291, R297, R301: each privileged command at HEAD has its effect, HEAD goes past it, and its completion
record holds its status; a malformed one is passed over with RING_ERR. How an operand packs its items, and the reset of a channel not BROKEN, are the model's (log 41); so are the
untranslated host addresses of rings and buffers (log 8), that TLB_INVALIDATE waits for every earlier access (log 9), and that TRACE_CONFIG leaves READ to the host (log 44). -/
def Obligations.PrivilegedCommands : Prop :=
  (∀ (s : State) (bs : List Byte) (n a f : Nat), commandAtHead s 1 bs → a < 65536 → f ≤ 1 → privA bs 1 = a + 65536 * f →
    (∀ x, privA bs 0 = 65536 * n → s.queues[n]? = some x → n < 64 →
      (s.asidKnown a = false → endsWith .bindQueue s s bs .unknownId)
      ∧ (s.asidKnown a = true → x.head = x.tail → x.pending = [] → endsWith .bindQueue s { s with queues := s.queues.set n { x with asid := some a, system := f == 1 } } bs .ok)
      ∧ (s.asidKnown a = true → x.head ≠ x.tail ∨ x.pending ≠ [] → endsWith .bindQueue s s bs .inUse))
    ∧ (∀ x, privA bs 0 = 1 + 65536 * n → s.rmas[n]? = some x → n < 16 → s.asidKnown a = true →
      (x.head = x.tail → x.inFlight = [] → x.waits = none → endsWith .bindQueue s { s with rmas := s.rmas.set n { x with asid := some a, system := f == 1 } } bs .ok)
      ∧ (x.head ≠ x.tail → endsWith .bindQueue s s bs .inUse)))
  ∧ (∀ (s : State) (bs : List Byte), commandAtHead s 2 bs → privA bs 0 < 65536 → privA bs 1 % 4096 = 0 →
    ∃ t : State, contextSet s t (privA bs 0) (fun c => { c with root := some (privA bs 1) }) ∧ endsWith .setAsid s t bs .ok)
  ∧ (∀ (s : State) (bs : List Byte), commandAtHead s 3 bs → privA bs 0 < 65536 →
    (s.asidKnown (privA bs 0) = false → endsWith .setLocalWindow s s bs .unknownId)
    ∧ (s.asidKnown (privA bs 0) = true → privA bs 1 % 65536 = 0 → privA bs 3 % 65536 = 0 → privA bs 1 + privA bs 3 ≤ 2 ^ 32 → privA bs 2 % 256 = 0 → 256 ≤ privA bs 2 → privA bs 2 ≤ 65536 →
      ((∃ t ∈ s.teams, s.asidOf t.grid = privA bs 0) → endsWith .setLocalWindow s s bs .inUse)
      ∧ (s.teams = [] → (∀ y ∈ s.grids, y.again = []) →
        ∃ t : State, contextSet s t (privA bs 0) (fun c => { c with window := some (privA bs 1, privA bs 3, privA bs 2) }) ∧ endsWith .setLocalWindow s t bs .ok)))
  ∧ (∀ (s : State) (bs : List Byte), commandAtHead s 4 bs → privA bs 0 < 65536 → s.asidKnown (privA bs 0) = true →
    ∃ t : State, contextSet s t (privA bs 0) (fun c => { c with save := some (privA bs 1, privA bs 2) }) ∧ endsWith .setSaveArea s t bs .ok)
  ∧ (∀ (s : State) (bs : List Byte), commandAtHead s 16 bs → privA bs 0 % 65536 = 0 → privA bs 1 % 65536 = 0 →
    (s.teams ≠ [] → endsWith .setRstackArea s s bs .inUse)
    ∧ (s.teams = [] → (∀ y ∈ s.grids, y.again = []) → endsWith .setRstackArea s { s with rstackArea := some (privA bs 0, privA bs 1) } bs .ok))
  ∧ (∀ (s : State) (bs : List Byte) (a slot dev die : Nat), commandAtHead s 5 bs → a < 65536 → slot < 64 → dev < 65536 → die < 4 → privA bs 0 = a + 65536 * slot → s.asidKnown a = true →
    let rest := s.dieMap.filter fun m => !(m.asid = a && m.slot = slot)
    (privA bs 1 = dev + 65536 * die → endsWith .setDieMap s { s with dieMap := rest } bs .ok)
    ∧ (privA bs 1 = dev + 65536 * die + 65536 ^ 2 → dev = s.boot.device → dev < s.boot.devices → isFabric (privA bs 2) = false →
      endsWith .setDieMap s { s with dieMap := rest ++ [{ asid := a, slot := slot, at_ := { dev := dev, die := die }, base := privA bs 2 }] } bs .ok))
  ∧ (∀ (s : State) (bs : List Byte) (a die n : Nat), commandAtHead s 6 bs → a < 65536 → die < 4 → n < 16 → privA bs 0 = a + 65536 * die + 65536 ^ 2 * n → s.asidKnown a = true →
    0 < privA bs 2 → privA bs 2 < 2 ^ 32 → privA bs 4 < 8 →
    (s.regions = [] → s.dstEntries = [] → ∃ r : Region, r.asid = a ∧ r.die = die ∧ r.number = n ∧ r.base = privA bs 1 ∧ r.len = privA bs 2 ∧ r.devmask.toNat = privA bs 3
      ∧ r.read = (privA bs 4).testBit 0 ∧ r.write = (privA bs 4).testBit 1 ∧ r.atomic = (privA bs 4).testBit 2 ∧ r.active = true ∧ r.accepted = 0
      ∧ endsWith .regionRegister s { s with regions := [r] } bs .ok)
    ∧ (∀ r, s.regions = [r] → r.asid = a → r.die = die → r.number = n → r.active = false → endsWith .regionRegister s s bs .inUse))
  ∧ (∀ (s : State) (bs : List Byte) (a die n : Nat) (r : Region), commandAtHead s 7 bs → a < 65536 → die < 4 → n < 16 → privA bs 0 = a + 65536 * die + 65536 ^ 2 * n → s.asidKnown a = true →
    s.regions = [r] → r.asid = a → r.die = die → r.number = n →
    (s.acceptedFor r = 0 → ∃ t : State, t.regions = [] ∧ t.threads = s.threads ∧ t.dstEntries = s.dstEntries ∧ endsWith .regionRevoke s t bs .ok)
    ∧ (0 < s.acceptedFor r → endsWith .regionRevoke s { s with regions := [{ r with active := false, accepted := min 0xFFFF (s.acceptedFor r) }] } bs .ok))
  ∧ (∀ (s : State) (bs : List Byte) (g i ch : Nat), commandAtHead s 8 bs → g < 2 ^ 32 → privA bs 0 = g + 2 ^ 32 * i → privA bs 1 = ch → ch < 16 →
    (s.teamKnown g i = false → endsWith .channelReset s s bs .unknownId)
    ∧ (s.teamKnown g i = true → (∀ e ∈ s.srcEntries, e.key = .team g i ch → e.state ≠ .broken) → endsWith .channelReset s s bs .ok)
    ∧ (∀ e, s.teamKnown g i = true → s.srcEntries = [e] → e.key = .team g i ch → e.state = .broken → s.drains = [] → s.chanOps = [] →
      ∃ t : State, t.srcEntries = [] ∧ (t.chanRec (.team g i ch)).epoch = (s.chanRec (.team g i ch)).epoch + 1 ∧ t.mem = s.mem ∧ t.threads = s.threads
        ∧ (e.dst.dev = s.boot.device → s.unreachable.contains e.dst = false → ∃ p, t.net = s.net ++ [p] ∧ p.kind = .close ∧ p.src = e.key ∧ p.dst = e.dst)
        ∧ endsWith .channelReset s t bs .ok))
  ∧ (∀ (s : State) (bs : List Byte), commandAtHead s 13 bs → let out := (s.violQ.take (privA bs 1)).flatMap id
    ∃ t : State, t = { s with violQ := s.violQ.drop (privA bs 1), mem := t.mem } ∧ memRead t.mem (hostKey (privA bs 0)) out.length = out
      ∧ keeps s t (hostKey (privA bs 0)) out.length ∧ endsWith .readViolq s t bs .ok)
  ∧ (∀ (s : State) (bs : List Byte), commandAtHead s 9 bs → let g := privA bs 0
    let i := privA bs 1
    privA bs 2 = 0 → i ≠ 0xFFFFFFFF →
    (s.teamKnown g i = false → endsWith .kill s s bs .unknownId)
    ∧ (∀ x m, s.grid? g = some x → i < x.desc.teams → (∀ b ∈ x.again, b.idx ≠ i) → s.team? g i = some m → m.killed = none →
      ∃ (t : State) (m' : Team), endsWith .kill s t bs .ok ∧ t.team? g i = some m' ∧ m'.killed = some 0x1F ∧ m'.relaunch = false
        ∧ (∀ v ∈ t.threads, v.ofTeam g i = true → v.status = .exited ∨ ∃ st, v.status = .stopped st) ∧ ∃ y, t.grid? g = some y ∧ y.dead = x.dead ++ [i])
    ∧ (∀ x, s.grid? g = some x → i < x.desc.teams → (∀ b ∈ x.again, b.idx ≠ i) → s.team? g i = none → (∃ w ∈ x.unplaced, w.first ≤ i ∧ i < w.first + w.count) →
      ∃ (t : State) (y : Grid), endsWith .kill s t bs .ok ∧ t.threads = s.threads ∧ t.grid? g = some y ∧ y.dead = x.dead ++ [i]))
  ∧ (∀ (s : State) (bs : List Byte) (f : FaultRec) (v : Thread) (a : Nat), commandAtHead s 10 bs →
    ((∀ h ∈ s.faultRecs, h.seq ≠ privA bs 0) → endsWith .faultReply s s bs .unknownId)
    ∧ (s.faultRecs = [f] → f.posted = true → f.seq = privA bs 0 →
      (2 < privA bs 1 ∨ (privA bs 1 = 2 ∧ f.kind ≠ 4) → endsWith .faultReply s s bs .range)
      ∧ (s.thread? v.ref = some v → v.status = .faulted f.seq a → (∀ w ∈ s.threads, ∀ b, w.status = .faulted f.seq b → w = v) → s.threads.Nodup →
        let t : State := { s with faultRecs := [] }
        (privA bs 1 = 0 → endsWith .faultReply s (t.modThread v.ref fun w => { w with status := .ready }) bs .ok)
        ∧ (privA bs 1 = 2 → f.kind = 4 → endsWith .faultReply s (t.modThread v.ref fun w => { w.step with status := .ready }) bs .ok)
        ∧ (∀ c entry, privA bs 1 = 1 → f.kind ≠ 4 → s.ctx? v.ref = some c → c.team.killed = none → v.trap = none → hasPending v = false → c.kernel.trap = some entry →
          endsWith .faultReply s (t.modThread v.ref fun w =>
            { w with trap := some { cause := 0x07, tpc := w.pc, taddr := a, tinfo := false, wbase := w.wbase, depth := w.stack.length, gval := w.gval, gcnt := w.gcnt }
                     pc := entry, gcnt := 0, windows := [], status := .ready }) bs .ok))))
  ∧ (∀ (s : State) (bs : List Byte) (a : Nat), a < 65536 →
    (commandAtHead s 11 bs → s.loads = [] → s.atoms = [] → s.wtb = [] → s.engines = [] → s.mmas = [] →
      (privA bs 0 = 2 + 65536 * a → endsWith .tlbInvalidate s { s with tlb := [], tlb2 := [], walkCache := [] } bs .ok)
      ∧ (privA bs 0 = 1 + 65536 * a → s.asidKnown a = true → endsWith .tlbInvalidate s
          { s with tlb := s.tlb.filter (fun e => e.asid ≠ a), tlb2 := s.tlb2.filter (fun e => e.asid ≠ a), walkCache := s.walkCache.filter (fun w => w.asid ≠ a) } bs .ok)
      ∧ (privA bs 0 = 65536 * a → s.asidKnown a = true → canonical (privA bs 1) → ∃ t : State, t = { s with tlb := t.tlb, tlb2 := t.tlb2, walkCache := t.walkCache }
          ∧ t.tlb = s.tlb.filter (fun e => !(e.asid == a && decide (e.base ≤ privA bs 1 ∧ privA bs 1 < e.base + e.size)))
          ∧ t.tlb2 = s.tlb2.filter (fun e => !(e.asid == a && decide (e.base ≤ privA bs 1 ∧ privA bs 1 < e.base + e.size))) ∧ endsWith .tlbInvalidate s t bs .ok))
    ∧ (∀ w ∈ s.wtb, w.op < s.nextOp → commandAtHead s 11 bs → privA bs 0 = 2 →
      exec .tlbInvalidate s = .next { s with tlb := [], tlb2 := [], walkCache := [], priv := { s.priv with pending := [(s.nextOp, bs)] } })
    ∧ (∀ m, s.priv.pending = [(m, bs)] → privDone bs % 8 = 0 → (s.usesOld (privA bs 0 % 65536) (privA bs 0 / 65536 % 65536) m = true → exec .tlbInvalidate s = .next s)
      ∧ (s.usesOld (privA bs 0 % 65536) (privA bs 0 / 65536 % 65536) m = false → endsWith .tlbInvalidate s { s with priv := { s.priv with pending := [] } } bs .ok)))
  ∧ (∀ (s : State) (bs : List Byte), commandAtHead s 12 bs → privA bs 1 ≤ 1 →
    (s.grid? (privA bs 0) = none → endsWith .debug s s bs .unknownId)
    ∧ (s.grid? (privA bs 0) ≠ none → endsWith .debug s { s with grids := updWhere (fun x => x.id = privA bs 0) (fun x => { x with debug := privA bs 1 == 1 }) s.grids } bs .ok))
  ∧ (∀ (s : State) (bs : List Byte), commandAtHead s 14 bs → let size := privA bs 2
    (privA bs 0 = 0 → endsWith .traceConfig s { s with trace := [] } bs .ok)
    ∧ (∀ die mask, die < 4 → mask < 8 → s.inHole (devKey (privA bs 1 + die * 64 * (size + 1))) = false → s.inHole (devKey (privA bs 1 + die * 64 * (size + 1) + 8)) = false →
      privA bs 0 = 2 ^ die + 256 * mask → privA bs 1 % 64 = 0 → privA bs 1 < 8 * 2 ^ 36 → (∃ k, 6 ≤ k ∧ k ≤ 24 ∧ size = 2 ^ k) → 256 ≤ privA bs 3 →
      privA bs 3 ≤ 2 ^ 20 → ∃ (t : State) (r : TraceRing), t = { s with trace := [r], mem := t.mem } ∧ r.die = die ∧ r.base = privA bs 1 ∧ r.size = size ∧ r.period = privA bs 3
        ∧ r.samples = mask.testBit 0 ∧ r.events = mask.testBit 1 ∧ r.power = mask.testBit 2 ∧ r.write = 0 ∧ r.lost = 0
        ∧ (let key := devKey (privA bs 1 + die * 64 * (size + 1))
           leNat (memRead t.mem key 4) = 0 ∧ leNat (memRead t.mem (key + 8) 8) = 0 ∧ keeps s t key 64 ∧ memRead t.mem (key + 4) 4 = memRead s.mem (key + 4) 4)
        ∧ endsWith .traceConfig s t bs .ok))
  ∧ (∀ (s : State) (bs : List Byte) (m : Team), commandAtHead s 15 bs → s.teamKnown (privA bs 0) (privA bs 1) = true → s.team? (privA bs 0) (privA bs 1) = some m →
    (m.core ≠ none → s.inFaultWait (privA bs 0) (privA bs 1) = false → endsWith .dump s s bs .inUse)
    ∧ (∀ v, m.core = none → s.threadsOf (privA bs 0) (privA bs 1) = [v] → s.thread? v.ref = some v → v.status ≠ .exited → let n := 16 + 4 * v.regs.length
      (privA bs 3 < n → endsWith .dump s s bs .range)
      ∧ (n ≤ privA bs 3 → v.ref.tid < 2 ^ 32 → v.pc < 2 ^ 32 → v.stack.length < 2 ^ 16 → v.wbase < 2 ^ 16 →
        ∃ t : State, t = { s with mem := t.mem } ∧ keeps s t (hostKey (privA bs 2)) n ∧ (let key := hostKey (privA bs 2)
            leNat (memRead t.mem key 4) = v.ref.tid ∧ leNat (memRead t.mem (key + 4) 4) = v.pc ∧ leNat (memRead t.mem (key + 8) 2) = v.stack.length
              ∧ leNat (memRead t.mem (key + 10) 2) = v.wbase ∧ ∀ k w, v.regs[k]? = some w → leNat (memRead t.mem (key + 16 + 4 * k) 4) = w.toNat)
          ∧ endsWith .dump s t bs .ok)))
  ∧ (∀ (s : State) (bs : List Byte), (s.boot.service = .reduced ∨ s.boot.service = .full) → s.priv.size ≠ 0 → s.priv.head ≠ s.priv.tail → s.priv.pending = [] →
    memRead s.mem (hostKey (s.priv.base.toNat + 64 * s.priv.head.toNat)) 64 = bs → privDone bs % 8 = 0 → privOp bs = 0 ∨ 16 < privOp bs ∨ fld bs 0x38 8 ≠ 0 →
    endsWith .privUnknownCommand s { s with priv := { s.priv with status := s.priv.status ||| 4 } } bs .reserved)

/-! ## Translations, host accesses, trace records (07, 13, 14) -/

/-- R117 of 07, R280, R289, R290, R299, R300: TLBI drops the translations it names; an invalidation of a host translation takes effect once no use is under way; the host's accesses reach
memory; power and sample records are written when they are due.
Choices of the model among what it rests on: log 8, 9, 44. -/
def Obligations.TranslationAndTrace : Prop :=
  (∀ (s : State) (r : TRef) (c : Ctx) (a b : Reg), s.Issues (.tlbi a b) r c → s.loads = [] → s.atoms = [] → s.wtb = [] → s.engines = [] → s.mmas = [] →
    let asid := (c.t.rd b).toNat % 65536
    let va := (c.t.rd64 a).toNat
    ((c.t.rd b).toNat / 65536 = 2 → exec (.tlbi a b) s = .next (({ s with nextOp := s.nextOp + 1, tlb := [], tlb2 := [], walkCache := [] } : State).suspend (.tlbi a b) r s.nextOp))
    ∧ ((c.t.rd b).toNat / 65536 = 1 → exec (.tlbi a b) s = .next (({ s with
        nextOp := s.nextOp + 1
        tlb := s.tlb.filter (fun e => e.asid ≠ asid)
        tlb2 := s.tlb2.filter (fun e => e.asid ≠ asid)
        walkCache := s.walkCache.filter (fun w => w.asid ≠ asid) } : State).suspend (.tlbi a b) r s.nextOp))
    ∧ ((c.t.rd b).toNat / 65536 = 0 → canonical va → ∃ u : State, exec (.tlbi a b) s = .next (u.suspend (.tlbi a b) r s.nextOp)
      ∧ u = { s with nextOp := s.nextOp + 1, tlb := u.tlb, tlb2 := u.tlb2, walkCache := u.walkCache }
      ∧ u.tlb = s.tlb.filter (fun e => !(e.asid == asid && decide (e.base ≤ va ∧ va < e.base + e.size)))
      ∧ u.tlb2 = s.tlb2.filter (fun e => !(e.asid == asid && decide (e.base ≤ va ∧ va < e.base + e.size)))))
  ∧ (∀ (s : State) (page : Nat) (now : Option Nat),
    (s.pageInUse page = true → exec (.atsInvalidation page now) s = .next s)
    ∧ (s.loads = [] → s.atoms = [] → s.wtb = [] → s.engines = [] → s.mmas = [] → exec (.atsInvalidation page now) s = .next { s with
        atc := s.atc.filter fun p => p.1 ≠ page
        hostMap := s.hostMap.filter (fun p => p.1 ≠ page) ++ [(page, now)] }))
  ∧ (∀ (s : State) (addr len : Nat) (bs : List Byte),
    (s.boot.memOpen = false → ∀ w, exec (.hostMemAccess addr w len) s = .next s)
    ∧ (s.boot.memOpen = true → s.inHole (devKey addr) = false → exec (.hostMemAccess addr none len) s = .next s
      ∧ ∃ u : State, exec (.hostMemAccess addr (some bs) len) s = .next u ∧ u = { s with mem := u.mem } ∧ memRead u.mem (devKey addr) bs.length = bs ∧ keeps s u (devKey addr) bs.length)
    ∧ ∃ u : State, exec (.hostMemoryWrite addr bs) s = .next u ∧ u = { s with mem := u.mem } ∧ memRead u.mem (hostKey addr) bs.length = bs ∧ keeps s u (hostKey addr) bs.length)
  ∧ (∀ (s : State) (die : Nat) (rails : List W32), (s.refTimer.getD die 0 % 100 ≠ 0 ∨ ∀ r ∈ s.trace, r.die = die → r.powerAt = s.refTimer.getD die 0) →
    exec (.powerSample die rails) s = .next s)
  ∧ (∀ (s : State) (r : TraceRing), s.trace = [r] → r.overflow = false → (r.write - BitVec.ofNat 32 (leNat (memRead s.mem (devKey (r.start + 4)) 4))).toNat ≠ r.size →
    let key := devKey (r.start + 64 + 64 * (r.write.toNat % r.size))
    let now := s.clockOf r.die
    let ticks := s.refTimer.getD r.die 0
    s.inHole (devKey r.start) = false → s.inHole (devKey (r.start + 4)) = false → s.inHole key = false →
    let written (u : State) (x : TraceRing) : Prop := u = { s with trace := [{ x with write := r.write + 1 }], mem := u.mem } ∧ leNat (memRead u.mem (devKey r.start) 4) = (r.write.toNat + 1) % 2 ^ 32
    (∀ rails : List W32, ticks % 100 = 0 → ticks ≠ 0 → r.powerAt ≠ ticks → rails.length = 6 → r.power = true → s.teams = [] → ∃ u : State, exec (.powerSample r.die rails) s = .next u
      ∧ written u { r with powerAt := ticks } ∧ leNat (memRead u.mem key 1) = 6
      ∧ leNat (memRead u.mem (key + 1) 1) = r.die % 256 ∧ leNat (memRead u.mem (key + 8) 8) = now % 2 ^ 64
      ∧ ∀ k w, rails[k]? = some w → leNat (memRead u.mem (key + 40 + 4 * k) 4) = w.toNat)
    ∧ (∀ core, s.subj 0 = core → dieOfCore core = r.die → r.samples = true →
      (now % r.period ≠ 0 ∨ (r.sampledAt = now ∧ (core, s.subj 1) ∈ r.sampledOf) → exec .traceSample s = .next s)
      ∧ (∀ v, now % r.period = 0 → r.sampledAt ≠ now → s.threads = [v] → v.cohort % 8 = s.subj 1 → ((s.team? v.ref.grid v.ref.team).bind (·.core)) = some core →
        v.lastIssue = some now → v.port = 0 → ∃ u : State, exec .traceSample s = .next u ∧ written u { r with sampledAt := now, sampledOf := [(core, s.subj 1)] }
          ∧ leNat (memRead u.mem key 1) = 1 ∧ leNat (memRead u.mem (key + 2) 2) = core % 2 ^ 16
          ∧ leNat (memRead u.mem (key + 0x1C) 4) = v.ref.tid % 2 ^ 32 ∧ leNat (memRead u.mem (key + 0x20) 4) = v.pc % 2 ^ 32 ∧ leNat (memRead u.mem (key + 0x24) 1) = 0)))

/-! ## Words and steps (02) -/

/-- R24, R34, R35, R36: a well-formed instruction's word decodes to it, whatever follows the word, and every word that decodes is the word of a well-formed instruction. -/
def Obligations.DecodeOfEncode : Prop :=
  (∀ (i : Instr) (w : W32) (rest : List Byte), i.wellFormed = true → encode i = some w → decode (bytesOfWord w ++ rest) = .ok (i, rest))
  ∧ (∀ (bs rest : List Byte) (i : Instr), decode bs = .ok (i, rest) → i.wellFormed = true ∧ ∃ w, encode i = some w ∧ bs = bytesOfWord w ++ rest)

/-- The words of the kernel that section 02 assembles, and words that R36 refuses: NOP with B = 1, a reserved major opcode, CALL with P = 0, FENCE.REL at scope code 5. -/
def Obligations.DecodeSampleWords : Prop :=
  let reads (w : W32) (i : Instr) : Prop := decode (bytesOfWord w) = .ok (i, [])
  (reads 0x54A00802 (.movk 20 2) ∧ reads 0x54A80803 (.movk 21 3) ∧ reads 0x54B00800 (.movk 22 0) ∧ reads 0x54B80801 (.movk 23 1) ∧ reads 0x4C900001 (.movi 18 1) ∧ reads 0xB8040916 (.atom .add 2 .w32 18 22)
    ∧ reads 0x80420502 (.ldg 1 .w32 16 20 2) ∧ reads 0x4C9FFFFF (.movi 19 0x7FFFF) ∧ reads 0x5099FC00 (.movhi 19 0x1FC00) ∧ reads 0x61244813 (.fmul false true 17 16 19)
    ∧ reads 0x90022502 (.stg false .w32 17 20 2) ∧ reads 0x00200000 .exit)
  ∧ ∀ w ∈ [(0x00000001 : W32), 0xF0000000, 0x08000000, 0xA4414000], ∃ e, decode (bytesOfWord w) = .error e

namespace Sys2Proof.Statements

/-- Time is the cores': nothing else is to happen, or the next occurrence has waits left, of which t has one less. -/
def coresGoOn (s t : State) : Prop :=
  (s.agenda = [] ∧ t = s) ∨ ∃ o rest, s.agenda = o :: rest ∧ o.after ≠ 0 ∧ t = { s with agenda := { o with after := o.after - 1 } :: rest }

end Sys2Proof.Statements

/-- R16, R36, R81, R85: what one step does. A device that is off starts; else the next occurrence of the agenda happens, or comes nearer while the cores go on; else a picked gang issues the instruction that the word at
its PC decodes to, or takes ILLEGAL_ENCODING; else the next partition's Starter chooses. The order of these is the model's (log 4). -/
def Obligations.StepRunsDecodedWord : Prop :=
  (∀ s : State, s.boot.service = .off → step s = exec .deviceStart s)
  ∧ (∀ (s : State) (o : Occurrence) (rest : List Occurrence), s.boot.service ≠ .off → s.agenda = o :: rest → o.after = 0 → step s = exec o.what { s with agenda := rest, subject := o.subject })
  ∧ (∀ (s t : State) (r : TRef) (rs : List TRef) (rest : List (List TRef)) (c : Ctx) (w : W32), s.boot.service ≠ .off → coresGoOn s t → s.issueQ = (r :: rs) :: rest →
    (∀ q ∈ r :: rs, ∃ t, s.thread? q = some t ∧ t.status = .ready ∧ s.inFaultWait q.grid q.team = false) → s.ctx? r = some c → c.code.words[c.t.pc / 4]? = some w →
    (∀ i, decode (bytesOfWord w) = .ok (i, []) → ∃ u : State, step s = exec i u ∧ u = { t with issueQ := rest, gang := r :: rs, teams := u.teams })
    ∧ (∀ e, decode (bytesOfWord w) = .error e → ∃ u : State, step s = finish s (u.takeAll (Cause.illegalEncoding.at_ 0)) ∧ u = { t with issueQ := rest, gang := r :: rs, teams := u.teams }))
  ∧ (∀ s t : State, s.boot.service ≠ .off → coresGoOn s t → s.issueQ = [] →
    step s = exec .starterPick { t.nextTurn with subject := [turnCore t.turnDie t.turn, turnPart t.turn] })

namespace Sys2Proof.Statements

/-- The bring-up record has its 92 entries in their order, each field within its bits, and the clock lies between its limits (R10, R14, R15). -/
def recordKept (b : Boot) : Prop :=
  b.entries.map (fun e => (e.step, e.inst)) = freshRecord.map (fun e => (e.step, e.inst)) ∧ (∀ e ∈ b.entries, e.attempts ≤ 15 ∧ e.status ≤ 5 ∧ e.detail < 1024)
    ∧ 1200 ≤ b.clock ∧ b.clock ≤ 1750

end Sys2Proof.Statements

/-- R10, R14, R15: every step keeps the bring-up record in its shape, each field within its bits, and the clock between 1.2 and 1.75 GHz. -/
def Obligations.BootRecordKept : Prop := ∀ s t : State, recordKept s.boot → step s = .next t → recordKept t.boot

/-- R14, R15, R44, R272, R291: what reset leaves: a record of 92 entries that have never run, no service, queue registers and RMA registers at 0, nothing in flight; the record is
as every step keeps it.
Choices of the model among what it rests on: log 2. -/
def Obligations.BootRecordAtReset : Prop :=
  recordKept State.reset.boot ∧ State.reset.boot.entries.length = 92 ∧ (∀ e ∈ State.reset.boot.entries, e.attempts = 0 ∧ e.status = 0 ∧ e.altUsed = false ∧ e.detail = 0)
    ∧ State.reset.boot.service = .off ∧ State.reset.queues.length = 64
    ∧ (∀ x ∈ State.reset.queues, x.base = 0 ∧ x.size = 0 ∧ x.head = 0 ∧ x.status = 0 ∧ x.prio = 0 ∧ x.asid = none)
    ∧ State.reset.rmas.length = 16 ∧ (∀ x ∈ State.reset.rmas, x.base = 0 ∧ x.size = 0 ∧ x.head = 0 ∧ x.status = 0 ∧ x.completed = 0 ∧ x.faddr = 0)
    ∧ State.reset.faultQ.size = 0 ∧ State.reset.killQ.size = 0 ∧ State.reset.eventQ.size = 0 ∧ State.reset.grids = [] ∧ State.reset.threads = [] ∧ State.reset.net = []
end

