-- ==== Sys2Proof/Laws/Words.lean ====
section
/-! SUPPORT. What the short words of a gang come to (Machine/Ops.lean) when its threads meet nothing at the word. -/

set_option Elab.async false

namespace Sys2Proof.Machine

theorem mem_min_of_nil {l : List Nat} (h : l = []) : l.min? = none := by simp [h]

/-- The shared checks are empty exactly where the thread can use the word's registers. -/
theorem Ctx.shared_eq_nil {c : Ctx} {i : Instr} (h : c.t.canUse (operands i)) : c.shared i = [] := by
  have h1 : (c.t.phys (operands i)).filter (fun p => decide (c.t.regs.length ≤ p)) = [] := by
    rw [List.filter_eq_nil_iff]
    intro p hp
    have := (h p hp).1
    simp; omega
  have h2 : (c.t.phys (operands i)).filter (fun p => c.t.windows.any fun w => w.regs.contains p) = [] := by
    rw [List.filter_eq_nil_iff]
    intro p hp
    have := (h p hp).2
    simpa using this
  simp only [Ctx.shared, h1, h2]
  rfl

theorem Ctx.fallThrough_eq_nil {c : Ctx} (h : c.t.pc + 4 < c.code.size) : c.fallThrough = [] := by
  simp [Ctx.fallThrough, when, h]

theorem lowest_nil : lowest [] = none := rfl

/-- Where no thread of the gang has met a cause, delivery changes nothing. -/
theorem State.deliver_none {s : State} (h : ∀ t ∈ s.threads, t.ref ∈ s.gang → t.taken = none) : s.deliver = s := by
  have key : ∀ (l : List TRef), (∀ r ∈ l, r ∈ s.gang) → l.foldl (fun s r =>
      match (s.thread? r).bind (·.taken) with
      | some f => (s.modThread r fun t => { t with taken := none }).takeCause r f
      | none => s) s = s := by
    intro l
    induction l with
    | nil => intro _; rfl
    | cons r rs ih =>
      intro hm
      have hr : (s.thread? r).bind (·.taken) = none := by
        cases e : s.thread? r with
        | none => rfl
        | some t =>
          have hmem := List.mem_of_find?_eq_some e
          have href : t.ref = r := by simpa using List.find?_some e
          simpa using h t hmem (href ▸ hm r (by simp))
      simp only [List.foldl_cons, hr]
      exact ih fun q hq => hm q (by simp [hq])
  have mem_ins : ∀ (r q : TRef) (l : List TRef), q ∈ insertTid r l ↔ q = r ∨ q ∈ l := by
    intro r q l
    induction l with
    | nil => simp [insertTid]
    | cons x xs ih => unfold insertTid; split <;> simp [ih, or_left_comm]
  have mem_by : ∀ (l : List TRef) (q : TRef), q ∈ byTid l ↔ q ∈ l := by
    intro l q
    induction l with
    | nil => simp [byTid]
    | cons x xs ih => simp [byTid, mem_ins, ih]
  exact key _ fun r hr => (mem_by _ _).1 hr

/-- A word whose threads meet nothing: each does its effect, nothing else changes. -/
theorem State.short_after {s : State} {i : Instr} {falls : Ctx → Bool} {checks : Ctx → List Fail} {eff : Ctx → Thread → Thread} {g : Thread → Bool}
    (hc : s.Clear i g) (hg : ∀ c, falls c = true → g c.t = true)
    (hk : ∀ t ∈ s.threads, t.ref ∈ s.gang → t.guardedOff = false → ∀ c, s.ctx? t.ref = some c → checks c = [])
    (ht : ∀ c t, t.taken = none → c.t.taken = none → (eff c t).taken = none) :
    s.short i falls checks eff = s.after eff := by
  have hmap : ∀ t ∈ s.threads, (if s.gang.contains t.ref && t.status = .ready then
      match s.ctx? t.ref with
      | some c => c.perform i (falls c) (checks c) (eff c)
      | none => t
    else t) = if s.gang.contains t.ref then
      match s.ctx? t.ref with
      | some c => if t.guardedOff then t.step else eff c t.step
      | none => t
    else t := by
    intro t hm
    by_cases hin : t.ref ∈ s.gang
    · obtain ⟨c, h1, h2, h3, h4, h5, h6⟩ := hc t hm hin
      have hin' : s.gang.contains t.ref = true := by simpa using hin
      simp only [hin', h3, h1, decide_true, Bool.and_self, if_true]
      subst h2
      unfold Ctx.perform
      by_cases hgd : c.t.guardedOff = true
      · simp [hgd, Ctx.fallThrough_eq_nil (h5 (.inl hgd)), lowest_nil]
      · have hgf : c.t.guardedOff = false := by simpa using hgd
        have hft : (if falls c then c.fallThrough else []) = [] := by
          by_cases hf : falls c = true
          · simp [hf, Ctx.fallThrough_eq_nil (h5 (.inr (hg c hf)))]
          · simp [hf]
        simp [hgf, Ctx.shared_eq_nil (h6 hgf), hk c.t hm hin hgf c h1, hft, lowest_nil]
    · simp [hin]
  have hst : ({ s with
      threads := s.threads.map fun t =>
        if s.gang.contains t.ref && t.status = .ready then
          match s.ctx? t.ref with
          | some c => c.perform i (falls c) (checks c) (eff c)
          | none => t
        else t } : State) = s.after eff := by
    unfold State.after
    congr 1
    exact List.map_congr_left hmap
  refine (congrArg State.deliver hst : State.deliver _ = State.deliver _).trans (State.deliver_none ?_)
  intro u hu hin
  have hgang : (s.after eff).gang = s.gang := rfl
  rw [hgang] at hin
  obtain ⟨t, hm, rfl⟩ := List.mem_map.1 hu
  by_cases hit : t.ref ∈ s.gang
  · obtain ⟨c, h1, h2, _, h4, _, _⟩ := hc t hm hit
    have hit' : s.gang.contains t.ref = true := by simpa using hit
    have hs : t.step.taken = none := h4
    simp only [hit', h1, if_true]
    split
    · exact hs
    · exact ht c _ hs (h2 ▸ h4)
  · have hit' : s.gang.contains t.ref = false := by simpa using hit
    simp only [hit', if_false, Bool.false_eq_true] at hin ⊢
    exact absurd hin hit

/-- Two effects that agree on every active thread give one state. -/
theorem State.after_congr {s : State} {i : Instr} {g : Thread → Bool} (hc : s.Clear i g) {f f' : Ctx → Thread → Thread}
    (h : s.EachActive fun c => f c c.t.step = f' c c.t.step) : s.after f = s.after f' := by
  unfold State.after
  congr 1
  apply List.map_congr_left
  intro t hm
  by_cases hin : t.ref ∈ s.gang
  · obtain ⟨c, h1, rfl, _⟩ := hc t hm hin
    have hin' : s.gang.contains c.t.ref = true := by simpa using hin
    simp only [hin', h1, if_true]
    cases hg : c.t.guardedOff
    · simpa using h _ hin c h1 hg
    · rfl
  · simp [hin]

/-- A short word, its checks empty and its effect known on every active thread. -/
theorem State.short_next {s : State} {i : Instr} {falls : Ctx → Bool} {checks : Ctx → List Fail} {eff eff' : Ctx → Thread → Thread} {g : Thread → Bool}
    (hc : s.Clear i g) (hg : ∀ c, falls c = true → g c.t = true) (hk : s.EachActive fun c => checks c = [])
    (ht : ∀ c t, t.taken = none → c.t.taken = none → (eff c t).taken = none) (he : s.EachActive fun c => eff c c.t.step = eff' c c.t.step) :
    finish s (s.short i falls checks eff) = .next (s.after eff') := by
  have hk' : ∀ t ∈ s.threads, t.ref ∈ s.gang → t.guardedOff = false → ∀ c, s.ctx? t.ref = some c → checks c = [] := by
    intro t hm hin hgd c h
    obtain ⟨c', h1, h2, _⟩ := hc t hm hin
    rw [h] at h1
    cases h1
    exact hk _ hin c h (h2 ▸ hgd)
  rw [State.short_after hc hg hk' ht, State.after_congr hc he]
  rfl

theorem finish_after (s : State) (f : Ctx → Thread → Thread) : finish s (s.after f) = .next (s.after f) := rfl

/-- A register word whose threads meet nothing. -/
theorem State.plain_after {s : State} {i : Instr} {eff : Ctx → Thread → Thread} (hc : s.Clear i)
    (ht : ∀ c t, (eff c t).taken = t.taken) : s.plain i eff = .next (s.after eff) := by
  unfold State.plain
  rw [State.short_after (g := fun _ => true) hc (by simp) (by simp) (by intro c t h _; rw [ht]; exact h)]
  rfl

/-! ## Words behind a precise stop -/

theorem State.thread?_of_ctx {s : State} {r : TRef} {c : Ctx} (h : s.ctx? r = some c) : s.thread? r = some c.t := by
  unfold State.ctx? at h
  simp only [bind, Option.bind_eq_some_iff] at h
  obtain ⟨t, h1, team, _, core, _, grid, _, code, _, kernel, _, h7⟩ := h
  cases h7
  exact h1

theorem State.ref_of_ctx {s : State} {r : TRef} {c : Ctx} (h : s.ctx? r = some c) : c.t.ref = r := by
  have := List.find?_some (State.thread?_of_ctx h)
  simpa using this

theorem State.Issues.privilege {s : State} {i : Instr} {r : TRef} {c : Ctx} (h : s.Issues i r c) : s.refusesPrivilege i = false := by
  unfold State.refusesPrivilege State.gangSystem
  rw [h.gang]
  simp only [List.head?_cons, Option.bind_some, h.ctx, Option.map_some, Option.getD_some, Ctx.system]
  cases hn : needsSystem i
  · rfl
  · simp [h.allowed hn]

/-- A thread with no fence of its own settles none. -/
theorem State.settleFences_none {s : State} {r : TRef} (h : ∀ f ∈ s.fences, f.thread ≠ r) : s.settleFences r = s := by
  unfold State.settleFences
  have : (s.fences.filter fun f => f.thread = r) = [] := List.filter_eq_nil_iff.2 fun f hf => by simpa using h f hf
  rw [this]
  split <;> rfl

/-- Nor is it held by one. -/
theorem State.fenceHolds_none {s : State} {r : TRef} (i : Instr) (h : ∀ f ∈ s.fences, f.thread ≠ r) : s.fenceHolds r i = false := by
  have : (s.fences.any fun f => f.thread == r && (f.acq || !onlyReads i)) = false := by
    rw [List.any_eq_false]
    intro f hf
    simp [h f hf]
  simp [State.fenceHolds, this]

/-- No lane of a batch stands below the first. -/
@[simp] theorem State.laneBehind_zero (s : State) (n : Nat) : s.laneBehind (n, 0) = false := by simp [State.laneBehind]

/-- Checks none of which walked a table leave no trace. -/
theorem State.noteFails_none {s : State} {c : Ctx} {fs : List Fail} (h : ∀ f ∈ fs, f.walked = false) : s.noteFails c fs = s := by
  have : fs.filter (·.walked) = [] := List.filter_eq_nil_iff.2 fun f hf => by simp [h f hf]
  simp [State.noteFails, this]

/-- What a suspended word does in the one thread that issues it, once its own part is known. -/
theorem State.long_lane {s : State} {i : Instr} {r : TRef} {c : Ctx} {word : Ctx → Nat → Nat → State → Lane} (h : s.Issues i r c) :
    s.long i word = finish s (match word c 0 s.nextOp { s with nextOp := s.nextOp + 1 } with
      | .fail fs => (s.noteFails c fs).stopWith r fs
      | .refuse s1 fs => (s1.noteFails c fs).stopWith r fs
      | .hold m room => s.waitLane r i m none room (s.nextOp, 0)
      | .keep s1 m => s1.modThread r fun t => t.waitAt i m none false (s.nextOp, 0)
      | .done s1 st => s1.modThread r fun t => { t.opens i s.nextOp (returnsData i) with status := st }) := by
  have hr := State.ref_of_ctx h.ctx
  have hs : (readsRecord i && s.scratchPending r) = false := by
    cases hi : readsRecord i
    · rfl
    · simp [h.settled hi]
  have hl : s.long i word = finish s (s.laneGo c i 0 none (s.nextOp, 0) word) := by
    simp [State.long, h.privilege, h.gang, State.lane, h.ctx, h.ready, h.active]
  rw [hl]
  unfold State.laneGo
  rw [hr, State.settleFences_none h.unfenced]
  have hn : s.notYet r i (s.nextOp, 0) = false := by simp [State.notYet, State.fenceHolds_none i h.unfenced, hs]
  simp only [hn, Ctx.shared_eq_nil h.uses, Ctx.fallThrough_eq_nil h.falls]
  cases hw : word c 0 s.nextOp { s with nextOp := s.nextOp + 1 } <;> simp

/-- Its checks pass and its effect is under way. -/
theorem State.long_done {s s1 : State} {i : Instr} {r : TRef} {c : Ctx} {word : Ctx → Nat → Nat → State → Lane} {st : TStatus} (h : s.Issues i r c)
    (hw : word c 0 s.nextOp { s with nextOp := s.nextOp + 1 } = .done s1 st) :
    s.long i word = .next { s1.modThread r fun t => { t.opens i s.nextOp (returnsData i) with status := st } with boot := s.boot } := by
  rw [State.long_lane h, hw]
  rfl

/-- A check that walked no table fails: the thread is suspended with the cause of the lowest code, and nothing else has changed. -/
theorem State.long_fail {s : State} {i : Instr} {r : TRef} {c : Ctx} {word : Ctx → Nat → Nat → State → Lane} {fs : List Fail} {f : Fail} (h : s.Issues i r c)
    (hw : word c 0 s.nextOp { s with nextOp := s.nextOp + 1 } = .fail fs) (hf : lowest fs = some f) (hn : ∀ x ∈ fs, x.walked = false) :
    s.long i word = .next (s.modThread r fun t => { t with status := .stopped (.fail f) }) := by
  rw [State.long_lane h, hw]
  simp only [State.noteFails_none hn, State.stopWith, hf]
  rfl

/-- The word waits: the thread is suspended and looks again, the word has its number, and nothing else has changed. -/
theorem State.long_hold {s : State} {i : Instr} {r : TRef} {c : Ctx} {word : Ctx → Nat → Nat → State → Lane} {m : Nat} {room : Bool} (h : s.Issues i r c)
    (hw : word c 0 s.nextOp { s with nextOp := s.nextOp + 1 } = .hold m room) :
    s.long i word = .next (s.waitLane r i m none room (s.nextOp, 0)) := by
  rw [State.long_lane h, hw]
  rfl

/-- A suspended word that passes and keeps the start and power state: the thread waits for the end of its stop. -/
theorem State.long_pass {s s1 : State} {i : Instr} {r : TRef} {c : Ctx} {word : Ctx → Nat → Nat → State → Lane} (h : s.Issues i r c)
    (hw : word c 0 s.nextOp { s with nextOp := s.nextOp + 1 } = .pass s1) (hb : s1.boot = s.boot) : s.long i word = .next (s1.suspend i r s.nextOp) := by
  rw [State.long_done h hw, State.suspend]
  cases s1; cases hb; rfl

end Sys2Proof.Machine
end

