-- ==== Sys2Proof/Laws/Integer.lean ====
section
/-! SUPPORT. The integer operations of 06 as arithmetic on whole numbers: products, minimum and maximum, shifts. -/

set_option Elab.async false

namespace Sys2Proof.Machine

theorem mulHigh_signed (x y : W32) : mulHigh true x y = BitVec.ofInt 32 (x.toInt * y.toInt / 2 ^ 32) := by
  have h : BitVec.signExtend 64 x * BitVec.signExtend 64 y = BitVec.ofInt 64 (x.toInt * y.toInt) := by
    apply BitVec.eq_of_toInt_eq
    rw [BitVec.toInt_mul, BitVec.toInt_signExtend_of_le (by decide), BitVec.toInt_signExtend_of_le (by decide), BitVec.toInt_ofInt]
  simp only [mulHigh, if_true]
  rw [h]
  apply BitVec.eq_of_toNat_eq
  rw [BitVec.extractLsb'_toNat, BitVec.toNat_ofInt, BitVec.toNat_ofInt, Nat.shiftRight_eq_div_pow]
  generalize x.toInt * y.toInt = z
  omega

theorem mulHigh_unsigned (x y : W32) : mulHigh false x y = BitVec.ofNat 32 (x.toNat * y.toNat / 2 ^ 32) := by
  apply BitVec.eq_of_toNat_eq
  simp only [mulHigh]
  have := Nat.mul_lt_mul'' x.isLt y.isLt
  simp [Nat.shiftRight_eq_div_pow]
  omega

theorem signed_min (x y : W32) : (if x.slt y then x else y) = BitVec.ofInt 32 (min x.toInt y.toInt) := by
  rw [Int.min_def]; simp only [BitVec.slt]; split <;> split <;> simp_all <;> (apply BitVec.eq_of_toInt_eq; omega)

theorem signed_max (x y : W32) : (if x.slt y then y else x) = BitVec.ofInt 32 (max x.toInt y.toInt) := by
  rw [Int.max_def]; simp only [BitVec.slt]; split <;> split <;> simp_all <;> (apply BitVec.eq_of_toInt_eq; omega)

theorem unsigned_min (x y : W32) : (if x.ult y then x else y) = BitVec.ofNat 32 (min x.toNat y.toNat) := by
  rw [Nat.min_def]; simp only [BitVec.ult]; split <;> split <;> simp_all <;> (apply BitVec.eq_of_toNat_eq; omega)

theorem unsigned_max (x y : W32) : (if x.ult y then y else x) = BitVec.ofNat 32 (max x.toNat y.toNat) := by
  rw [Nat.max_def]; simp only [BitVec.ult]; split <;> split <;> simp_all <;> (apply BitVec.eq_of_toNat_eq; omega)

theorem shift_left (x : W32) (n : Nat) : (if 32 ≤ n then 0 else x <<< n) = BitVec.ofNat 32 (x.toNat * 2 ^ n) := by
  apply BitVec.eq_of_toNat_eq
  split
  · rename_i h
    obtain ⟨k, rfl⟩ := Nat.exists_eq_add_of_le h
    rw [BitVec.toNat_ofNat, Nat.pow_add, ← Nat.mul_assoc, Nat.mul_right_comm, Nat.mul_mod_left]
    rfl
  · simp [Nat.shiftLeft_eq]

theorem shift_right (x : W32) (n : Nat) : x >>> n = BitVec.ofNat 32 (x.toNat / 2 ^ n) := by
  apply BitVec.eq_of_toNat_eq
  rw [BitVec.toNat_ushiftRight, BitVec.toNat_ofNat, Nat.shiftRight_eq_div_pow, Nat.mod_eq_of_lt]
  exact Nat.lt_of_le_of_lt (Nat.div_le_self _ _) x.isLt

end Sys2Proof.Machine
end

