-- ==== Sys2Proof/Laws/State.lean ====
section
/-! SUPPORT. What each plain update of State leaves of each field. -/

namespace Sys2Proof.Machine

/-- What a meaning answers, but for the start and power state, is what it computed. -/
theorem finish_eq (s t : State) : finish s t = .next { t with boot := s.boot } := rfl

/-- A meaning that kept the start and power state answers what it computed. -/
theorem finish_of_boot {s t : State} (h : t.boot = s.boot) : finish s t = .next t := by cases t; cases h; rfl

/-! ## modThread -/

@[simp] theorem State.modThread_agenda (s : State) (r : TRef) (f : Thread → Thread) : (s.modThread r f).agenda = s.agenda := rfl
@[simp] theorem State.modThread_subject (s : State) (r : TRef) (f : Thread → Thread) : (s.modThread r f).subject = s.subject := rfl
@[simp] theorem State.modThread_issueQ (s : State) (r : TRef) (f : Thread → Thread) : (s.modThread r f).issueQ = s.issueQ := rfl
@[simp] theorem State.modThread_gang (s : State) (r : TRef) (f : Thread → Thread) : (s.modThread r f).gang = s.gang := rfl
@[simp] theorem State.modThread_turn (s : State) (r : TRef) (f : Thread → Thread) : (s.modThread r f).turn = s.turn := rfl
@[simp] theorem State.modThread_turnDie (s : State) (r : TRef) (f : Thread → Thread) : (s.modThread r f).turnDie = s.turnDie := rfl
@[simp] theorem State.modThread_nextOp (s : State) (r : TRef) (f : Thread → Thread) : (s.modThread r f).nextOp = s.nextOp := rfl
@[simp] theorem State.modThread_draw (s : State) (r : TRef) (f : Thread → Thread) : (s.modThread r f).draw = s.draw := rfl
@[simp] theorem State.modThread_boot (s : State) (r : TRef) (f : Thread → Thread) : (s.modThread r f).boot = s.boot := rfl
@[simp] theorem State.modThread_cycle (s : State) (r : TRef) (f : Thread → Thread) : (s.modThread r f).cycle = s.cycle := rfl
@[simp] theorem State.modThread_dieClock (s : State) (r : TRef) (f : Thread → Thread) : (s.modThread r f).dieClock = s.dieClock := rfl
@[simp] theorem State.modThread_cycleBegan (s : State) (r : TRef) (f : Thread → Thread) : (s.modThread r f).cycleBegan = s.cycleBegan := rfl
@[simp] theorem State.modThread_refTimer (s : State) (r : TRef) (f : Thread → Thread) : (s.modThread r f).refTimer = s.refTimer := rfl
@[simp] theorem State.modThread_queues (s : State) (r : TRef) (f : Thread → Thread) : (s.modThread r f).queues = s.queues := rfl
@[simp] theorem State.modThread_rmas (s : State) (r : TRef) (f : Thread → Thread) : (s.modThread r f).rmas = s.rmas := rfl
@[simp] theorem State.modThread_priv (s : State) (r : TRef) (f : Thread → Thread) : (s.modThread r f).priv = s.priv := rfl
@[simp] theorem State.modThread_faultQ (s : State) (r : TRef) (f : Thread → Thread) : (s.modThread r f).faultQ = s.faultQ := rfl
@[simp] theorem State.modThread_killQ (s : State) (r : TRef) (f : Thread → Thread) : (s.modThread r f).killQ = s.killQ := rfl
@[simp] theorem State.modThread_eventQ (s : State) (r : TRef) (f : Thread → Thread) : (s.modThread r f).eventQ = s.eventQ := rfl
@[simp] theorem State.modThread_violQ (s : State) (r : TRef) (f : Thread → Thread) : (s.modThread r f).violQ = s.violQ := rfl
@[simp] theorem State.modThread_violLost (s : State) (r : TRef) (f : Thread → Thread) : (s.modThread r f).violLost = s.violLost := rfl
@[simp] theorem State.modThread_contexts (s : State) (r : TRef) (f : Thread → Thread) : (s.modThread r f).contexts = s.contexts := rfl
@[simp] theorem State.modThread_dieMap (s : State) (r : TRef) (f : Thread → Thread) : (s.modThread r f).dieMap = s.dieMap := rfl
@[simp] theorem State.modThread_regions (s : State) (r : TRef) (f : Thread → Thread) : (s.modThread r f).regions = s.regions := rfl
@[simp] theorem State.modThread_rstackArea (s : State) (r : TRef) (f : Thread → Thread) : (s.modThread r f).rstackArea = s.rstackArea := rfl
@[simp] theorem State.modThread_trace (s : State) (r : TRef) (f : Thread → Thread) : (s.modThread r f).trace = s.trace := rfl
@[simp] theorem State.modThread_faultRecs (s : State) (r : TRef) (f : Thread → Thread) : (s.modThread r f).faultRecs = s.faultRecs := rfl
@[simp] theorem State.modThread_faultSeq (s : State) (r : TRef) (f : Thread → Thread) : (s.modThread r f).faultSeq = s.faultSeq := rfl
@[simp] theorem State.modThread_codes (s : State) (r : TRef) (f : Thread → Thread) : (s.modThread r f).codes = s.codes := rfl
@[simp] theorem State.modThread_graphs (s : State) (r : TRef) (f : Thread → Thread) : (s.modThread r f).graphs = s.graphs := rfl
@[simp] theorem State.modThread_insts (s : State) (r : TRef) (f : Thread → Thread) : (s.modThread r f).insts = s.insts := rfl
@[simp] theorem State.modThread_nextInst (s : State) (r : TRef) (f : Thread → Thread) : (s.modThread r f).nextInst = s.nextInst := rfl
@[simp] theorem State.modThread_grids (s : State) (r : TRef) (f : Thread → Thread) : (s.modThread r f).grids = s.grids := rfl
@[simp] theorem State.modThread_nextGrid (s : State) (r : TRef) (f : Thread → Thread) : (s.modThread r f).nextGrid = s.nextGrid := rfl
@[simp] theorem State.modThread_teams (s : State) (r : TRef) (f : Thread → Thread) : (s.modThread r f).teams = s.teams := rfl
@[simp] theorem State.modThread_heats (s : State) (r : TRef) (f : Thread → Thread) : (s.modThread r f).heats = s.heats := rfl
@[simp] theorem State.modThread_carve (s : State) (r : TRef) (f : Thread → Thread) : (s.modThread r f).carve = s.carve := rfl
@[simp] theorem State.modThread_threads (s : State) (r : TRef) (f : Thread → Thread) : (s.modThread r f).threads = updWhere (fun t => t.ref = r) f s.threads := rfl
@[simp] theorem State.modThread_mem (s : State) (r : TRef) (f : Thread → Thread) : (s.modThread r f).mem = s.mem := rfl
@[simp] theorem State.modThread_absent (s : State) (r : TRef) (f : Thread → Thread) : (s.modThread r f).absent = s.absent := rfl
@[simp] theorem State.modThread_l1 (s : State) (r : TRef) (f : Thread → Thread) : (s.modThread r f).l1 = s.l1 := rfl
@[simp] theorem State.modThread_rdc (s : State) (r : TRef) (f : Thread → Thread) : (s.modThread r f).rdc = s.rdc := rfl
@[simp] theorem State.modThread_wtb (s : State) (r : TRef) (f : Thread → Thread) : (s.modThread r f).wtb = s.wtb := rfl
@[simp] theorem State.modThread_fences (s : State) (r : TRef) (f : Thread → Thread) : (s.modThread r f).fences = s.fences := rfl
@[simp] theorem State.modThread_dirty (s : State) (r : TRef) (f : Thread → Thread) : (s.modThread r f).dirty = s.dirty := rfl
@[simp] theorem State.modThread_intervals (s : State) (r : TRef) (f : Thread → Thread) : (s.modThread r f).intervals = s.intervals := rfl
@[simp] theorem State.modThread_locks (s : State) (r : TRef) (f : Thread → Thread) : (s.modThread r f).locks = s.locks := rfl
@[simp] theorem State.modThread_tlb (s : State) (r : TRef) (f : Thread → Thread) : (s.modThread r f).tlb = s.tlb := rfl
@[simp] theorem State.modThread_tlb2 (s : State) (r : TRef) (f : Thread → Thread) : (s.modThread r f).tlb2 = s.tlb2 := rfl
@[simp] theorem State.modThread_walkCache (s : State) (r : TRef) (f : Thread → Thread) : (s.modThread r f).walkCache = s.walkCache := rfl
@[simp] theorem State.modThread_atc (s : State) (r : TRef) (f : Thread → Thread) : (s.modThread r f).atc = s.atc := rfl
@[simp] theorem State.modThread_hostMap (s : State) (r : TRef) (f : Thread → Thread) : (s.modThread r f).hostMap = s.hostMap := rfl
@[simp] theorem State.modThread_loads (s : State) (r : TRef) (f : Thread → Thread) : (s.modThread r f).loads = s.loads := rfl
@[simp] theorem State.modThread_atoms (s : State) (r : TRef) (f : Thread → Thread) : (s.modThread r f).atoms = s.atoms := rfl
@[simp] theorem State.modThread_hurdles (s : State) (r : TRef) (f : Thread → Thread) : (s.modThread r f).hurdles = s.hurdles := rfl
@[simp] theorem State.modThread_engines (s : State) (r : TRef) (f : Thread → Thread) : (s.modThread r f).engines = s.engines := rfl
@[simp] theorem State.modThread_reservations (s : State) (r : TRef) (f : Thread → Thread) : (s.modThread r f).reservations = s.reservations := rfl
@[simp] theorem State.modThread_tiles (s : State) (r : TRef) (f : Thread → Thread) : (s.modThread r f).tiles = s.tiles := rfl
@[simp] theorem State.modThread_mmas (s : State) (r : TRef) (f : Thread → Thread) : (s.modThread r f).mmas = s.mmas := rfl
@[simp] theorem State.modThread_ragged (s : State) (r : TRef) (f : Thread → Thread) : (s.modThread r f).ragged = s.ragged := rfl
@[simp] theorem State.modThread_walks (s : State) (r : TRef) (f : Thread → Thread) : (s.modThread r f).walks = s.walks := rfl
@[simp] theorem State.modThread_endpoints (s : State) (r : TRef) (f : Thread → Thread) : (s.modThread r f).endpoints = s.endpoints := rfl
@[simp] theorem State.modThread_tables (s : State) (r : TRef) (f : Thread → Thread) : (s.modThread r f).tables = s.tables := rfl
@[simp] theorem State.modThread_rowsIn (s : State) (r : TRef) (f : Thread → Thread) : (s.modThread r f).rowsIn = s.rowsIn := rfl
@[simp] theorem State.modThread_noticesIn (s : State) (r : TRef) (f : Thread → Thread) : (s.modThread r f).noticesIn = s.noticesIn := rfl
@[simp] theorem State.modThread_returnsIn (s : State) (r : TRef) (f : Thread → Thread) : (s.modThread r f).returnsIn = s.returnsIn := rfl
@[simp] theorem State.modThread_chans (s : State) (r : TRef) (f : Thread → Thread) : (s.modThread r f).chans = s.chans := rfl
@[simp] theorem State.modThread_srcEntries (s : State) (r : TRef) (f : Thread → Thread) : (s.modThread r f).srcEntries = s.srcEntries := rfl
@[simp] theorem State.modThread_dstEntries (s : State) (r : TRef) (f : Thread → Thread) : (s.modThread r f).dstEntries = s.dstEntries := rfl
@[simp] theorem State.modThread_chanOps (s : State) (r : TRef) (f : Thread → Thread) : (s.modThread r f).chanOps = s.chanOps := rfl
@[simp] theorem State.modThread_drains (s : State) (r : TRef) (f : Thread → Thread) : (s.modThread r f).drains = s.drains := rfl
@[simp] theorem State.modThread_net (s : State) (r : TRef) (f : Thread → Thread) : (s.modThread r f).net = s.net := rfl
@[simp] theorem State.modThread_unreachable (s : State) (r : TRef) (f : Thread → Thread) : (s.modThread r f).unreachable = s.unreachable := rfl
@[simp] theorem State.modThread_portsDown (s : State) (r : TRef) (f : Thread → Thread) : (s.modThread r f).portsDown = s.portsDown := rfl
@[simp] theorem State.modThread_contribs (s : State) (r : TRef) (f : Thread → Thread) : (s.modThread r f).contribs = s.contribs := rfl
@[simp] theorem State.modThread_rred (s : State) (r : TRef) (f : Thread → Thread) : (s.modThread r f).rred = s.rred := rfl

/-! ## modTeam -/

@[simp] theorem State.modTeam_agenda (s : State) (g i : Nat) (f : Team → Team) : (s.modTeam g i f).agenda = s.agenda := rfl
@[simp] theorem State.modTeam_subject (s : State) (g i : Nat) (f : Team → Team) : (s.modTeam g i f).subject = s.subject := rfl
@[simp] theorem State.modTeam_issueQ (s : State) (g i : Nat) (f : Team → Team) : (s.modTeam g i f).issueQ = s.issueQ := rfl
@[simp] theorem State.modTeam_gang (s : State) (g i : Nat) (f : Team → Team) : (s.modTeam g i f).gang = s.gang := rfl
@[simp] theorem State.modTeam_turn (s : State) (g i : Nat) (f : Team → Team) : (s.modTeam g i f).turn = s.turn := rfl
@[simp] theorem State.modTeam_turnDie (s : State) (g i : Nat) (f : Team → Team) : (s.modTeam g i f).turnDie = s.turnDie := rfl
@[simp] theorem State.modTeam_nextOp (s : State) (g i : Nat) (f : Team → Team) : (s.modTeam g i f).nextOp = s.nextOp := rfl
@[simp] theorem State.modTeam_draw (s : State) (g i : Nat) (f : Team → Team) : (s.modTeam g i f).draw = s.draw := rfl
@[simp] theorem State.modTeam_boot (s : State) (g i : Nat) (f : Team → Team) : (s.modTeam g i f).boot = s.boot := rfl
@[simp] theorem State.modTeam_cycle (s : State) (g i : Nat) (f : Team → Team) : (s.modTeam g i f).cycle = s.cycle := rfl
@[simp] theorem State.modTeam_dieClock (s : State) (g i : Nat) (f : Team → Team) : (s.modTeam g i f).dieClock = s.dieClock := rfl
@[simp] theorem State.modTeam_cycleBegan (s : State) (g i : Nat) (f : Team → Team) : (s.modTeam g i f).cycleBegan = s.cycleBegan := rfl
@[simp] theorem State.modTeam_refTimer (s : State) (g i : Nat) (f : Team → Team) : (s.modTeam g i f).refTimer = s.refTimer := rfl
@[simp] theorem State.modTeam_queues (s : State) (g i : Nat) (f : Team → Team) : (s.modTeam g i f).queues = s.queues := rfl
@[simp] theorem State.modTeam_rmas (s : State) (g i : Nat) (f : Team → Team) : (s.modTeam g i f).rmas = s.rmas := rfl
@[simp] theorem State.modTeam_priv (s : State) (g i : Nat) (f : Team → Team) : (s.modTeam g i f).priv = s.priv := rfl
@[simp] theorem State.modTeam_faultQ (s : State) (g i : Nat) (f : Team → Team) : (s.modTeam g i f).faultQ = s.faultQ := rfl
@[simp] theorem State.modTeam_killQ (s : State) (g i : Nat) (f : Team → Team) : (s.modTeam g i f).killQ = s.killQ := rfl
@[simp] theorem State.modTeam_eventQ (s : State) (g i : Nat) (f : Team → Team) : (s.modTeam g i f).eventQ = s.eventQ := rfl
@[simp] theorem State.modTeam_violQ (s : State) (g i : Nat) (f : Team → Team) : (s.modTeam g i f).violQ = s.violQ := rfl
@[simp] theorem State.modTeam_violLost (s : State) (g i : Nat) (f : Team → Team) : (s.modTeam g i f).violLost = s.violLost := rfl
@[simp] theorem State.modTeam_contexts (s : State) (g i : Nat) (f : Team → Team) : (s.modTeam g i f).contexts = s.contexts := rfl
@[simp] theorem State.modTeam_dieMap (s : State) (g i : Nat) (f : Team → Team) : (s.modTeam g i f).dieMap = s.dieMap := rfl
@[simp] theorem State.modTeam_regions (s : State) (g i : Nat) (f : Team → Team) : (s.modTeam g i f).regions = s.regions := rfl
@[simp] theorem State.modTeam_rstackArea (s : State) (g i : Nat) (f : Team → Team) : (s.modTeam g i f).rstackArea = s.rstackArea := rfl
@[simp] theorem State.modTeam_trace (s : State) (g i : Nat) (f : Team → Team) : (s.modTeam g i f).trace = s.trace := rfl
@[simp] theorem State.modTeam_faultRecs (s : State) (g i : Nat) (f : Team → Team) : (s.modTeam g i f).faultRecs = s.faultRecs := rfl
@[simp] theorem State.modTeam_faultSeq (s : State) (g i : Nat) (f : Team → Team) : (s.modTeam g i f).faultSeq = s.faultSeq := rfl
@[simp] theorem State.modTeam_codes (s : State) (g i : Nat) (f : Team → Team) : (s.modTeam g i f).codes = s.codes := rfl
@[simp] theorem State.modTeam_graphs (s : State) (g i : Nat) (f : Team → Team) : (s.modTeam g i f).graphs = s.graphs := rfl
@[simp] theorem State.modTeam_insts (s : State) (g i : Nat) (f : Team → Team) : (s.modTeam g i f).insts = s.insts := rfl
@[simp] theorem State.modTeam_nextInst (s : State) (g i : Nat) (f : Team → Team) : (s.modTeam g i f).nextInst = s.nextInst := rfl
@[simp] theorem State.modTeam_grids (s : State) (g i : Nat) (f : Team → Team) : (s.modTeam g i f).grids = s.grids := rfl
@[simp] theorem State.modTeam_nextGrid (s : State) (g i : Nat) (f : Team → Team) : (s.modTeam g i f).nextGrid = s.nextGrid := rfl
@[simp] theorem State.modTeam_teams (s : State) (g i : Nat) (f : Team → Team) : (s.modTeam g i f).teams = updWhere (fun t => t.grid = g && t.idx = i) f s.teams := rfl
@[simp] theorem State.modTeam_heats (s : State) (g i : Nat) (f : Team → Team) : (s.modTeam g i f).heats = s.heats := rfl
@[simp] theorem State.modTeam_carve (s : State) (g i : Nat) (f : Team → Team) : (s.modTeam g i f).carve = s.carve := rfl
@[simp] theorem State.modTeam_threads (s : State) (g i : Nat) (f : Team → Team) : (s.modTeam g i f).threads = s.threads := rfl
@[simp] theorem State.modTeam_mem (s : State) (g i : Nat) (f : Team → Team) : (s.modTeam g i f).mem = s.mem := rfl
@[simp] theorem State.modTeam_absent (s : State) (g i : Nat) (f : Team → Team) : (s.modTeam g i f).absent = s.absent := rfl
@[simp] theorem State.modTeam_l1 (s : State) (g i : Nat) (f : Team → Team) : (s.modTeam g i f).l1 = s.l1 := rfl
@[simp] theorem State.modTeam_rdc (s : State) (g i : Nat) (f : Team → Team) : (s.modTeam g i f).rdc = s.rdc := rfl
@[simp] theorem State.modTeam_wtb (s : State) (g i : Nat) (f : Team → Team) : (s.modTeam g i f).wtb = s.wtb := rfl
@[simp] theorem State.modTeam_fences (s : State) (g i : Nat) (f : Team → Team) : (s.modTeam g i f).fences = s.fences := rfl
@[simp] theorem State.modTeam_dirty (s : State) (g i : Nat) (f : Team → Team) : (s.modTeam g i f).dirty = s.dirty := rfl
@[simp] theorem State.modTeam_intervals (s : State) (g i : Nat) (f : Team → Team) : (s.modTeam g i f).intervals = s.intervals := rfl
@[simp] theorem State.modTeam_locks (s : State) (g i : Nat) (f : Team → Team) : (s.modTeam g i f).locks = s.locks := rfl
@[simp] theorem State.modTeam_tlb (s : State) (g i : Nat) (f : Team → Team) : (s.modTeam g i f).tlb = s.tlb := rfl
@[simp] theorem State.modTeam_tlb2 (s : State) (g i : Nat) (f : Team → Team) : (s.modTeam g i f).tlb2 = s.tlb2 := rfl
@[simp] theorem State.modTeam_walkCache (s : State) (g i : Nat) (f : Team → Team) : (s.modTeam g i f).walkCache = s.walkCache := rfl
@[simp] theorem State.modTeam_atc (s : State) (g i : Nat) (f : Team → Team) : (s.modTeam g i f).atc = s.atc := rfl
@[simp] theorem State.modTeam_hostMap (s : State) (g i : Nat) (f : Team → Team) : (s.modTeam g i f).hostMap = s.hostMap := rfl
@[simp] theorem State.modTeam_loads (s : State) (g i : Nat) (f : Team → Team) : (s.modTeam g i f).loads = s.loads := rfl
@[simp] theorem State.modTeam_atoms (s : State) (g i : Nat) (f : Team → Team) : (s.modTeam g i f).atoms = s.atoms := rfl
@[simp] theorem State.modTeam_hurdles (s : State) (g i : Nat) (f : Team → Team) : (s.modTeam g i f).hurdles = s.hurdles := rfl
@[simp] theorem State.modTeam_engines (s : State) (g i : Nat) (f : Team → Team) : (s.modTeam g i f).engines = s.engines := rfl
@[simp] theorem State.modTeam_reservations (s : State) (g i : Nat) (f : Team → Team) : (s.modTeam g i f).reservations = s.reservations := rfl
@[simp] theorem State.modTeam_tiles (s : State) (g i : Nat) (f : Team → Team) : (s.modTeam g i f).tiles = s.tiles := rfl
@[simp] theorem State.modTeam_mmas (s : State) (g i : Nat) (f : Team → Team) : (s.modTeam g i f).mmas = s.mmas := rfl
@[simp] theorem State.modTeam_ragged (s : State) (g i : Nat) (f : Team → Team) : (s.modTeam g i f).ragged = s.ragged := rfl
@[simp] theorem State.modTeam_walks (s : State) (g i : Nat) (f : Team → Team) : (s.modTeam g i f).walks = s.walks := rfl
@[simp] theorem State.modTeam_endpoints (s : State) (g i : Nat) (f : Team → Team) : (s.modTeam g i f).endpoints = s.endpoints := rfl
@[simp] theorem State.modTeam_tables (s : State) (g i : Nat) (f : Team → Team) : (s.modTeam g i f).tables = s.tables := rfl
@[simp] theorem State.modTeam_rowsIn (s : State) (g i : Nat) (f : Team → Team) : (s.modTeam g i f).rowsIn = s.rowsIn := rfl
@[simp] theorem State.modTeam_noticesIn (s : State) (g i : Nat) (f : Team → Team) : (s.modTeam g i f).noticesIn = s.noticesIn := rfl
@[simp] theorem State.modTeam_returnsIn (s : State) (g i : Nat) (f : Team → Team) : (s.modTeam g i f).returnsIn = s.returnsIn := rfl
@[simp] theorem State.modTeam_chans (s : State) (g i : Nat) (f : Team → Team) : (s.modTeam g i f).chans = s.chans := rfl
@[simp] theorem State.modTeam_srcEntries (s : State) (g i : Nat) (f : Team → Team) : (s.modTeam g i f).srcEntries = s.srcEntries := rfl
@[simp] theorem State.modTeam_dstEntries (s : State) (g i : Nat) (f : Team → Team) : (s.modTeam g i f).dstEntries = s.dstEntries := rfl
@[simp] theorem State.modTeam_chanOps (s : State) (g i : Nat) (f : Team → Team) : (s.modTeam g i f).chanOps = s.chanOps := rfl
@[simp] theorem State.modTeam_drains (s : State) (g i : Nat) (f : Team → Team) : (s.modTeam g i f).drains = s.drains := rfl
@[simp] theorem State.modTeam_net (s : State) (g i : Nat) (f : Team → Team) : (s.modTeam g i f).net = s.net := rfl
@[simp] theorem State.modTeam_unreachable (s : State) (g i : Nat) (f : Team → Team) : (s.modTeam g i f).unreachable = s.unreachable := rfl
@[simp] theorem State.modTeam_portsDown (s : State) (g i : Nat) (f : Team → Team) : (s.modTeam g i f).portsDown = s.portsDown := rfl
@[simp] theorem State.modTeam_contribs (s : State) (g i : Nat) (f : Team → Team) : (s.modTeam g i f).contribs = s.contribs := rfl
@[simp] theorem State.modTeam_rred (s : State) (g i : Nat) (f : Team → Team) : (s.modTeam g i f).rred = s.rred := rfl

/-! ## modGrid -/

@[simp] theorem State.modGrid_agenda (s : State) (g : Nat) (f : Grid → Grid) : (s.modGrid g f).agenda = s.agenda := rfl
@[simp] theorem State.modGrid_subject (s : State) (g : Nat) (f : Grid → Grid) : (s.modGrid g f).subject = s.subject := rfl
@[simp] theorem State.modGrid_issueQ (s : State) (g : Nat) (f : Grid → Grid) : (s.modGrid g f).issueQ = s.issueQ := rfl
@[simp] theorem State.modGrid_gang (s : State) (g : Nat) (f : Grid → Grid) : (s.modGrid g f).gang = s.gang := rfl
@[simp] theorem State.modGrid_turn (s : State) (g : Nat) (f : Grid → Grid) : (s.modGrid g f).turn = s.turn := rfl
@[simp] theorem State.modGrid_turnDie (s : State) (g : Nat) (f : Grid → Grid) : (s.modGrid g f).turnDie = s.turnDie := rfl
@[simp] theorem State.modGrid_nextOp (s : State) (g : Nat) (f : Grid → Grid) : (s.modGrid g f).nextOp = s.nextOp := rfl
@[simp] theorem State.modGrid_draw (s : State) (g : Nat) (f : Grid → Grid) : (s.modGrid g f).draw = s.draw := rfl
@[simp] theorem State.modGrid_boot (s : State) (g : Nat) (f : Grid → Grid) : (s.modGrid g f).boot = s.boot := rfl
@[simp] theorem State.modGrid_cycle (s : State) (g : Nat) (f : Grid → Grid) : (s.modGrid g f).cycle = s.cycle := rfl
@[simp] theorem State.modGrid_dieClock (s : State) (g : Nat) (f : Grid → Grid) : (s.modGrid g f).dieClock = s.dieClock := rfl
@[simp] theorem State.modGrid_cycleBegan (s : State) (g : Nat) (f : Grid → Grid) : (s.modGrid g f).cycleBegan = s.cycleBegan := rfl
@[simp] theorem State.modGrid_refTimer (s : State) (g : Nat) (f : Grid → Grid) : (s.modGrid g f).refTimer = s.refTimer := rfl
@[simp] theorem State.modGrid_queues (s : State) (g : Nat) (f : Grid → Grid) : (s.modGrid g f).queues = s.queues := rfl
@[simp] theorem State.modGrid_rmas (s : State) (g : Nat) (f : Grid → Grid) : (s.modGrid g f).rmas = s.rmas := rfl
@[simp] theorem State.modGrid_priv (s : State) (g : Nat) (f : Grid → Grid) : (s.modGrid g f).priv = s.priv := rfl
@[simp] theorem State.modGrid_faultQ (s : State) (g : Nat) (f : Grid → Grid) : (s.modGrid g f).faultQ = s.faultQ := rfl
@[simp] theorem State.modGrid_killQ (s : State) (g : Nat) (f : Grid → Grid) : (s.modGrid g f).killQ = s.killQ := rfl
@[simp] theorem State.modGrid_eventQ (s : State) (g : Nat) (f : Grid → Grid) : (s.modGrid g f).eventQ = s.eventQ := rfl
@[simp] theorem State.modGrid_violQ (s : State) (g : Nat) (f : Grid → Grid) : (s.modGrid g f).violQ = s.violQ := rfl
@[simp] theorem State.modGrid_violLost (s : State) (g : Nat) (f : Grid → Grid) : (s.modGrid g f).violLost = s.violLost := rfl
@[simp] theorem State.modGrid_contexts (s : State) (g : Nat) (f : Grid → Grid) : (s.modGrid g f).contexts = s.contexts := rfl
@[simp] theorem State.modGrid_dieMap (s : State) (g : Nat) (f : Grid → Grid) : (s.modGrid g f).dieMap = s.dieMap := rfl
@[simp] theorem State.modGrid_regions (s : State) (g : Nat) (f : Grid → Grid) : (s.modGrid g f).regions = s.regions := rfl
@[simp] theorem State.modGrid_rstackArea (s : State) (g : Nat) (f : Grid → Grid) : (s.modGrid g f).rstackArea = s.rstackArea := rfl
@[simp] theorem State.modGrid_trace (s : State) (g : Nat) (f : Grid → Grid) : (s.modGrid g f).trace = s.trace := rfl
@[simp] theorem State.modGrid_faultRecs (s : State) (g : Nat) (f : Grid → Grid) : (s.modGrid g f).faultRecs = s.faultRecs := rfl
@[simp] theorem State.modGrid_faultSeq (s : State) (g : Nat) (f : Grid → Grid) : (s.modGrid g f).faultSeq = s.faultSeq := rfl
@[simp] theorem State.modGrid_codes (s : State) (g : Nat) (f : Grid → Grid) : (s.modGrid g f).codes = s.codes := rfl
@[simp] theorem State.modGrid_graphs (s : State) (g : Nat) (f : Grid → Grid) : (s.modGrid g f).graphs = s.graphs := rfl
@[simp] theorem State.modGrid_insts (s : State) (g : Nat) (f : Grid → Grid) : (s.modGrid g f).insts = s.insts := rfl
@[simp] theorem State.modGrid_nextInst (s : State) (g : Nat) (f : Grid → Grid) : (s.modGrid g f).nextInst = s.nextInst := rfl
@[simp] theorem State.modGrid_grids (s : State) (g : Nat) (f : Grid → Grid) : (s.modGrid g f).grids = updWhere (fun x => x.id = g) f s.grids := rfl
@[simp] theorem State.modGrid_nextGrid (s : State) (g : Nat) (f : Grid → Grid) : (s.modGrid g f).nextGrid = s.nextGrid := rfl
@[simp] theorem State.modGrid_teams (s : State) (g : Nat) (f : Grid → Grid) : (s.modGrid g f).teams = s.teams := rfl
@[simp] theorem State.modGrid_heats (s : State) (g : Nat) (f : Grid → Grid) : (s.modGrid g f).heats = s.heats := rfl
@[simp] theorem State.modGrid_carve (s : State) (g : Nat) (f : Grid → Grid) : (s.modGrid g f).carve = s.carve := rfl
@[simp] theorem State.modGrid_threads (s : State) (g : Nat) (f : Grid → Grid) : (s.modGrid g f).threads = s.threads := rfl
@[simp] theorem State.modGrid_mem (s : State) (g : Nat) (f : Grid → Grid) : (s.modGrid g f).mem = s.mem := rfl
@[simp] theorem State.modGrid_absent (s : State) (g : Nat) (f : Grid → Grid) : (s.modGrid g f).absent = s.absent := rfl
@[simp] theorem State.modGrid_l1 (s : State) (g : Nat) (f : Grid → Grid) : (s.modGrid g f).l1 = s.l1 := rfl
@[simp] theorem State.modGrid_rdc (s : State) (g : Nat) (f : Grid → Grid) : (s.modGrid g f).rdc = s.rdc := rfl
@[simp] theorem State.modGrid_wtb (s : State) (g : Nat) (f : Grid → Grid) : (s.modGrid g f).wtb = s.wtb := rfl
@[simp] theorem State.modGrid_fences (s : State) (g : Nat) (f : Grid → Grid) : (s.modGrid g f).fences = s.fences := rfl
@[simp] theorem State.modGrid_dirty (s : State) (g : Nat) (f : Grid → Grid) : (s.modGrid g f).dirty = s.dirty := rfl
@[simp] theorem State.modGrid_intervals (s : State) (g : Nat) (f : Grid → Grid) : (s.modGrid g f).intervals = s.intervals := rfl
@[simp] theorem State.modGrid_locks (s : State) (g : Nat) (f : Grid → Grid) : (s.modGrid g f).locks = s.locks := rfl
@[simp] theorem State.modGrid_tlb (s : State) (g : Nat) (f : Grid → Grid) : (s.modGrid g f).tlb = s.tlb := rfl
@[simp] theorem State.modGrid_tlb2 (s : State) (g : Nat) (f : Grid → Grid) : (s.modGrid g f).tlb2 = s.tlb2 := rfl
@[simp] theorem State.modGrid_walkCache (s : State) (g : Nat) (f : Grid → Grid) : (s.modGrid g f).walkCache = s.walkCache := rfl
@[simp] theorem State.modGrid_atc (s : State) (g : Nat) (f : Grid → Grid) : (s.modGrid g f).atc = s.atc := rfl
@[simp] theorem State.modGrid_hostMap (s : State) (g : Nat) (f : Grid → Grid) : (s.modGrid g f).hostMap = s.hostMap := rfl
@[simp] theorem State.modGrid_loads (s : State) (g : Nat) (f : Grid → Grid) : (s.modGrid g f).loads = s.loads := rfl
@[simp] theorem State.modGrid_atoms (s : State) (g : Nat) (f : Grid → Grid) : (s.modGrid g f).atoms = s.atoms := rfl
@[simp] theorem State.modGrid_hurdles (s : State) (g : Nat) (f : Grid → Grid) : (s.modGrid g f).hurdles = s.hurdles := rfl
@[simp] theorem State.modGrid_engines (s : State) (g : Nat) (f : Grid → Grid) : (s.modGrid g f).engines = s.engines := rfl
@[simp] theorem State.modGrid_reservations (s : State) (g : Nat) (f : Grid → Grid) : (s.modGrid g f).reservations = s.reservations := rfl
@[simp] theorem State.modGrid_tiles (s : State) (g : Nat) (f : Grid → Grid) : (s.modGrid g f).tiles = s.tiles := rfl
@[simp] theorem State.modGrid_mmas (s : State) (g : Nat) (f : Grid → Grid) : (s.modGrid g f).mmas = s.mmas := rfl
@[simp] theorem State.modGrid_ragged (s : State) (g : Nat) (f : Grid → Grid) : (s.modGrid g f).ragged = s.ragged := rfl
@[simp] theorem State.modGrid_walks (s : State) (g : Nat) (f : Grid → Grid) : (s.modGrid g f).walks = s.walks := rfl
@[simp] theorem State.modGrid_endpoints (s : State) (g : Nat) (f : Grid → Grid) : (s.modGrid g f).endpoints = s.endpoints := rfl
@[simp] theorem State.modGrid_tables (s : State) (g : Nat) (f : Grid → Grid) : (s.modGrid g f).tables = s.tables := rfl
@[simp] theorem State.modGrid_rowsIn (s : State) (g : Nat) (f : Grid → Grid) : (s.modGrid g f).rowsIn = s.rowsIn := rfl
@[simp] theorem State.modGrid_noticesIn (s : State) (g : Nat) (f : Grid → Grid) : (s.modGrid g f).noticesIn = s.noticesIn := rfl
@[simp] theorem State.modGrid_returnsIn (s : State) (g : Nat) (f : Grid → Grid) : (s.modGrid g f).returnsIn = s.returnsIn := rfl
@[simp] theorem State.modGrid_chans (s : State) (g : Nat) (f : Grid → Grid) : (s.modGrid g f).chans = s.chans := rfl
@[simp] theorem State.modGrid_srcEntries (s : State) (g : Nat) (f : Grid → Grid) : (s.modGrid g f).srcEntries = s.srcEntries := rfl
@[simp] theorem State.modGrid_dstEntries (s : State) (g : Nat) (f : Grid → Grid) : (s.modGrid g f).dstEntries = s.dstEntries := rfl
@[simp] theorem State.modGrid_chanOps (s : State) (g : Nat) (f : Grid → Grid) : (s.modGrid g f).chanOps = s.chanOps := rfl
@[simp] theorem State.modGrid_drains (s : State) (g : Nat) (f : Grid → Grid) : (s.modGrid g f).drains = s.drains := rfl
@[simp] theorem State.modGrid_net (s : State) (g : Nat) (f : Grid → Grid) : (s.modGrid g f).net = s.net := rfl
@[simp] theorem State.modGrid_unreachable (s : State) (g : Nat) (f : Grid → Grid) : (s.modGrid g f).unreachable = s.unreachable := rfl
@[simp] theorem State.modGrid_portsDown (s : State) (g : Nat) (f : Grid → Grid) : (s.modGrid g f).portsDown = s.portsDown := rfl
@[simp] theorem State.modGrid_contribs (s : State) (g : Nat) (f : Grid → Grid) : (s.modGrid g f).contribs = s.contribs := rfl
@[simp] theorem State.modGrid_rred (s : State) (g : Nat) (f : Grid → Grid) : (s.modGrid g f).rred = s.rred := rfl

/-! ## wr -/

@[simp] theorem State.wr_agenda (s : State) (key : Nat) (bs : List Byte) : (s.wr key bs).agenda = s.agenda := rfl
@[simp] theorem State.wr_subject (s : State) (key : Nat) (bs : List Byte) : (s.wr key bs).subject = s.subject := rfl
@[simp] theorem State.wr_issueQ (s : State) (key : Nat) (bs : List Byte) : (s.wr key bs).issueQ = s.issueQ := rfl
@[simp] theorem State.wr_gang (s : State) (key : Nat) (bs : List Byte) : (s.wr key bs).gang = s.gang := rfl
@[simp] theorem State.wr_turn (s : State) (key : Nat) (bs : List Byte) : (s.wr key bs).turn = s.turn := rfl
@[simp] theorem State.wr_turnDie (s : State) (key : Nat) (bs : List Byte) : (s.wr key bs).turnDie = s.turnDie := rfl
@[simp] theorem State.wr_nextOp (s : State) (key : Nat) (bs : List Byte) : (s.wr key bs).nextOp = s.nextOp := rfl
@[simp] theorem State.wr_draw (s : State) (key : Nat) (bs : List Byte) : (s.wr key bs).draw = s.draw := rfl
@[simp] theorem State.wr_boot (s : State) (key : Nat) (bs : List Byte) : (s.wr key bs).boot = s.boot := rfl
@[simp] theorem State.wr_cycle (s : State) (key : Nat) (bs : List Byte) : (s.wr key bs).cycle = s.cycle := rfl
@[simp] theorem State.wr_dieClock (s : State) (key : Nat) (bs : List Byte) : (s.wr key bs).dieClock = s.dieClock := rfl
@[simp] theorem State.wr_cycleBegan (s : State) (key : Nat) (bs : List Byte) : (s.wr key bs).cycleBegan = s.cycleBegan := rfl
@[simp] theorem State.wr_refTimer (s : State) (key : Nat) (bs : List Byte) : (s.wr key bs).refTimer = s.refTimer := rfl
@[simp] theorem State.wr_queues (s : State) (key : Nat) (bs : List Byte) : (s.wr key bs).queues = s.queues := rfl
@[simp] theorem State.wr_rmas (s : State) (key : Nat) (bs : List Byte) : (s.wr key bs).rmas = s.rmas := rfl
@[simp] theorem State.wr_priv (s : State) (key : Nat) (bs : List Byte) : (s.wr key bs).priv = s.priv := rfl
@[simp] theorem State.wr_faultQ (s : State) (key : Nat) (bs : List Byte) : (s.wr key bs).faultQ = s.faultQ := rfl
@[simp] theorem State.wr_killQ (s : State) (key : Nat) (bs : List Byte) : (s.wr key bs).killQ = s.killQ := rfl
@[simp] theorem State.wr_eventQ (s : State) (key : Nat) (bs : List Byte) : (s.wr key bs).eventQ = s.eventQ := rfl
@[simp] theorem State.wr_violQ (s : State) (key : Nat) (bs : List Byte) : (s.wr key bs).violQ = s.violQ := rfl
@[simp] theorem State.wr_violLost (s : State) (key : Nat) (bs : List Byte) : (s.wr key bs).violLost = s.violLost := rfl
@[simp] theorem State.wr_contexts (s : State) (key : Nat) (bs : List Byte) : (s.wr key bs).contexts = s.contexts := rfl
@[simp] theorem State.wr_dieMap (s : State) (key : Nat) (bs : List Byte) : (s.wr key bs).dieMap = s.dieMap := rfl
@[simp] theorem State.wr_regions (s : State) (key : Nat) (bs : List Byte) : (s.wr key bs).regions = s.regions := rfl
@[simp] theorem State.wr_rstackArea (s : State) (key : Nat) (bs : List Byte) : (s.wr key bs).rstackArea = s.rstackArea := rfl
@[simp] theorem State.wr_trace (s : State) (key : Nat) (bs : List Byte) : (s.wr key bs).trace = s.trace := rfl
@[simp] theorem State.wr_faultRecs (s : State) (key : Nat) (bs : List Byte) : (s.wr key bs).faultRecs = s.faultRecs := rfl
@[simp] theorem State.wr_faultSeq (s : State) (key : Nat) (bs : List Byte) : (s.wr key bs).faultSeq = s.faultSeq := rfl
@[simp] theorem State.wr_codes (s : State) (key : Nat) (bs : List Byte) : (s.wr key bs).codes = s.codes := rfl
@[simp] theorem State.wr_graphs (s : State) (key : Nat) (bs : List Byte) : (s.wr key bs).graphs = s.graphs := rfl
@[simp] theorem State.wr_insts (s : State) (key : Nat) (bs : List Byte) : (s.wr key bs).insts = s.insts := rfl
@[simp] theorem State.wr_nextInst (s : State) (key : Nat) (bs : List Byte) : (s.wr key bs).nextInst = s.nextInst := rfl
@[simp] theorem State.wr_grids (s : State) (key : Nat) (bs : List Byte) : (s.wr key bs).grids = s.grids := rfl
@[simp] theorem State.wr_nextGrid (s : State) (key : Nat) (bs : List Byte) : (s.wr key bs).nextGrid = s.nextGrid := rfl
@[simp] theorem State.wr_teams (s : State) (key : Nat) (bs : List Byte) : (s.wr key bs).teams = s.teams := rfl
@[simp] theorem State.wr_heats (s : State) (key : Nat) (bs : List Byte) : (s.wr key bs).heats = s.heats := rfl
@[simp] theorem State.wr_carve (s : State) (key : Nat) (bs : List Byte) : (s.wr key bs).carve = s.carve := rfl
@[simp] theorem State.wr_threads (s : State) (key : Nat) (bs : List Byte) : (s.wr key bs).threads = s.threads := rfl
@[simp] theorem State.wr_mem (s : State) (key : Nat) (bs : List Byte) : (s.wr key bs).mem = memWrite s.mem key bs := rfl
@[simp] theorem State.wr_absent (s : State) (key : Nat) (bs : List Byte) : (s.wr key bs).absent = s.absent := rfl
@[simp] theorem State.wr_l1 (s : State) (key : Nat) (bs : List Byte) : (s.wr key bs).l1 = s.l1 := rfl
@[simp] theorem State.wr_rdc (s : State) (key : Nat) (bs : List Byte) : (s.wr key bs).rdc = s.rdc := rfl
@[simp] theorem State.wr_wtb (s : State) (key : Nat) (bs : List Byte) : (s.wr key bs).wtb = s.wtb := rfl
@[simp] theorem State.wr_fences (s : State) (key : Nat) (bs : List Byte) : (s.wr key bs).fences = s.fences := rfl
@[simp] theorem State.wr_dirty (s : State) (key : Nat) (bs : List Byte) : (s.wr key bs).dirty = s.dirty := rfl
@[simp] theorem State.wr_intervals (s : State) (key : Nat) (bs : List Byte) : (s.wr key bs).intervals = s.intervals := rfl
@[simp] theorem State.wr_locks (s : State) (key : Nat) (bs : List Byte) : (s.wr key bs).locks = s.locks := rfl
@[simp] theorem State.wr_tlb (s : State) (key : Nat) (bs : List Byte) : (s.wr key bs).tlb = s.tlb := rfl
@[simp] theorem State.wr_tlb2 (s : State) (key : Nat) (bs : List Byte) : (s.wr key bs).tlb2 = s.tlb2 := rfl
@[simp] theorem State.wr_walkCache (s : State) (key : Nat) (bs : List Byte) : (s.wr key bs).walkCache = s.walkCache := rfl
@[simp] theorem State.wr_atc (s : State) (key : Nat) (bs : List Byte) : (s.wr key bs).atc = s.atc := rfl
@[simp] theorem State.wr_hostMap (s : State) (key : Nat) (bs : List Byte) : (s.wr key bs).hostMap = s.hostMap := rfl
@[simp] theorem State.wr_loads (s : State) (key : Nat) (bs : List Byte) : (s.wr key bs).loads = s.loads := rfl
@[simp] theorem State.wr_atoms (s : State) (key : Nat) (bs : List Byte) : (s.wr key bs).atoms = s.atoms := rfl
@[simp] theorem State.wr_hurdles (s : State) (key : Nat) (bs : List Byte) : (s.wr key bs).hurdles = s.hurdles := rfl
@[simp] theorem State.wr_engines (s : State) (key : Nat) (bs : List Byte) : (s.wr key bs).engines = s.engines := rfl
@[simp] theorem State.wr_reservations (s : State) (key : Nat) (bs : List Byte) : (s.wr key bs).reservations = s.reservations := rfl
@[simp] theorem State.wr_tiles (s : State) (key : Nat) (bs : List Byte) : (s.wr key bs).tiles = s.tiles := rfl
@[simp] theorem State.wr_mmas (s : State) (key : Nat) (bs : List Byte) : (s.wr key bs).mmas = s.mmas := rfl
@[simp] theorem State.wr_ragged (s : State) (key : Nat) (bs : List Byte) : (s.wr key bs).ragged = s.ragged := rfl
@[simp] theorem State.wr_walks (s : State) (key : Nat) (bs : List Byte) : (s.wr key bs).walks = s.walks := rfl
@[simp] theorem State.wr_endpoints (s : State) (key : Nat) (bs : List Byte) : (s.wr key bs).endpoints = s.endpoints := rfl
@[simp] theorem State.wr_tables (s : State) (key : Nat) (bs : List Byte) : (s.wr key bs).tables = s.tables := rfl
@[simp] theorem State.wr_rowsIn (s : State) (key : Nat) (bs : List Byte) : (s.wr key bs).rowsIn = s.rowsIn := rfl
@[simp] theorem State.wr_noticesIn (s : State) (key : Nat) (bs : List Byte) : (s.wr key bs).noticesIn = s.noticesIn := rfl
@[simp] theorem State.wr_returnsIn (s : State) (key : Nat) (bs : List Byte) : (s.wr key bs).returnsIn = s.returnsIn := rfl
@[simp] theorem State.wr_chans (s : State) (key : Nat) (bs : List Byte) : (s.wr key bs).chans = s.chans := rfl
@[simp] theorem State.wr_srcEntries (s : State) (key : Nat) (bs : List Byte) : (s.wr key bs).srcEntries = s.srcEntries := rfl
@[simp] theorem State.wr_dstEntries (s : State) (key : Nat) (bs : List Byte) : (s.wr key bs).dstEntries = s.dstEntries := rfl
@[simp] theorem State.wr_chanOps (s : State) (key : Nat) (bs : List Byte) : (s.wr key bs).chanOps = s.chanOps := rfl
@[simp] theorem State.wr_drains (s : State) (key : Nat) (bs : List Byte) : (s.wr key bs).drains = s.drains := rfl
@[simp] theorem State.wr_net (s : State) (key : Nat) (bs : List Byte) : (s.wr key bs).net = s.net := rfl
@[simp] theorem State.wr_unreachable (s : State) (key : Nat) (bs : List Byte) : (s.wr key bs).unreachable = s.unreachable := rfl
@[simp] theorem State.wr_portsDown (s : State) (key : Nat) (bs : List Byte) : (s.wr key bs).portsDown = s.portsDown := rfl
@[simp] theorem State.wr_contribs (s : State) (key : Nat) (bs : List Byte) : (s.wr key bs).contribs = s.contribs := rfl
@[simp] theorem State.wr_rred (s : State) (key : Nat) (bs : List Byte) : (s.wr key bs).rred = s.rred := rfl

/-! ## zero -/

@[simp] theorem State.zero_agenda (s : State) (key n : Nat) : (s.zero key n).agenda = s.agenda := rfl
@[simp] theorem State.zero_subject (s : State) (key n : Nat) : (s.zero key n).subject = s.subject := rfl
@[simp] theorem State.zero_issueQ (s : State) (key n : Nat) : (s.zero key n).issueQ = s.issueQ := rfl
@[simp] theorem State.zero_gang (s : State) (key n : Nat) : (s.zero key n).gang = s.gang := rfl
@[simp] theorem State.zero_turn (s : State) (key n : Nat) : (s.zero key n).turn = s.turn := rfl
@[simp] theorem State.zero_turnDie (s : State) (key n : Nat) : (s.zero key n).turnDie = s.turnDie := rfl
@[simp] theorem State.zero_nextOp (s : State) (key n : Nat) : (s.zero key n).nextOp = s.nextOp := rfl
@[simp] theorem State.zero_draw (s : State) (key n : Nat) : (s.zero key n).draw = s.draw := rfl
@[simp] theorem State.zero_boot (s : State) (key n : Nat) : (s.zero key n).boot = s.boot := rfl
@[simp] theorem State.zero_cycle (s : State) (key n : Nat) : (s.zero key n).cycle = s.cycle := rfl
@[simp] theorem State.zero_dieClock (s : State) (key n : Nat) : (s.zero key n).dieClock = s.dieClock := rfl
@[simp] theorem State.zero_cycleBegan (s : State) (key n : Nat) : (s.zero key n).cycleBegan = s.cycleBegan := rfl
@[simp] theorem State.zero_refTimer (s : State) (key n : Nat) : (s.zero key n).refTimer = s.refTimer := rfl
@[simp] theorem State.zero_queues (s : State) (key n : Nat) : (s.zero key n).queues = s.queues := rfl
@[simp] theorem State.zero_rmas (s : State) (key n : Nat) : (s.zero key n).rmas = s.rmas := rfl
@[simp] theorem State.zero_priv (s : State) (key n : Nat) : (s.zero key n).priv = s.priv := rfl
@[simp] theorem State.zero_faultQ (s : State) (key n : Nat) : (s.zero key n).faultQ = s.faultQ := rfl
@[simp] theorem State.zero_killQ (s : State) (key n : Nat) : (s.zero key n).killQ = s.killQ := rfl
@[simp] theorem State.zero_eventQ (s : State) (key n : Nat) : (s.zero key n).eventQ = s.eventQ := rfl
@[simp] theorem State.zero_violQ (s : State) (key n : Nat) : (s.zero key n).violQ = s.violQ := rfl
@[simp] theorem State.zero_violLost (s : State) (key n : Nat) : (s.zero key n).violLost = s.violLost := rfl
@[simp] theorem State.zero_contexts (s : State) (key n : Nat) : (s.zero key n).contexts = s.contexts := rfl
@[simp] theorem State.zero_dieMap (s : State) (key n : Nat) : (s.zero key n).dieMap = s.dieMap := rfl
@[simp] theorem State.zero_regions (s : State) (key n : Nat) : (s.zero key n).regions = s.regions := rfl
@[simp] theorem State.zero_rstackArea (s : State) (key n : Nat) : (s.zero key n).rstackArea = s.rstackArea := rfl
@[simp] theorem State.zero_trace (s : State) (key n : Nat) : (s.zero key n).trace = s.trace := rfl
@[simp] theorem State.zero_faultRecs (s : State) (key n : Nat) : (s.zero key n).faultRecs = s.faultRecs := rfl
@[simp] theorem State.zero_faultSeq (s : State) (key n : Nat) : (s.zero key n).faultSeq = s.faultSeq := rfl
@[simp] theorem State.zero_codes (s : State) (key n : Nat) : (s.zero key n).codes = s.codes := rfl
@[simp] theorem State.zero_graphs (s : State) (key n : Nat) : (s.zero key n).graphs = s.graphs := rfl
@[simp] theorem State.zero_insts (s : State) (key n : Nat) : (s.zero key n).insts = s.insts := rfl
@[simp] theorem State.zero_nextInst (s : State) (key n : Nat) : (s.zero key n).nextInst = s.nextInst := rfl
@[simp] theorem State.zero_grids (s : State) (key n : Nat) : (s.zero key n).grids = s.grids := rfl
@[simp] theorem State.zero_nextGrid (s : State) (key n : Nat) : (s.zero key n).nextGrid = s.nextGrid := rfl
@[simp] theorem State.zero_teams (s : State) (key n : Nat) : (s.zero key n).teams = s.teams := rfl
@[simp] theorem State.zero_heats (s : State) (key n : Nat) : (s.zero key n).heats = s.heats := rfl
@[simp] theorem State.zero_carve (s : State) (key n : Nat) : (s.zero key n).carve = s.carve := rfl
@[simp] theorem State.zero_threads (s : State) (key n : Nat) : (s.zero key n).threads = s.threads := rfl
@[simp] theorem State.zero_absent (s : State) (key n : Nat) : (s.zero key n).absent = s.absent := rfl
@[simp] theorem State.zero_l1 (s : State) (key n : Nat) : (s.zero key n).l1 = s.l1 := rfl
@[simp] theorem State.zero_rdc (s : State) (key n : Nat) : (s.zero key n).rdc = s.rdc := rfl
@[simp] theorem State.zero_wtb (s : State) (key n : Nat) : (s.zero key n).wtb = s.wtb := rfl
@[simp] theorem State.zero_fences (s : State) (key n : Nat) : (s.zero key n).fences = s.fences := rfl
@[simp] theorem State.zero_dirty (s : State) (key n : Nat) : (s.zero key n).dirty = s.dirty := rfl
@[simp] theorem State.zero_intervals (s : State) (key n : Nat) : (s.zero key n).intervals = s.intervals := rfl
@[simp] theorem State.zero_locks (s : State) (key n : Nat) : (s.zero key n).locks = s.locks := rfl
@[simp] theorem State.zero_tlb (s : State) (key n : Nat) : (s.zero key n).tlb = s.tlb := rfl
@[simp] theorem State.zero_tlb2 (s : State) (key n : Nat) : (s.zero key n).tlb2 = s.tlb2 := rfl
@[simp] theorem State.zero_walkCache (s : State) (key n : Nat) : (s.zero key n).walkCache = s.walkCache := rfl
@[simp] theorem State.zero_atc (s : State) (key n : Nat) : (s.zero key n).atc = s.atc := rfl
@[simp] theorem State.zero_hostMap (s : State) (key n : Nat) : (s.zero key n).hostMap = s.hostMap := rfl
@[simp] theorem State.zero_loads (s : State) (key n : Nat) : (s.zero key n).loads = s.loads := rfl
@[simp] theorem State.zero_atoms (s : State) (key n : Nat) : (s.zero key n).atoms = s.atoms := rfl
@[simp] theorem State.zero_hurdles (s : State) (key n : Nat) : (s.zero key n).hurdles = s.hurdles := rfl
@[simp] theorem State.zero_engines (s : State) (key n : Nat) : (s.zero key n).engines = s.engines := rfl
@[simp] theorem State.zero_reservations (s : State) (key n : Nat) : (s.zero key n).reservations = s.reservations := rfl
@[simp] theorem State.zero_tiles (s : State) (key n : Nat) : (s.zero key n).tiles = s.tiles := rfl
@[simp] theorem State.zero_mmas (s : State) (key n : Nat) : (s.zero key n).mmas = s.mmas := rfl
@[simp] theorem State.zero_ragged (s : State) (key n : Nat) : (s.zero key n).ragged = s.ragged := rfl
@[simp] theorem State.zero_walks (s : State) (key n : Nat) : (s.zero key n).walks = s.walks := rfl
@[simp] theorem State.zero_endpoints (s : State) (key n : Nat) : (s.zero key n).endpoints = s.endpoints := rfl
@[simp] theorem State.zero_tables (s : State) (key n : Nat) : (s.zero key n).tables = s.tables := rfl
@[simp] theorem State.zero_rowsIn (s : State) (key n : Nat) : (s.zero key n).rowsIn = s.rowsIn := rfl
@[simp] theorem State.zero_noticesIn (s : State) (key n : Nat) : (s.zero key n).noticesIn = s.noticesIn := rfl
@[simp] theorem State.zero_returnsIn (s : State) (key n : Nat) : (s.zero key n).returnsIn = s.returnsIn := rfl
@[simp] theorem State.zero_chans (s : State) (key n : Nat) : (s.zero key n).chans = s.chans := rfl
@[simp] theorem State.zero_srcEntries (s : State) (key n : Nat) : (s.zero key n).srcEntries = s.srcEntries := rfl
@[simp] theorem State.zero_dstEntries (s : State) (key n : Nat) : (s.zero key n).dstEntries = s.dstEntries := rfl
@[simp] theorem State.zero_chanOps (s : State) (key n : Nat) : (s.zero key n).chanOps = s.chanOps := rfl
@[simp] theorem State.zero_drains (s : State) (key n : Nat) : (s.zero key n).drains = s.drains := rfl
@[simp] theorem State.zero_net (s : State) (key n : Nat) : (s.zero key n).net = s.net := rfl
@[simp] theorem State.zero_unreachable (s : State) (key n : Nat) : (s.zero key n).unreachable = s.unreachable := rfl
@[simp] theorem State.zero_portsDown (s : State) (key n : Nat) : (s.zero key n).portsDown = s.portsDown := rfl
@[simp] theorem State.zero_contribs (s : State) (key n : Nat) : (s.zero key n).contribs = s.contribs := rfl
@[simp] theorem State.zero_rred (s : State) (key n : Nat) : (s.zero key n).rred = s.rred := rfl

/-! ## putEntry -/

@[simp] theorem State.putEntry_agenda (s : State) (e : SrcEntry) : (s.putEntry e).agenda = s.agenda := rfl
@[simp] theorem State.putEntry_subject (s : State) (e : SrcEntry) : (s.putEntry e).subject = s.subject := rfl
@[simp] theorem State.putEntry_issueQ (s : State) (e : SrcEntry) : (s.putEntry e).issueQ = s.issueQ := rfl
@[simp] theorem State.putEntry_gang (s : State) (e : SrcEntry) : (s.putEntry e).gang = s.gang := rfl
@[simp] theorem State.putEntry_turn (s : State) (e : SrcEntry) : (s.putEntry e).turn = s.turn := rfl
@[simp] theorem State.putEntry_turnDie (s : State) (e : SrcEntry) : (s.putEntry e).turnDie = s.turnDie := rfl
@[simp] theorem State.putEntry_nextOp (s : State) (e : SrcEntry) : (s.putEntry e).nextOp = s.nextOp := rfl
@[simp] theorem State.putEntry_draw (s : State) (e : SrcEntry) : (s.putEntry e).draw = s.draw := rfl
@[simp] theorem State.putEntry_boot (s : State) (e : SrcEntry) : (s.putEntry e).boot = s.boot := rfl
@[simp] theorem State.putEntry_cycle (s : State) (e : SrcEntry) : (s.putEntry e).cycle = s.cycle := rfl
@[simp] theorem State.putEntry_dieClock (s : State) (e : SrcEntry) : (s.putEntry e).dieClock = s.dieClock := rfl
@[simp] theorem State.putEntry_cycleBegan (s : State) (e : SrcEntry) : (s.putEntry e).cycleBegan = s.cycleBegan := rfl
@[simp] theorem State.putEntry_refTimer (s : State) (e : SrcEntry) : (s.putEntry e).refTimer = s.refTimer := rfl
@[simp] theorem State.putEntry_queues (s : State) (e : SrcEntry) : (s.putEntry e).queues = s.queues := rfl
@[simp] theorem State.putEntry_rmas (s : State) (e : SrcEntry) : (s.putEntry e).rmas = s.rmas := rfl
@[simp] theorem State.putEntry_priv (s : State) (e : SrcEntry) : (s.putEntry e).priv = s.priv := rfl
@[simp] theorem State.putEntry_faultQ (s : State) (e : SrcEntry) : (s.putEntry e).faultQ = s.faultQ := rfl
@[simp] theorem State.putEntry_killQ (s : State) (e : SrcEntry) : (s.putEntry e).killQ = s.killQ := rfl
@[simp] theorem State.putEntry_eventQ (s : State) (e : SrcEntry) : (s.putEntry e).eventQ = s.eventQ := rfl
@[simp] theorem State.putEntry_violQ (s : State) (e : SrcEntry) : (s.putEntry e).violQ = s.violQ := rfl
@[simp] theorem State.putEntry_violLost (s : State) (e : SrcEntry) : (s.putEntry e).violLost = s.violLost := rfl
@[simp] theorem State.putEntry_contexts (s : State) (e : SrcEntry) : (s.putEntry e).contexts = s.contexts := rfl
@[simp] theorem State.putEntry_dieMap (s : State) (e : SrcEntry) : (s.putEntry e).dieMap = s.dieMap := rfl
@[simp] theorem State.putEntry_regions (s : State) (e : SrcEntry) : (s.putEntry e).regions = s.regions := rfl
@[simp] theorem State.putEntry_rstackArea (s : State) (e : SrcEntry) : (s.putEntry e).rstackArea = s.rstackArea := rfl
@[simp] theorem State.putEntry_trace (s : State) (e : SrcEntry) : (s.putEntry e).trace = s.trace := rfl
@[simp] theorem State.putEntry_faultRecs (s : State) (e : SrcEntry) : (s.putEntry e).faultRecs = s.faultRecs := rfl
@[simp] theorem State.putEntry_faultSeq (s : State) (e : SrcEntry) : (s.putEntry e).faultSeq = s.faultSeq := rfl
@[simp] theorem State.putEntry_codes (s : State) (e : SrcEntry) : (s.putEntry e).codes = s.codes := rfl
@[simp] theorem State.putEntry_graphs (s : State) (e : SrcEntry) : (s.putEntry e).graphs = s.graphs := rfl
@[simp] theorem State.putEntry_insts (s : State) (e : SrcEntry) : (s.putEntry e).insts = s.insts := rfl
@[simp] theorem State.putEntry_nextInst (s : State) (e : SrcEntry) : (s.putEntry e).nextInst = s.nextInst := rfl
@[simp] theorem State.putEntry_grids (s : State) (e : SrcEntry) : (s.putEntry e).grids = s.grids := rfl
@[simp] theorem State.putEntry_nextGrid (s : State) (e : SrcEntry) : (s.putEntry e).nextGrid = s.nextGrid := rfl
@[simp] theorem State.putEntry_teams (s : State) (e : SrcEntry) : (s.putEntry e).teams = s.teams := rfl
@[simp] theorem State.putEntry_heats (s : State) (e : SrcEntry) : (s.putEntry e).heats = s.heats := rfl
@[simp] theorem State.putEntry_carve (s : State) (e : SrcEntry) : (s.putEntry e).carve = s.carve := rfl
@[simp] theorem State.putEntry_threads (s : State) (e : SrcEntry) : (s.putEntry e).threads = s.threads := rfl
@[simp] theorem State.putEntry_mem (s : State) (e : SrcEntry) : (s.putEntry e).mem = s.mem := rfl
@[simp] theorem State.putEntry_absent (s : State) (e : SrcEntry) : (s.putEntry e).absent = s.absent := rfl
@[simp] theorem State.putEntry_l1 (s : State) (e : SrcEntry) : (s.putEntry e).l1 = s.l1 := rfl
@[simp] theorem State.putEntry_rdc (s : State) (e : SrcEntry) : (s.putEntry e).rdc = s.rdc := rfl
@[simp] theorem State.putEntry_wtb (s : State) (e : SrcEntry) : (s.putEntry e).wtb = s.wtb := rfl
@[simp] theorem State.putEntry_fences (s : State) (e : SrcEntry) : (s.putEntry e).fences = s.fences := rfl
@[simp] theorem State.putEntry_dirty (s : State) (e : SrcEntry) : (s.putEntry e).dirty = s.dirty := rfl
@[simp] theorem State.putEntry_intervals (s : State) (e : SrcEntry) : (s.putEntry e).intervals = s.intervals := rfl
@[simp] theorem State.putEntry_locks (s : State) (e : SrcEntry) : (s.putEntry e).locks = s.locks := rfl
@[simp] theorem State.putEntry_tlb (s : State) (e : SrcEntry) : (s.putEntry e).tlb = s.tlb := rfl
@[simp] theorem State.putEntry_tlb2 (s : State) (e : SrcEntry) : (s.putEntry e).tlb2 = s.tlb2 := rfl
@[simp] theorem State.putEntry_walkCache (s : State) (e : SrcEntry) : (s.putEntry e).walkCache = s.walkCache := rfl
@[simp] theorem State.putEntry_atc (s : State) (e : SrcEntry) : (s.putEntry e).atc = s.atc := rfl
@[simp] theorem State.putEntry_hostMap (s : State) (e : SrcEntry) : (s.putEntry e).hostMap = s.hostMap := rfl
@[simp] theorem State.putEntry_loads (s : State) (e : SrcEntry) : (s.putEntry e).loads = s.loads := rfl
@[simp] theorem State.putEntry_atoms (s : State) (e : SrcEntry) : (s.putEntry e).atoms = s.atoms := rfl
@[simp] theorem State.putEntry_hurdles (s : State) (e : SrcEntry) : (s.putEntry e).hurdles = s.hurdles := rfl
@[simp] theorem State.putEntry_engines (s : State) (e : SrcEntry) : (s.putEntry e).engines = s.engines := rfl
@[simp] theorem State.putEntry_reservations (s : State) (e : SrcEntry) : (s.putEntry e).reservations = s.reservations := rfl
@[simp] theorem State.putEntry_tiles (s : State) (e : SrcEntry) : (s.putEntry e).tiles = s.tiles := rfl
@[simp] theorem State.putEntry_mmas (s : State) (e : SrcEntry) : (s.putEntry e).mmas = s.mmas := rfl
@[simp] theorem State.putEntry_ragged (s : State) (e : SrcEntry) : (s.putEntry e).ragged = s.ragged := rfl
@[simp] theorem State.putEntry_walks (s : State) (e : SrcEntry) : (s.putEntry e).walks = s.walks := rfl
@[simp] theorem State.putEntry_endpoints (s : State) (e : SrcEntry) : (s.putEntry e).endpoints = s.endpoints := rfl
@[simp] theorem State.putEntry_tables (s : State) (e : SrcEntry) : (s.putEntry e).tables = s.tables := rfl
@[simp] theorem State.putEntry_rowsIn (s : State) (e : SrcEntry) : (s.putEntry e).rowsIn = s.rowsIn := rfl
@[simp] theorem State.putEntry_noticesIn (s : State) (e : SrcEntry) : (s.putEntry e).noticesIn = s.noticesIn := rfl
@[simp] theorem State.putEntry_returnsIn (s : State) (e : SrcEntry) : (s.putEntry e).returnsIn = s.returnsIn := rfl
@[simp] theorem State.putEntry_chans (s : State) (e : SrcEntry) : (s.putEntry e).chans = s.chans := rfl
@[simp] theorem State.putEntry_dstEntries (s : State) (e : SrcEntry) : (s.putEntry e).dstEntries = s.dstEntries := rfl
@[simp] theorem State.putEntry_chanOps (s : State) (e : SrcEntry) : (s.putEntry e).chanOps = s.chanOps := rfl
@[simp] theorem State.putEntry_drains (s : State) (e : SrcEntry) : (s.putEntry e).drains = s.drains := rfl
@[simp] theorem State.putEntry_net (s : State) (e : SrcEntry) : (s.putEntry e).net = s.net := rfl
@[simp] theorem State.putEntry_unreachable (s : State) (e : SrcEntry) : (s.putEntry e).unreachable = s.unreachable := rfl
@[simp] theorem State.putEntry_portsDown (s : State) (e : SrcEntry) : (s.putEntry e).portsDown = s.portsDown := rfl
@[simp] theorem State.putEntry_contribs (s : State) (e : SrcEntry) : (s.putEntry e).contribs = s.contribs := rfl
@[simp] theorem State.putEntry_rred (s : State) (e : SrcEntry) : (s.putEntry e).rred = s.rred := rfl

/-! ## putDst -/

@[simp] theorem State.putDst_agenda (s : State) (x : DstEntry) : (s.putDst x).agenda = s.agenda := rfl
@[simp] theorem State.putDst_subject (s : State) (x : DstEntry) : (s.putDst x).subject = s.subject := rfl
@[simp] theorem State.putDst_issueQ (s : State) (x : DstEntry) : (s.putDst x).issueQ = s.issueQ := rfl
@[simp] theorem State.putDst_gang (s : State) (x : DstEntry) : (s.putDst x).gang = s.gang := rfl
@[simp] theorem State.putDst_turn (s : State) (x : DstEntry) : (s.putDst x).turn = s.turn := rfl
@[simp] theorem State.putDst_turnDie (s : State) (x : DstEntry) : (s.putDst x).turnDie = s.turnDie := rfl
@[simp] theorem State.putDst_nextOp (s : State) (x : DstEntry) : (s.putDst x).nextOp = s.nextOp := rfl
@[simp] theorem State.putDst_draw (s : State) (x : DstEntry) : (s.putDst x).draw = s.draw := rfl
@[simp] theorem State.putDst_boot (s : State) (x : DstEntry) : (s.putDst x).boot = s.boot := rfl
@[simp] theorem State.putDst_cycle (s : State) (x : DstEntry) : (s.putDst x).cycle = s.cycle := rfl
@[simp] theorem State.putDst_dieClock (s : State) (x : DstEntry) : (s.putDst x).dieClock = s.dieClock := rfl
@[simp] theorem State.putDst_cycleBegan (s : State) (x : DstEntry) : (s.putDst x).cycleBegan = s.cycleBegan := rfl
@[simp] theorem State.putDst_refTimer (s : State) (x : DstEntry) : (s.putDst x).refTimer = s.refTimer := rfl
@[simp] theorem State.putDst_queues (s : State) (x : DstEntry) : (s.putDst x).queues = s.queues := rfl
@[simp] theorem State.putDst_rmas (s : State) (x : DstEntry) : (s.putDst x).rmas = s.rmas := rfl
@[simp] theorem State.putDst_priv (s : State) (x : DstEntry) : (s.putDst x).priv = s.priv := rfl
@[simp] theorem State.putDst_faultQ (s : State) (x : DstEntry) : (s.putDst x).faultQ = s.faultQ := rfl
@[simp] theorem State.putDst_killQ (s : State) (x : DstEntry) : (s.putDst x).killQ = s.killQ := rfl
@[simp] theorem State.putDst_eventQ (s : State) (x : DstEntry) : (s.putDst x).eventQ = s.eventQ := rfl
@[simp] theorem State.putDst_violQ (s : State) (x : DstEntry) : (s.putDst x).violQ = s.violQ := rfl
@[simp] theorem State.putDst_violLost (s : State) (x : DstEntry) : (s.putDst x).violLost = s.violLost := rfl
@[simp] theorem State.putDst_contexts (s : State) (x : DstEntry) : (s.putDst x).contexts = s.contexts := rfl
@[simp] theorem State.putDst_dieMap (s : State) (x : DstEntry) : (s.putDst x).dieMap = s.dieMap := rfl
@[simp] theorem State.putDst_regions (s : State) (x : DstEntry) : (s.putDst x).regions = s.regions := rfl
@[simp] theorem State.putDst_rstackArea (s : State) (x : DstEntry) : (s.putDst x).rstackArea = s.rstackArea := rfl
@[simp] theorem State.putDst_trace (s : State) (x : DstEntry) : (s.putDst x).trace = s.trace := rfl
@[simp] theorem State.putDst_faultRecs (s : State) (x : DstEntry) : (s.putDst x).faultRecs = s.faultRecs := rfl
@[simp] theorem State.putDst_faultSeq (s : State) (x : DstEntry) : (s.putDst x).faultSeq = s.faultSeq := rfl
@[simp] theorem State.putDst_codes (s : State) (x : DstEntry) : (s.putDst x).codes = s.codes := rfl
@[simp] theorem State.putDst_graphs (s : State) (x : DstEntry) : (s.putDst x).graphs = s.graphs := rfl
@[simp] theorem State.putDst_insts (s : State) (x : DstEntry) : (s.putDst x).insts = s.insts := rfl
@[simp] theorem State.putDst_nextInst (s : State) (x : DstEntry) : (s.putDst x).nextInst = s.nextInst := rfl
@[simp] theorem State.putDst_grids (s : State) (x : DstEntry) : (s.putDst x).grids = s.grids := rfl
@[simp] theorem State.putDst_nextGrid (s : State) (x : DstEntry) : (s.putDst x).nextGrid = s.nextGrid := rfl
@[simp] theorem State.putDst_teams (s : State) (x : DstEntry) : (s.putDst x).teams = s.teams := rfl
@[simp] theorem State.putDst_heats (s : State) (x : DstEntry) : (s.putDst x).heats = s.heats := rfl
@[simp] theorem State.putDst_carve (s : State) (x : DstEntry) : (s.putDst x).carve = s.carve := rfl
@[simp] theorem State.putDst_threads (s : State) (x : DstEntry) : (s.putDst x).threads = s.threads := rfl
@[simp] theorem State.putDst_mem (s : State) (x : DstEntry) : (s.putDst x).mem = s.mem := rfl
@[simp] theorem State.putDst_absent (s : State) (x : DstEntry) : (s.putDst x).absent = s.absent := rfl
@[simp] theorem State.putDst_l1 (s : State) (x : DstEntry) : (s.putDst x).l1 = s.l1 := rfl
@[simp] theorem State.putDst_rdc (s : State) (x : DstEntry) : (s.putDst x).rdc = s.rdc := rfl
@[simp] theorem State.putDst_wtb (s : State) (x : DstEntry) : (s.putDst x).wtb = s.wtb := rfl
@[simp] theorem State.putDst_fences (s : State) (x : DstEntry) : (s.putDst x).fences = s.fences := rfl
@[simp] theorem State.putDst_dirty (s : State) (x : DstEntry) : (s.putDst x).dirty = s.dirty := rfl
@[simp] theorem State.putDst_intervals (s : State) (x : DstEntry) : (s.putDst x).intervals = s.intervals := rfl
@[simp] theorem State.putDst_locks (s : State) (x : DstEntry) : (s.putDst x).locks = s.locks := rfl
@[simp] theorem State.putDst_tlb (s : State) (x : DstEntry) : (s.putDst x).tlb = s.tlb := rfl
@[simp] theorem State.putDst_tlb2 (s : State) (x : DstEntry) : (s.putDst x).tlb2 = s.tlb2 := rfl
@[simp] theorem State.putDst_walkCache (s : State) (x : DstEntry) : (s.putDst x).walkCache = s.walkCache := rfl
@[simp] theorem State.putDst_atc (s : State) (x : DstEntry) : (s.putDst x).atc = s.atc := rfl
@[simp] theorem State.putDst_hostMap (s : State) (x : DstEntry) : (s.putDst x).hostMap = s.hostMap := rfl
@[simp] theorem State.putDst_loads (s : State) (x : DstEntry) : (s.putDst x).loads = s.loads := rfl
@[simp] theorem State.putDst_atoms (s : State) (x : DstEntry) : (s.putDst x).atoms = s.atoms := rfl
@[simp] theorem State.putDst_hurdles (s : State) (x : DstEntry) : (s.putDst x).hurdles = s.hurdles := rfl
@[simp] theorem State.putDst_engines (s : State) (x : DstEntry) : (s.putDst x).engines = s.engines := rfl
@[simp] theorem State.putDst_reservations (s : State) (x : DstEntry) : (s.putDst x).reservations = s.reservations := rfl
@[simp] theorem State.putDst_tiles (s : State) (x : DstEntry) : (s.putDst x).tiles = s.tiles := rfl
@[simp] theorem State.putDst_mmas (s : State) (x : DstEntry) : (s.putDst x).mmas = s.mmas := rfl
@[simp] theorem State.putDst_ragged (s : State) (x : DstEntry) : (s.putDst x).ragged = s.ragged := rfl
@[simp] theorem State.putDst_walks (s : State) (x : DstEntry) : (s.putDst x).walks = s.walks := rfl
@[simp] theorem State.putDst_endpoints (s : State) (x : DstEntry) : (s.putDst x).endpoints = s.endpoints := rfl
@[simp] theorem State.putDst_tables (s : State) (x : DstEntry) : (s.putDst x).tables = s.tables := rfl
@[simp] theorem State.putDst_rowsIn (s : State) (x : DstEntry) : (s.putDst x).rowsIn = s.rowsIn := rfl
@[simp] theorem State.putDst_noticesIn (s : State) (x : DstEntry) : (s.putDst x).noticesIn = s.noticesIn := rfl
@[simp] theorem State.putDst_returnsIn (s : State) (x : DstEntry) : (s.putDst x).returnsIn = s.returnsIn := rfl
@[simp] theorem State.putDst_chans (s : State) (x : DstEntry) : (s.putDst x).chans = s.chans := rfl
@[simp] theorem State.putDst_srcEntries (s : State) (x : DstEntry) : (s.putDst x).srcEntries = s.srcEntries := rfl
@[simp] theorem State.putDst_chanOps (s : State) (x : DstEntry) : (s.putDst x).chanOps = s.chanOps := rfl
@[simp] theorem State.putDst_drains (s : State) (x : DstEntry) : (s.putDst x).drains = s.drains := rfl
@[simp] theorem State.putDst_net (s : State) (x : DstEntry) : (s.putDst x).net = s.net := rfl
@[simp] theorem State.putDst_unreachable (s : State) (x : DstEntry) : (s.putDst x).unreachable = s.unreachable := rfl
@[simp] theorem State.putDst_portsDown (s : State) (x : DstEntry) : (s.putDst x).portsDown = s.portsDown := rfl
@[simp] theorem State.putDst_contribs (s : State) (x : DstEntry) : (s.putDst x).contribs = s.contribs := rfl
@[simp] theorem State.putDst_rred (s : State) (x : DstEntry) : (s.putDst x).rred = s.rred := rfl

/-! ## putChan -/

@[simp] theorem State.putChan_agenda (s : State) (c : Chan) : (s.putChan c).agenda = s.agenda := rfl
@[simp] theorem State.putChan_subject (s : State) (c : Chan) : (s.putChan c).subject = s.subject := rfl
@[simp] theorem State.putChan_issueQ (s : State) (c : Chan) : (s.putChan c).issueQ = s.issueQ := rfl
@[simp] theorem State.putChan_gang (s : State) (c : Chan) : (s.putChan c).gang = s.gang := rfl
@[simp] theorem State.putChan_turn (s : State) (c : Chan) : (s.putChan c).turn = s.turn := rfl
@[simp] theorem State.putChan_turnDie (s : State) (c : Chan) : (s.putChan c).turnDie = s.turnDie := rfl
@[simp] theorem State.putChan_nextOp (s : State) (c : Chan) : (s.putChan c).nextOp = s.nextOp := rfl
@[simp] theorem State.putChan_draw (s : State) (c : Chan) : (s.putChan c).draw = s.draw := rfl
@[simp] theorem State.putChan_boot (s : State) (c : Chan) : (s.putChan c).boot = s.boot := rfl
@[simp] theorem State.putChan_cycle (s : State) (c : Chan) : (s.putChan c).cycle = s.cycle := rfl
@[simp] theorem State.putChan_dieClock (s : State) (c : Chan) : (s.putChan c).dieClock = s.dieClock := rfl
@[simp] theorem State.putChan_cycleBegan (s : State) (c : Chan) : (s.putChan c).cycleBegan = s.cycleBegan := rfl
@[simp] theorem State.putChan_refTimer (s : State) (c : Chan) : (s.putChan c).refTimer = s.refTimer := rfl
@[simp] theorem State.putChan_queues (s : State) (c : Chan) : (s.putChan c).queues = s.queues := rfl
@[simp] theorem State.putChan_rmas (s : State) (c : Chan) : (s.putChan c).rmas = s.rmas := rfl
@[simp] theorem State.putChan_priv (s : State) (c : Chan) : (s.putChan c).priv = s.priv := rfl
@[simp] theorem State.putChan_faultQ (s : State) (c : Chan) : (s.putChan c).faultQ = s.faultQ := rfl
@[simp] theorem State.putChan_killQ (s : State) (c : Chan) : (s.putChan c).killQ = s.killQ := rfl
@[simp] theorem State.putChan_eventQ (s : State) (c : Chan) : (s.putChan c).eventQ = s.eventQ := rfl
@[simp] theorem State.putChan_violQ (s : State) (c : Chan) : (s.putChan c).violQ = s.violQ := rfl
@[simp] theorem State.putChan_violLost (s : State) (c : Chan) : (s.putChan c).violLost = s.violLost := rfl
@[simp] theorem State.putChan_contexts (s : State) (c : Chan) : (s.putChan c).contexts = s.contexts := rfl
@[simp] theorem State.putChan_dieMap (s : State) (c : Chan) : (s.putChan c).dieMap = s.dieMap := rfl
@[simp] theorem State.putChan_regions (s : State) (c : Chan) : (s.putChan c).regions = s.regions := rfl
@[simp] theorem State.putChan_rstackArea (s : State) (c : Chan) : (s.putChan c).rstackArea = s.rstackArea := rfl
@[simp] theorem State.putChan_trace (s : State) (c : Chan) : (s.putChan c).trace = s.trace := rfl
@[simp] theorem State.putChan_faultRecs (s : State) (c : Chan) : (s.putChan c).faultRecs = s.faultRecs := rfl
@[simp] theorem State.putChan_faultSeq (s : State) (c : Chan) : (s.putChan c).faultSeq = s.faultSeq := rfl
@[simp] theorem State.putChan_codes (s : State) (c : Chan) : (s.putChan c).codes = s.codes := rfl
@[simp] theorem State.putChan_graphs (s : State) (c : Chan) : (s.putChan c).graphs = s.graphs := rfl
@[simp] theorem State.putChan_insts (s : State) (c : Chan) : (s.putChan c).insts = s.insts := rfl
@[simp] theorem State.putChan_nextInst (s : State) (c : Chan) : (s.putChan c).nextInst = s.nextInst := rfl
@[simp] theorem State.putChan_grids (s : State) (c : Chan) : (s.putChan c).grids = s.grids := rfl
@[simp] theorem State.putChan_nextGrid (s : State) (c : Chan) : (s.putChan c).nextGrid = s.nextGrid := rfl
@[simp] theorem State.putChan_teams (s : State) (c : Chan) : (s.putChan c).teams = s.teams := rfl
@[simp] theorem State.putChan_heats (s : State) (c : Chan) : (s.putChan c).heats = s.heats := rfl
@[simp] theorem State.putChan_carve (s : State) (c : Chan) : (s.putChan c).carve = s.carve := rfl
@[simp] theorem State.putChan_threads (s : State) (c : Chan) : (s.putChan c).threads = s.threads := rfl
@[simp] theorem State.putChan_mem (s : State) (c : Chan) : (s.putChan c).mem = s.mem := rfl
@[simp] theorem State.putChan_absent (s : State) (c : Chan) : (s.putChan c).absent = s.absent := rfl
@[simp] theorem State.putChan_l1 (s : State) (c : Chan) : (s.putChan c).l1 = s.l1 := rfl
@[simp] theorem State.putChan_rdc (s : State) (c : Chan) : (s.putChan c).rdc = s.rdc := rfl
@[simp] theorem State.putChan_wtb (s : State) (c : Chan) : (s.putChan c).wtb = s.wtb := rfl
@[simp] theorem State.putChan_fences (s : State) (c : Chan) : (s.putChan c).fences = s.fences := rfl
@[simp] theorem State.putChan_dirty (s : State) (c : Chan) : (s.putChan c).dirty = s.dirty := rfl
@[simp] theorem State.putChan_intervals (s : State) (c : Chan) : (s.putChan c).intervals = s.intervals := rfl
@[simp] theorem State.putChan_locks (s : State) (c : Chan) : (s.putChan c).locks = s.locks := rfl
@[simp] theorem State.putChan_tlb (s : State) (c : Chan) : (s.putChan c).tlb = s.tlb := rfl
@[simp] theorem State.putChan_tlb2 (s : State) (c : Chan) : (s.putChan c).tlb2 = s.tlb2 := rfl
@[simp] theorem State.putChan_walkCache (s : State) (c : Chan) : (s.putChan c).walkCache = s.walkCache := rfl
@[simp] theorem State.putChan_atc (s : State) (c : Chan) : (s.putChan c).atc = s.atc := rfl
@[simp] theorem State.putChan_hostMap (s : State) (c : Chan) : (s.putChan c).hostMap = s.hostMap := rfl
@[simp] theorem State.putChan_loads (s : State) (c : Chan) : (s.putChan c).loads = s.loads := rfl
@[simp] theorem State.putChan_atoms (s : State) (c : Chan) : (s.putChan c).atoms = s.atoms := rfl
@[simp] theorem State.putChan_hurdles (s : State) (c : Chan) : (s.putChan c).hurdles = s.hurdles := rfl
@[simp] theorem State.putChan_engines (s : State) (c : Chan) : (s.putChan c).engines = s.engines := rfl
@[simp] theorem State.putChan_reservations (s : State) (c : Chan) : (s.putChan c).reservations = s.reservations := rfl
@[simp] theorem State.putChan_tiles (s : State) (c : Chan) : (s.putChan c).tiles = s.tiles := rfl
@[simp] theorem State.putChan_mmas (s : State) (c : Chan) : (s.putChan c).mmas = s.mmas := rfl
@[simp] theorem State.putChan_ragged (s : State) (c : Chan) : (s.putChan c).ragged = s.ragged := rfl
@[simp] theorem State.putChan_walks (s : State) (c : Chan) : (s.putChan c).walks = s.walks := rfl
@[simp] theorem State.putChan_endpoints (s : State) (c : Chan) : (s.putChan c).endpoints = s.endpoints := rfl
@[simp] theorem State.putChan_tables (s : State) (c : Chan) : (s.putChan c).tables = s.tables := rfl
@[simp] theorem State.putChan_rowsIn (s : State) (c : Chan) : (s.putChan c).rowsIn = s.rowsIn := rfl
@[simp] theorem State.putChan_noticesIn (s : State) (c : Chan) : (s.putChan c).noticesIn = s.noticesIn := rfl
@[simp] theorem State.putChan_returnsIn (s : State) (c : Chan) : (s.putChan c).returnsIn = s.returnsIn := rfl
@[simp] theorem State.putChan_srcEntries (s : State) (c : Chan) : (s.putChan c).srcEntries = s.srcEntries := rfl
@[simp] theorem State.putChan_dstEntries (s : State) (c : Chan) : (s.putChan c).dstEntries = s.dstEntries := rfl
@[simp] theorem State.putChan_chanOps (s : State) (c : Chan) : (s.putChan c).chanOps = s.chanOps := rfl
@[simp] theorem State.putChan_drains (s : State) (c : Chan) : (s.putChan c).drains = s.drains := rfl
@[simp] theorem State.putChan_net (s : State) (c : Chan) : (s.putChan c).net = s.net := rfl
@[simp] theorem State.putChan_unreachable (s : State) (c : Chan) : (s.putChan c).unreachable = s.unreachable := rfl
@[simp] theorem State.putChan_portsDown (s : State) (c : Chan) : (s.putChan c).portsDown = s.portsDown := rfl
@[simp] theorem State.putChan_contribs (s : State) (c : Chan) : (s.putChan c).contribs = s.contribs := rfl
@[simp] theorem State.putChan_rred (s : State) (c : Chan) : (s.putChan c).rred = s.rred := rfl

/-! ## modOp -/

@[simp] theorem State.modOp_agenda (s : State) (k : ChanKey) (op : Nat) (f : ChanOp → ChanOp) : (s.modOp k op f).agenda = s.agenda := rfl
@[simp] theorem State.modOp_subject (s : State) (k : ChanKey) (op : Nat) (f : ChanOp → ChanOp) : (s.modOp k op f).subject = s.subject := rfl
@[simp] theorem State.modOp_issueQ (s : State) (k : ChanKey) (op : Nat) (f : ChanOp → ChanOp) : (s.modOp k op f).issueQ = s.issueQ := rfl
@[simp] theorem State.modOp_gang (s : State) (k : ChanKey) (op : Nat) (f : ChanOp → ChanOp) : (s.modOp k op f).gang = s.gang := rfl
@[simp] theorem State.modOp_turn (s : State) (k : ChanKey) (op : Nat) (f : ChanOp → ChanOp) : (s.modOp k op f).turn = s.turn := rfl
@[simp] theorem State.modOp_turnDie (s : State) (k : ChanKey) (op : Nat) (f : ChanOp → ChanOp) : (s.modOp k op f).turnDie = s.turnDie := rfl
@[simp] theorem State.modOp_nextOp (s : State) (k : ChanKey) (op : Nat) (f : ChanOp → ChanOp) : (s.modOp k op f).nextOp = s.nextOp := rfl
@[simp] theorem State.modOp_draw (s : State) (k : ChanKey) (op : Nat) (f : ChanOp → ChanOp) : (s.modOp k op f).draw = s.draw := rfl
@[simp] theorem State.modOp_boot (s : State) (k : ChanKey) (op : Nat) (f : ChanOp → ChanOp) : (s.modOp k op f).boot = s.boot := rfl
@[simp] theorem State.modOp_cycle (s : State) (k : ChanKey) (op : Nat) (f : ChanOp → ChanOp) : (s.modOp k op f).cycle = s.cycle := rfl
@[simp] theorem State.modOp_dieClock (s : State) (k : ChanKey) (op : Nat) (f : ChanOp → ChanOp) : (s.modOp k op f).dieClock = s.dieClock := rfl
@[simp] theorem State.modOp_cycleBegan (s : State) (k : ChanKey) (op : Nat) (f : ChanOp → ChanOp) : (s.modOp k op f).cycleBegan = s.cycleBegan := rfl
@[simp] theorem State.modOp_refTimer (s : State) (k : ChanKey) (op : Nat) (f : ChanOp → ChanOp) : (s.modOp k op f).refTimer = s.refTimer := rfl
@[simp] theorem State.modOp_queues (s : State) (k : ChanKey) (op : Nat) (f : ChanOp → ChanOp) : (s.modOp k op f).queues = s.queues := rfl
@[simp] theorem State.modOp_rmas (s : State) (k : ChanKey) (op : Nat) (f : ChanOp → ChanOp) : (s.modOp k op f).rmas = s.rmas := rfl
@[simp] theorem State.modOp_priv (s : State) (k : ChanKey) (op : Nat) (f : ChanOp → ChanOp) : (s.modOp k op f).priv = s.priv := rfl
@[simp] theorem State.modOp_faultQ (s : State) (k : ChanKey) (op : Nat) (f : ChanOp → ChanOp) : (s.modOp k op f).faultQ = s.faultQ := rfl
@[simp] theorem State.modOp_killQ (s : State) (k : ChanKey) (op : Nat) (f : ChanOp → ChanOp) : (s.modOp k op f).killQ = s.killQ := rfl
@[simp] theorem State.modOp_eventQ (s : State) (k : ChanKey) (op : Nat) (f : ChanOp → ChanOp) : (s.modOp k op f).eventQ = s.eventQ := rfl
@[simp] theorem State.modOp_violQ (s : State) (k : ChanKey) (op : Nat) (f : ChanOp → ChanOp) : (s.modOp k op f).violQ = s.violQ := rfl
@[simp] theorem State.modOp_violLost (s : State) (k : ChanKey) (op : Nat) (f : ChanOp → ChanOp) : (s.modOp k op f).violLost = s.violLost := rfl
@[simp] theorem State.modOp_contexts (s : State) (k : ChanKey) (op : Nat) (f : ChanOp → ChanOp) : (s.modOp k op f).contexts = s.contexts := rfl
@[simp] theorem State.modOp_dieMap (s : State) (k : ChanKey) (op : Nat) (f : ChanOp → ChanOp) : (s.modOp k op f).dieMap = s.dieMap := rfl
@[simp] theorem State.modOp_regions (s : State) (k : ChanKey) (op : Nat) (f : ChanOp → ChanOp) : (s.modOp k op f).regions = s.regions := rfl
@[simp] theorem State.modOp_rstackArea (s : State) (k : ChanKey) (op : Nat) (f : ChanOp → ChanOp) : (s.modOp k op f).rstackArea = s.rstackArea := rfl
@[simp] theorem State.modOp_trace (s : State) (k : ChanKey) (op : Nat) (f : ChanOp → ChanOp) : (s.modOp k op f).trace = s.trace := rfl
@[simp] theorem State.modOp_faultRecs (s : State) (k : ChanKey) (op : Nat) (f : ChanOp → ChanOp) : (s.modOp k op f).faultRecs = s.faultRecs := rfl
@[simp] theorem State.modOp_faultSeq (s : State) (k : ChanKey) (op : Nat) (f : ChanOp → ChanOp) : (s.modOp k op f).faultSeq = s.faultSeq := rfl
@[simp] theorem State.modOp_codes (s : State) (k : ChanKey) (op : Nat) (f : ChanOp → ChanOp) : (s.modOp k op f).codes = s.codes := rfl
@[simp] theorem State.modOp_graphs (s : State) (k : ChanKey) (op : Nat) (f : ChanOp → ChanOp) : (s.modOp k op f).graphs = s.graphs := rfl
@[simp] theorem State.modOp_insts (s : State) (k : ChanKey) (op : Nat) (f : ChanOp → ChanOp) : (s.modOp k op f).insts = s.insts := rfl
@[simp] theorem State.modOp_nextInst (s : State) (k : ChanKey) (op : Nat) (f : ChanOp → ChanOp) : (s.modOp k op f).nextInst = s.nextInst := rfl
@[simp] theorem State.modOp_grids (s : State) (k : ChanKey) (op : Nat) (f : ChanOp → ChanOp) : (s.modOp k op f).grids = s.grids := rfl
@[simp] theorem State.modOp_nextGrid (s : State) (k : ChanKey) (op : Nat) (f : ChanOp → ChanOp) : (s.modOp k op f).nextGrid = s.nextGrid := rfl
@[simp] theorem State.modOp_teams (s : State) (k : ChanKey) (op : Nat) (f : ChanOp → ChanOp) : (s.modOp k op f).teams = s.teams := rfl
@[simp] theorem State.modOp_heats (s : State) (k : ChanKey) (op : Nat) (f : ChanOp → ChanOp) : (s.modOp k op f).heats = s.heats := rfl
@[simp] theorem State.modOp_carve (s : State) (k : ChanKey) (op : Nat) (f : ChanOp → ChanOp) : (s.modOp k op f).carve = s.carve := rfl
@[simp] theorem State.modOp_threads (s : State) (k : ChanKey) (op : Nat) (f : ChanOp → ChanOp) : (s.modOp k op f).threads = s.threads := rfl
@[simp] theorem State.modOp_mem (s : State) (k : ChanKey) (op : Nat) (f : ChanOp → ChanOp) : (s.modOp k op f).mem = s.mem := rfl
@[simp] theorem State.modOp_absent (s : State) (k : ChanKey) (op : Nat) (f : ChanOp → ChanOp) : (s.modOp k op f).absent = s.absent := rfl
@[simp] theorem State.modOp_l1 (s : State) (k : ChanKey) (op : Nat) (f : ChanOp → ChanOp) : (s.modOp k op f).l1 = s.l1 := rfl
@[simp] theorem State.modOp_rdc (s : State) (k : ChanKey) (op : Nat) (f : ChanOp → ChanOp) : (s.modOp k op f).rdc = s.rdc := rfl
@[simp] theorem State.modOp_wtb (s : State) (k : ChanKey) (op : Nat) (f : ChanOp → ChanOp) : (s.modOp k op f).wtb = s.wtb := rfl
@[simp] theorem State.modOp_fences (s : State) (k : ChanKey) (op : Nat) (f : ChanOp → ChanOp) : (s.modOp k op f).fences = s.fences := rfl
@[simp] theorem State.modOp_dirty (s : State) (k : ChanKey) (op : Nat) (f : ChanOp → ChanOp) : (s.modOp k op f).dirty = s.dirty := rfl
@[simp] theorem State.modOp_intervals (s : State) (k : ChanKey) (op : Nat) (f : ChanOp → ChanOp) : (s.modOp k op f).intervals = s.intervals := rfl
@[simp] theorem State.modOp_locks (s : State) (k : ChanKey) (op : Nat) (f : ChanOp → ChanOp) : (s.modOp k op f).locks = s.locks := rfl
@[simp] theorem State.modOp_tlb (s : State) (k : ChanKey) (op : Nat) (f : ChanOp → ChanOp) : (s.modOp k op f).tlb = s.tlb := rfl
@[simp] theorem State.modOp_tlb2 (s : State) (k : ChanKey) (op : Nat) (f : ChanOp → ChanOp) : (s.modOp k op f).tlb2 = s.tlb2 := rfl
@[simp] theorem State.modOp_walkCache (s : State) (k : ChanKey) (op : Nat) (f : ChanOp → ChanOp) : (s.modOp k op f).walkCache = s.walkCache := rfl
@[simp] theorem State.modOp_atc (s : State) (k : ChanKey) (op : Nat) (f : ChanOp → ChanOp) : (s.modOp k op f).atc = s.atc := rfl
@[simp] theorem State.modOp_hostMap (s : State) (k : ChanKey) (op : Nat) (f : ChanOp → ChanOp) : (s.modOp k op f).hostMap = s.hostMap := rfl
@[simp] theorem State.modOp_loads (s : State) (k : ChanKey) (op : Nat) (f : ChanOp → ChanOp) : (s.modOp k op f).loads = s.loads := rfl
@[simp] theorem State.modOp_atoms (s : State) (k : ChanKey) (op : Nat) (f : ChanOp → ChanOp) : (s.modOp k op f).atoms = s.atoms := rfl
@[simp] theorem State.modOp_hurdles (s : State) (k : ChanKey) (op : Nat) (f : ChanOp → ChanOp) : (s.modOp k op f).hurdles = s.hurdles := rfl
@[simp] theorem State.modOp_engines (s : State) (k : ChanKey) (op : Nat) (f : ChanOp → ChanOp) : (s.modOp k op f).engines = s.engines := rfl
@[simp] theorem State.modOp_reservations (s : State) (k : ChanKey) (op : Nat) (f : ChanOp → ChanOp) : (s.modOp k op f).reservations = s.reservations := rfl
@[simp] theorem State.modOp_tiles (s : State) (k : ChanKey) (op : Nat) (f : ChanOp → ChanOp) : (s.modOp k op f).tiles = s.tiles := rfl
@[simp] theorem State.modOp_mmas (s : State) (k : ChanKey) (op : Nat) (f : ChanOp → ChanOp) : (s.modOp k op f).mmas = s.mmas := rfl
@[simp] theorem State.modOp_ragged (s : State) (k : ChanKey) (op : Nat) (f : ChanOp → ChanOp) : (s.modOp k op f).ragged = s.ragged := rfl
@[simp] theorem State.modOp_walks (s : State) (k : ChanKey) (op : Nat) (f : ChanOp → ChanOp) : (s.modOp k op f).walks = s.walks := rfl
@[simp] theorem State.modOp_endpoints (s : State) (k : ChanKey) (op : Nat) (f : ChanOp → ChanOp) : (s.modOp k op f).endpoints = s.endpoints := rfl
@[simp] theorem State.modOp_tables (s : State) (k : ChanKey) (op : Nat) (f : ChanOp → ChanOp) : (s.modOp k op f).tables = s.tables := rfl
@[simp] theorem State.modOp_rowsIn (s : State) (k : ChanKey) (op : Nat) (f : ChanOp → ChanOp) : (s.modOp k op f).rowsIn = s.rowsIn := rfl
@[simp] theorem State.modOp_noticesIn (s : State) (k : ChanKey) (op : Nat) (f : ChanOp → ChanOp) : (s.modOp k op f).noticesIn = s.noticesIn := rfl
@[simp] theorem State.modOp_returnsIn (s : State) (k : ChanKey) (op : Nat) (f : ChanOp → ChanOp) : (s.modOp k op f).returnsIn = s.returnsIn := rfl
@[simp] theorem State.modOp_chans (s : State) (k : ChanKey) (op : Nat) (f : ChanOp → ChanOp) : (s.modOp k op f).chans = s.chans := rfl
@[simp] theorem State.modOp_srcEntries (s : State) (k : ChanKey) (op : Nat) (f : ChanOp → ChanOp) : (s.modOp k op f).srcEntries = s.srcEntries := rfl
@[simp] theorem State.modOp_dstEntries (s : State) (k : ChanKey) (op : Nat) (f : ChanOp → ChanOp) : (s.modOp k op f).dstEntries = s.dstEntries := rfl
@[simp] theorem State.modOp_drains (s : State) (k : ChanKey) (op : Nat) (f : ChanOp → ChanOp) : (s.modOp k op f).drains = s.drains := rfl
@[simp] theorem State.modOp_net (s : State) (k : ChanKey) (op : Nat) (f : ChanOp → ChanOp) : (s.modOp k op f).net = s.net := rfl
@[simp] theorem State.modOp_unreachable (s : State) (k : ChanKey) (op : Nat) (f : ChanOp → ChanOp) : (s.modOp k op f).unreachable = s.unreachable := rfl
@[simp] theorem State.modOp_portsDown (s : State) (k : ChanKey) (op : Nat) (f : ChanOp → ChanOp) : (s.modOp k op f).portsDown = s.portsDown := rfl
@[simp] theorem State.modOp_contribs (s : State) (k : ChanKey) (op : Nat) (f : ChanOp → ChanOp) : (s.modOp k op f).contribs = s.contribs := rfl
@[simp] theorem State.modOp_rred (s : State) (k : ChanKey) (op : Nat) (f : ChanOp → ChanOp) : (s.modOp k op f).rred = s.rred := rfl

/-! ## putEngine -/

@[simp] theorem State.putEngine_agenda (s : State) (e : EngineOp) : (s.putEngine e).agenda = s.agenda := rfl
@[simp] theorem State.putEngine_subject (s : State) (e : EngineOp) : (s.putEngine e).subject = s.subject := rfl
@[simp] theorem State.putEngine_issueQ (s : State) (e : EngineOp) : (s.putEngine e).issueQ = s.issueQ := rfl
@[simp] theorem State.putEngine_gang (s : State) (e : EngineOp) : (s.putEngine e).gang = s.gang := rfl
@[simp] theorem State.putEngine_turn (s : State) (e : EngineOp) : (s.putEngine e).turn = s.turn := rfl
@[simp] theorem State.putEngine_turnDie (s : State) (e : EngineOp) : (s.putEngine e).turnDie = s.turnDie := rfl
@[simp] theorem State.putEngine_nextOp (s : State) (e : EngineOp) : (s.putEngine e).nextOp = s.nextOp := rfl
@[simp] theorem State.putEngine_draw (s : State) (e : EngineOp) : (s.putEngine e).draw = s.draw := rfl
@[simp] theorem State.putEngine_boot (s : State) (e : EngineOp) : (s.putEngine e).boot = s.boot := rfl
@[simp] theorem State.putEngine_cycle (s : State) (e : EngineOp) : (s.putEngine e).cycle = s.cycle := rfl
@[simp] theorem State.putEngine_dieClock (s : State) (e : EngineOp) : (s.putEngine e).dieClock = s.dieClock := rfl
@[simp] theorem State.putEngine_cycleBegan (s : State) (e : EngineOp) : (s.putEngine e).cycleBegan = s.cycleBegan := rfl
@[simp] theorem State.putEngine_refTimer (s : State) (e : EngineOp) : (s.putEngine e).refTimer = s.refTimer := rfl
@[simp] theorem State.putEngine_queues (s : State) (e : EngineOp) : (s.putEngine e).queues = s.queues := rfl
@[simp] theorem State.putEngine_rmas (s : State) (e : EngineOp) : (s.putEngine e).rmas = s.rmas := rfl
@[simp] theorem State.putEngine_priv (s : State) (e : EngineOp) : (s.putEngine e).priv = s.priv := rfl
@[simp] theorem State.putEngine_faultQ (s : State) (e : EngineOp) : (s.putEngine e).faultQ = s.faultQ := rfl
@[simp] theorem State.putEngine_killQ (s : State) (e : EngineOp) : (s.putEngine e).killQ = s.killQ := rfl
@[simp] theorem State.putEngine_eventQ (s : State) (e : EngineOp) : (s.putEngine e).eventQ = s.eventQ := rfl
@[simp] theorem State.putEngine_violQ (s : State) (e : EngineOp) : (s.putEngine e).violQ = s.violQ := rfl
@[simp] theorem State.putEngine_violLost (s : State) (e : EngineOp) : (s.putEngine e).violLost = s.violLost := rfl
@[simp] theorem State.putEngine_contexts (s : State) (e : EngineOp) : (s.putEngine e).contexts = s.contexts := rfl
@[simp] theorem State.putEngine_dieMap (s : State) (e : EngineOp) : (s.putEngine e).dieMap = s.dieMap := rfl
@[simp] theorem State.putEngine_regions (s : State) (e : EngineOp) : (s.putEngine e).regions = s.regions := rfl
@[simp] theorem State.putEngine_rstackArea (s : State) (e : EngineOp) : (s.putEngine e).rstackArea = s.rstackArea := rfl
@[simp] theorem State.putEngine_trace (s : State) (e : EngineOp) : (s.putEngine e).trace = s.trace := rfl
@[simp] theorem State.putEngine_faultRecs (s : State) (e : EngineOp) : (s.putEngine e).faultRecs = s.faultRecs := rfl
@[simp] theorem State.putEngine_faultSeq (s : State) (e : EngineOp) : (s.putEngine e).faultSeq = s.faultSeq := rfl
@[simp] theorem State.putEngine_codes (s : State) (e : EngineOp) : (s.putEngine e).codes = s.codes := rfl
@[simp] theorem State.putEngine_graphs (s : State) (e : EngineOp) : (s.putEngine e).graphs = s.graphs := rfl
@[simp] theorem State.putEngine_insts (s : State) (e : EngineOp) : (s.putEngine e).insts = s.insts := rfl
@[simp] theorem State.putEngine_nextInst (s : State) (e : EngineOp) : (s.putEngine e).nextInst = s.nextInst := rfl
@[simp] theorem State.putEngine_grids (s : State) (e : EngineOp) : (s.putEngine e).grids = s.grids := rfl
@[simp] theorem State.putEngine_nextGrid (s : State) (e : EngineOp) : (s.putEngine e).nextGrid = s.nextGrid := rfl
@[simp] theorem State.putEngine_teams (s : State) (e : EngineOp) : (s.putEngine e).teams = s.teams := rfl
@[simp] theorem State.putEngine_heats (s : State) (e : EngineOp) : (s.putEngine e).heats = s.heats := rfl
@[simp] theorem State.putEngine_carve (s : State) (e : EngineOp) : (s.putEngine e).carve = s.carve := rfl
@[simp] theorem State.putEngine_threads (s : State) (e : EngineOp) : (s.putEngine e).threads = s.threads := rfl
@[simp] theorem State.putEngine_mem (s : State) (e : EngineOp) : (s.putEngine e).mem = s.mem := rfl
@[simp] theorem State.putEngine_absent (s : State) (e : EngineOp) : (s.putEngine e).absent = s.absent := rfl
@[simp] theorem State.putEngine_l1 (s : State) (e : EngineOp) : (s.putEngine e).l1 = s.l1 := rfl
@[simp] theorem State.putEngine_rdc (s : State) (e : EngineOp) : (s.putEngine e).rdc = s.rdc := rfl
@[simp] theorem State.putEngine_wtb (s : State) (e : EngineOp) : (s.putEngine e).wtb = s.wtb := rfl
@[simp] theorem State.putEngine_fences (s : State) (e : EngineOp) : (s.putEngine e).fences = s.fences := rfl
@[simp] theorem State.putEngine_dirty (s : State) (e : EngineOp) : (s.putEngine e).dirty = s.dirty := rfl
@[simp] theorem State.putEngine_intervals (s : State) (e : EngineOp) : (s.putEngine e).intervals = s.intervals := rfl
@[simp] theorem State.putEngine_locks (s : State) (e : EngineOp) : (s.putEngine e).locks = s.locks := rfl
@[simp] theorem State.putEngine_tlb (s : State) (e : EngineOp) : (s.putEngine e).tlb = s.tlb := rfl
@[simp] theorem State.putEngine_tlb2 (s : State) (e : EngineOp) : (s.putEngine e).tlb2 = s.tlb2 := rfl
@[simp] theorem State.putEngine_walkCache (s : State) (e : EngineOp) : (s.putEngine e).walkCache = s.walkCache := rfl
@[simp] theorem State.putEngine_atc (s : State) (e : EngineOp) : (s.putEngine e).atc = s.atc := rfl
@[simp] theorem State.putEngine_hostMap (s : State) (e : EngineOp) : (s.putEngine e).hostMap = s.hostMap := rfl
@[simp] theorem State.putEngine_loads (s : State) (e : EngineOp) : (s.putEngine e).loads = s.loads := rfl
@[simp] theorem State.putEngine_atoms (s : State) (e : EngineOp) : (s.putEngine e).atoms = s.atoms := rfl
@[simp] theorem State.putEngine_hurdles (s : State) (e : EngineOp) : (s.putEngine e).hurdles = s.hurdles := rfl
@[simp] theorem State.putEngine_reservations (s : State) (e : EngineOp) : (s.putEngine e).reservations = s.reservations := rfl
@[simp] theorem State.putEngine_tiles (s : State) (e : EngineOp) : (s.putEngine e).tiles = s.tiles := rfl
@[simp] theorem State.putEngine_mmas (s : State) (e : EngineOp) : (s.putEngine e).mmas = s.mmas := rfl
@[simp] theorem State.putEngine_ragged (s : State) (e : EngineOp) : (s.putEngine e).ragged = s.ragged := rfl
@[simp] theorem State.putEngine_walks (s : State) (e : EngineOp) : (s.putEngine e).walks = s.walks := rfl
@[simp] theorem State.putEngine_endpoints (s : State) (e : EngineOp) : (s.putEngine e).endpoints = s.endpoints := rfl
@[simp] theorem State.putEngine_tables (s : State) (e : EngineOp) : (s.putEngine e).tables = s.tables := rfl
@[simp] theorem State.putEngine_rowsIn (s : State) (e : EngineOp) : (s.putEngine e).rowsIn = s.rowsIn := rfl
@[simp] theorem State.putEngine_noticesIn (s : State) (e : EngineOp) : (s.putEngine e).noticesIn = s.noticesIn := rfl
@[simp] theorem State.putEngine_returnsIn (s : State) (e : EngineOp) : (s.putEngine e).returnsIn = s.returnsIn := rfl
@[simp] theorem State.putEngine_chans (s : State) (e : EngineOp) : (s.putEngine e).chans = s.chans := rfl
@[simp] theorem State.putEngine_srcEntries (s : State) (e : EngineOp) : (s.putEngine e).srcEntries = s.srcEntries := rfl
@[simp] theorem State.putEngine_dstEntries (s : State) (e : EngineOp) : (s.putEngine e).dstEntries = s.dstEntries := rfl
@[simp] theorem State.putEngine_chanOps (s : State) (e : EngineOp) : (s.putEngine e).chanOps = s.chanOps := rfl
@[simp] theorem State.putEngine_drains (s : State) (e : EngineOp) : (s.putEngine e).drains = s.drains := rfl
@[simp] theorem State.putEngine_net (s : State) (e : EngineOp) : (s.putEngine e).net = s.net := rfl
@[simp] theorem State.putEngine_unreachable (s : State) (e : EngineOp) : (s.putEngine e).unreachable = s.unreachable := rfl
@[simp] theorem State.putEngine_portsDown (s : State) (e : EngineOp) : (s.putEngine e).portsDown = s.portsDown := rfl
@[simp] theorem State.putEngine_contribs (s : State) (e : EngineOp) : (s.putEngine e).contribs = s.contribs := rfl
@[simp] theorem State.putEngine_rred (s : State) (e : EngineOp) : (s.putEngine e).rred = s.rred := rfl

/-! ## unlock -/

@[simp] theorem State.unlock_agenda (s : State) (op : Nat) : (s.unlock op).agenda = s.agenda := rfl
@[simp] theorem State.unlock_subject (s : State) (op : Nat) : (s.unlock op).subject = s.subject := rfl
@[simp] theorem State.unlock_issueQ (s : State) (op : Nat) : (s.unlock op).issueQ = s.issueQ := rfl
@[simp] theorem State.unlock_gang (s : State) (op : Nat) : (s.unlock op).gang = s.gang := rfl
@[simp] theorem State.unlock_turn (s : State) (op : Nat) : (s.unlock op).turn = s.turn := rfl
@[simp] theorem State.unlock_turnDie (s : State) (op : Nat) : (s.unlock op).turnDie = s.turnDie := rfl
@[simp] theorem State.unlock_nextOp (s : State) (op : Nat) : (s.unlock op).nextOp = s.nextOp := rfl
@[simp] theorem State.unlock_draw (s : State) (op : Nat) : (s.unlock op).draw = s.draw := rfl
@[simp] theorem State.unlock_boot (s : State) (op : Nat) : (s.unlock op).boot = s.boot := rfl
@[simp] theorem State.unlock_cycle (s : State) (op : Nat) : (s.unlock op).cycle = s.cycle := rfl
@[simp] theorem State.unlock_dieClock (s : State) (op : Nat) : (s.unlock op).dieClock = s.dieClock := rfl
@[simp] theorem State.unlock_cycleBegan (s : State) (op : Nat) : (s.unlock op).cycleBegan = s.cycleBegan := rfl
@[simp] theorem State.unlock_refTimer (s : State) (op : Nat) : (s.unlock op).refTimer = s.refTimer := rfl
@[simp] theorem State.unlock_queues (s : State) (op : Nat) : (s.unlock op).queues = s.queues := rfl
@[simp] theorem State.unlock_rmas (s : State) (op : Nat) : (s.unlock op).rmas = s.rmas := rfl
@[simp] theorem State.unlock_priv (s : State) (op : Nat) : (s.unlock op).priv = s.priv := rfl
@[simp] theorem State.unlock_faultQ (s : State) (op : Nat) : (s.unlock op).faultQ = s.faultQ := rfl
@[simp] theorem State.unlock_killQ (s : State) (op : Nat) : (s.unlock op).killQ = s.killQ := rfl
@[simp] theorem State.unlock_eventQ (s : State) (op : Nat) : (s.unlock op).eventQ = s.eventQ := rfl
@[simp] theorem State.unlock_violQ (s : State) (op : Nat) : (s.unlock op).violQ = s.violQ := rfl
@[simp] theorem State.unlock_violLost (s : State) (op : Nat) : (s.unlock op).violLost = s.violLost := rfl
@[simp] theorem State.unlock_contexts (s : State) (op : Nat) : (s.unlock op).contexts = s.contexts := rfl
@[simp] theorem State.unlock_dieMap (s : State) (op : Nat) : (s.unlock op).dieMap = s.dieMap := rfl
@[simp] theorem State.unlock_regions (s : State) (op : Nat) : (s.unlock op).regions = s.regions := rfl
@[simp] theorem State.unlock_rstackArea (s : State) (op : Nat) : (s.unlock op).rstackArea = s.rstackArea := rfl
@[simp] theorem State.unlock_trace (s : State) (op : Nat) : (s.unlock op).trace = s.trace := rfl
@[simp] theorem State.unlock_faultRecs (s : State) (op : Nat) : (s.unlock op).faultRecs = s.faultRecs := rfl
@[simp] theorem State.unlock_faultSeq (s : State) (op : Nat) : (s.unlock op).faultSeq = s.faultSeq := rfl
@[simp] theorem State.unlock_codes (s : State) (op : Nat) : (s.unlock op).codes = s.codes := rfl
@[simp] theorem State.unlock_graphs (s : State) (op : Nat) : (s.unlock op).graphs = s.graphs := rfl
@[simp] theorem State.unlock_insts (s : State) (op : Nat) : (s.unlock op).insts = s.insts := rfl
@[simp] theorem State.unlock_nextInst (s : State) (op : Nat) : (s.unlock op).nextInst = s.nextInst := rfl
@[simp] theorem State.unlock_grids (s : State) (op : Nat) : (s.unlock op).grids = s.grids := rfl
@[simp] theorem State.unlock_nextGrid (s : State) (op : Nat) : (s.unlock op).nextGrid = s.nextGrid := rfl
@[simp] theorem State.unlock_teams (s : State) (op : Nat) : (s.unlock op).teams = s.teams := rfl
@[simp] theorem State.unlock_heats (s : State) (op : Nat) : (s.unlock op).heats = s.heats := rfl
@[simp] theorem State.unlock_carve (s : State) (op : Nat) : (s.unlock op).carve = s.carve := rfl
@[simp] theorem State.unlock_threads (s : State) (op : Nat) : (s.unlock op).threads = s.threads := rfl
@[simp] theorem State.unlock_mem (s : State) (op : Nat) : (s.unlock op).mem = s.mem := rfl
@[simp] theorem State.unlock_absent (s : State) (op : Nat) : (s.unlock op).absent = s.absent := rfl
@[simp] theorem State.unlock_l1 (s : State) (op : Nat) : (s.unlock op).l1 = s.l1 := rfl
@[simp] theorem State.unlock_rdc (s : State) (op : Nat) : (s.unlock op).rdc = s.rdc := rfl
@[simp] theorem State.unlock_wtb (s : State) (op : Nat) : (s.unlock op).wtb = s.wtb := rfl
@[simp] theorem State.unlock_fences (s : State) (op : Nat) : (s.unlock op).fences = s.fences := rfl
@[simp] theorem State.unlock_dirty (s : State) (op : Nat) : (s.unlock op).dirty = s.dirty := rfl
@[simp] theorem State.unlock_intervals (s : State) (op : Nat) : (s.unlock op).intervals = s.intervals := rfl
@[simp] theorem State.unlock_tlb (s : State) (op : Nat) : (s.unlock op).tlb = s.tlb := rfl
@[simp] theorem State.unlock_tlb2 (s : State) (op : Nat) : (s.unlock op).tlb2 = s.tlb2 := rfl
@[simp] theorem State.unlock_walkCache (s : State) (op : Nat) : (s.unlock op).walkCache = s.walkCache := rfl
@[simp] theorem State.unlock_atc (s : State) (op : Nat) : (s.unlock op).atc = s.atc := rfl
@[simp] theorem State.unlock_hostMap (s : State) (op : Nat) : (s.unlock op).hostMap = s.hostMap := rfl
@[simp] theorem State.unlock_loads (s : State) (op : Nat) : (s.unlock op).loads = s.loads := rfl
@[simp] theorem State.unlock_atoms (s : State) (op : Nat) : (s.unlock op).atoms = s.atoms := rfl
@[simp] theorem State.unlock_hurdles (s : State) (op : Nat) : (s.unlock op).hurdles = s.hurdles := rfl
@[simp] theorem State.unlock_engines (s : State) (op : Nat) : (s.unlock op).engines = s.engines := rfl
@[simp] theorem State.unlock_reservations (s : State) (op : Nat) : (s.unlock op).reservations = s.reservations := rfl
@[simp] theorem State.unlock_tiles (s : State) (op : Nat) : (s.unlock op).tiles = s.tiles := rfl
@[simp] theorem State.unlock_mmas (s : State) (op : Nat) : (s.unlock op).mmas = s.mmas := rfl
@[simp] theorem State.unlock_ragged (s : State) (op : Nat) : (s.unlock op).ragged = s.ragged := rfl
@[simp] theorem State.unlock_walks (s : State) (op : Nat) : (s.unlock op).walks = s.walks := rfl
@[simp] theorem State.unlock_endpoints (s : State) (op : Nat) : (s.unlock op).endpoints = s.endpoints := rfl
@[simp] theorem State.unlock_tables (s : State) (op : Nat) : (s.unlock op).tables = s.tables := rfl
@[simp] theorem State.unlock_rowsIn (s : State) (op : Nat) : (s.unlock op).rowsIn = s.rowsIn := rfl
@[simp] theorem State.unlock_noticesIn (s : State) (op : Nat) : (s.unlock op).noticesIn = s.noticesIn := rfl
@[simp] theorem State.unlock_returnsIn (s : State) (op : Nat) : (s.unlock op).returnsIn = s.returnsIn := rfl
@[simp] theorem State.unlock_chans (s : State) (op : Nat) : (s.unlock op).chans = s.chans := rfl
@[simp] theorem State.unlock_srcEntries (s : State) (op : Nat) : (s.unlock op).srcEntries = s.srcEntries := rfl
@[simp] theorem State.unlock_dstEntries (s : State) (op : Nat) : (s.unlock op).dstEntries = s.dstEntries := rfl
@[simp] theorem State.unlock_chanOps (s : State) (op : Nat) : (s.unlock op).chanOps = s.chanOps := rfl
@[simp] theorem State.unlock_drains (s : State) (op : Nat) : (s.unlock op).drains = s.drains := rfl
@[simp] theorem State.unlock_net (s : State) (op : Nat) : (s.unlock op).net = s.net := rfl
@[simp] theorem State.unlock_unreachable (s : State) (op : Nat) : (s.unlock op).unreachable = s.unreachable := rfl
@[simp] theorem State.unlock_portsDown (s : State) (op : Nat) : (s.unlock op).portsDown = s.portsDown := rfl
@[simp] theorem State.unlock_contribs (s : State) (op : Nat) : (s.unlock op).contribs = s.contribs := rfl
@[simp] theorem State.unlock_rred (s : State) (op : Nat) : (s.unlock op).rred = s.rred := rfl

/-! ## present -/

@[simp] theorem State.present_agenda (s : State) (ls : List ScratchLine) : (s.present ls).agenda = s.agenda := rfl
@[simp] theorem State.present_subject (s : State) (ls : List ScratchLine) : (s.present ls).subject = s.subject := rfl
@[simp] theorem State.present_issueQ (s : State) (ls : List ScratchLine) : (s.present ls).issueQ = s.issueQ := rfl
@[simp] theorem State.present_gang (s : State) (ls : List ScratchLine) : (s.present ls).gang = s.gang := rfl
@[simp] theorem State.present_turn (s : State) (ls : List ScratchLine) : (s.present ls).turn = s.turn := rfl
@[simp] theorem State.present_turnDie (s : State) (ls : List ScratchLine) : (s.present ls).turnDie = s.turnDie := rfl
@[simp] theorem State.present_nextOp (s : State) (ls : List ScratchLine) : (s.present ls).nextOp = s.nextOp := rfl
@[simp] theorem State.present_draw (s : State) (ls : List ScratchLine) : (s.present ls).draw = s.draw := rfl
@[simp] theorem State.present_boot (s : State) (ls : List ScratchLine) : (s.present ls).boot = s.boot := rfl
@[simp] theorem State.present_cycle (s : State) (ls : List ScratchLine) : (s.present ls).cycle = s.cycle := rfl
@[simp] theorem State.present_dieClock (s : State) (ls : List ScratchLine) : (s.present ls).dieClock = s.dieClock := rfl
@[simp] theorem State.present_cycleBegan (s : State) (ls : List ScratchLine) : (s.present ls).cycleBegan = s.cycleBegan := rfl
@[simp] theorem State.present_refTimer (s : State) (ls : List ScratchLine) : (s.present ls).refTimer = s.refTimer := rfl
@[simp] theorem State.present_queues (s : State) (ls : List ScratchLine) : (s.present ls).queues = s.queues := rfl
@[simp] theorem State.present_rmas (s : State) (ls : List ScratchLine) : (s.present ls).rmas = s.rmas := rfl
@[simp] theorem State.present_priv (s : State) (ls : List ScratchLine) : (s.present ls).priv = s.priv := rfl
@[simp] theorem State.present_faultQ (s : State) (ls : List ScratchLine) : (s.present ls).faultQ = s.faultQ := rfl
@[simp] theorem State.present_killQ (s : State) (ls : List ScratchLine) : (s.present ls).killQ = s.killQ := rfl
@[simp] theorem State.present_eventQ (s : State) (ls : List ScratchLine) : (s.present ls).eventQ = s.eventQ := rfl
@[simp] theorem State.present_violQ (s : State) (ls : List ScratchLine) : (s.present ls).violQ = s.violQ := rfl
@[simp] theorem State.present_violLost (s : State) (ls : List ScratchLine) : (s.present ls).violLost = s.violLost := rfl
@[simp] theorem State.present_contexts (s : State) (ls : List ScratchLine) : (s.present ls).contexts = s.contexts := rfl
@[simp] theorem State.present_dieMap (s : State) (ls : List ScratchLine) : (s.present ls).dieMap = s.dieMap := rfl
@[simp] theorem State.present_regions (s : State) (ls : List ScratchLine) : (s.present ls).regions = s.regions := rfl
@[simp] theorem State.present_rstackArea (s : State) (ls : List ScratchLine) : (s.present ls).rstackArea = s.rstackArea := rfl
@[simp] theorem State.present_trace (s : State) (ls : List ScratchLine) : (s.present ls).trace = s.trace := rfl
@[simp] theorem State.present_faultRecs (s : State) (ls : List ScratchLine) : (s.present ls).faultRecs = s.faultRecs := rfl
@[simp] theorem State.present_faultSeq (s : State) (ls : List ScratchLine) : (s.present ls).faultSeq = s.faultSeq := rfl
@[simp] theorem State.present_codes (s : State) (ls : List ScratchLine) : (s.present ls).codes = s.codes := rfl
@[simp] theorem State.present_graphs (s : State) (ls : List ScratchLine) : (s.present ls).graphs = s.graphs := rfl
@[simp] theorem State.present_insts (s : State) (ls : List ScratchLine) : (s.present ls).insts = s.insts := rfl
@[simp] theorem State.present_nextInst (s : State) (ls : List ScratchLine) : (s.present ls).nextInst = s.nextInst := rfl
@[simp] theorem State.present_grids (s : State) (ls : List ScratchLine) : (s.present ls).grids = s.grids := rfl
@[simp] theorem State.present_nextGrid (s : State) (ls : List ScratchLine) : (s.present ls).nextGrid = s.nextGrid := rfl
@[simp] theorem State.present_teams (s : State) (ls : List ScratchLine) : (s.present ls).teams = s.teams := rfl
@[simp] theorem State.present_heats (s : State) (ls : List ScratchLine) : (s.present ls).heats = s.heats := rfl
@[simp] theorem State.present_carve (s : State) (ls : List ScratchLine) : (s.present ls).carve = s.carve := rfl
@[simp] theorem State.present_threads (s : State) (ls : List ScratchLine) : (s.present ls).threads = s.threads := rfl
@[simp] theorem State.present_mem (s : State) (ls : List ScratchLine) : (s.present ls).mem = s.mem := rfl
@[simp] theorem State.present_l1 (s : State) (ls : List ScratchLine) : (s.present ls).l1 = s.l1 := rfl
@[simp] theorem State.present_rdc (s : State) (ls : List ScratchLine) : (s.present ls).rdc = s.rdc := rfl
@[simp] theorem State.present_wtb (s : State) (ls : List ScratchLine) : (s.present ls).wtb = s.wtb := rfl
@[simp] theorem State.present_fences (s : State) (ls : List ScratchLine) : (s.present ls).fences = s.fences := rfl
@[simp] theorem State.present_dirty (s : State) (ls : List ScratchLine) : (s.present ls).dirty = s.dirty := rfl
@[simp] theorem State.present_intervals (s : State) (ls : List ScratchLine) : (s.present ls).intervals = s.intervals := rfl
@[simp] theorem State.present_locks (s : State) (ls : List ScratchLine) : (s.present ls).locks = s.locks := rfl
@[simp] theorem State.present_tlb (s : State) (ls : List ScratchLine) : (s.present ls).tlb = s.tlb := rfl
@[simp] theorem State.present_tlb2 (s : State) (ls : List ScratchLine) : (s.present ls).tlb2 = s.tlb2 := rfl
@[simp] theorem State.present_walkCache (s : State) (ls : List ScratchLine) : (s.present ls).walkCache = s.walkCache := rfl
@[simp] theorem State.present_atc (s : State) (ls : List ScratchLine) : (s.present ls).atc = s.atc := rfl
@[simp] theorem State.present_hostMap (s : State) (ls : List ScratchLine) : (s.present ls).hostMap = s.hostMap := rfl
@[simp] theorem State.present_loads (s : State) (ls : List ScratchLine) : (s.present ls).loads = s.loads := rfl
@[simp] theorem State.present_atoms (s : State) (ls : List ScratchLine) : (s.present ls).atoms = s.atoms := rfl
@[simp] theorem State.present_hurdles (s : State) (ls : List ScratchLine) : (s.present ls).hurdles = s.hurdles := rfl
@[simp] theorem State.present_engines (s : State) (ls : List ScratchLine) : (s.present ls).engines = s.engines := rfl
@[simp] theorem State.present_reservations (s : State) (ls : List ScratchLine) : (s.present ls).reservations = s.reservations := rfl
@[simp] theorem State.present_tiles (s : State) (ls : List ScratchLine) : (s.present ls).tiles = s.tiles := rfl
@[simp] theorem State.present_mmas (s : State) (ls : List ScratchLine) : (s.present ls).mmas = s.mmas := rfl
@[simp] theorem State.present_ragged (s : State) (ls : List ScratchLine) : (s.present ls).ragged = s.ragged := rfl
@[simp] theorem State.present_walks (s : State) (ls : List ScratchLine) : (s.present ls).walks = s.walks := rfl
@[simp] theorem State.present_endpoints (s : State) (ls : List ScratchLine) : (s.present ls).endpoints = s.endpoints := rfl
@[simp] theorem State.present_tables (s : State) (ls : List ScratchLine) : (s.present ls).tables = s.tables := rfl
@[simp] theorem State.present_rowsIn (s : State) (ls : List ScratchLine) : (s.present ls).rowsIn = s.rowsIn := rfl
@[simp] theorem State.present_noticesIn (s : State) (ls : List ScratchLine) : (s.present ls).noticesIn = s.noticesIn := rfl
@[simp] theorem State.present_returnsIn (s : State) (ls : List ScratchLine) : (s.present ls).returnsIn = s.returnsIn := rfl
@[simp] theorem State.present_chans (s : State) (ls : List ScratchLine) : (s.present ls).chans = s.chans := rfl
@[simp] theorem State.present_srcEntries (s : State) (ls : List ScratchLine) : (s.present ls).srcEntries = s.srcEntries := rfl
@[simp] theorem State.present_dstEntries (s : State) (ls : List ScratchLine) : (s.present ls).dstEntries = s.dstEntries := rfl
@[simp] theorem State.present_chanOps (s : State) (ls : List ScratchLine) : (s.present ls).chanOps = s.chanOps := rfl
@[simp] theorem State.present_drains (s : State) (ls : List ScratchLine) : (s.present ls).drains = s.drains := rfl
@[simp] theorem State.present_net (s : State) (ls : List ScratchLine) : (s.present ls).net = s.net := rfl
@[simp] theorem State.present_unreachable (s : State) (ls : List ScratchLine) : (s.present ls).unreachable = s.unreachable := rfl
@[simp] theorem State.present_portsDown (s : State) (ls : List ScratchLine) : (s.present ls).portsDown = s.portsDown := rfl
@[simp] theorem State.present_contribs (s : State) (ls : List ScratchLine) : (s.present ls).contribs = s.contribs := rfl
@[simp] theorem State.present_rred (s : State) (ls : List ScratchLine) : (s.present ls).rred = s.rred := rfl

/-! ## noteSeen -/

@[simp] theorem State.noteSeen_agenda (s : State) (core : Nat) (r : TRef) (key n : Nat) : (s.noteSeen core r key n).agenda = s.agenda := rfl
@[simp] theorem State.noteSeen_subject (s : State) (core : Nat) (r : TRef) (key n : Nat) : (s.noteSeen core r key n).subject = s.subject := rfl
@[simp] theorem State.noteSeen_issueQ (s : State) (core : Nat) (r : TRef) (key n : Nat) : (s.noteSeen core r key n).issueQ = s.issueQ := rfl
@[simp] theorem State.noteSeen_gang (s : State) (core : Nat) (r : TRef) (key n : Nat) : (s.noteSeen core r key n).gang = s.gang := rfl
@[simp] theorem State.noteSeen_turn (s : State) (core : Nat) (r : TRef) (key n : Nat) : (s.noteSeen core r key n).turn = s.turn := rfl
@[simp] theorem State.noteSeen_turnDie (s : State) (core : Nat) (r : TRef) (key n : Nat) : (s.noteSeen core r key n).turnDie = s.turnDie := rfl
@[simp] theorem State.noteSeen_nextOp (s : State) (core : Nat) (r : TRef) (key n : Nat) : (s.noteSeen core r key n).nextOp = s.nextOp := rfl
@[simp] theorem State.noteSeen_draw (s : State) (core : Nat) (r : TRef) (key n : Nat) : (s.noteSeen core r key n).draw = s.draw := rfl
@[simp] theorem State.noteSeen_boot (s : State) (core : Nat) (r : TRef) (key n : Nat) : (s.noteSeen core r key n).boot = s.boot := rfl
@[simp] theorem State.noteSeen_cycle (s : State) (core : Nat) (r : TRef) (key n : Nat) : (s.noteSeen core r key n).cycle = s.cycle := rfl
@[simp] theorem State.noteSeen_dieClock (s : State) (core : Nat) (r : TRef) (key n : Nat) : (s.noteSeen core r key n).dieClock = s.dieClock := rfl
@[simp] theorem State.noteSeen_cycleBegan (s : State) (core : Nat) (r : TRef) (key n : Nat) : (s.noteSeen core r key n).cycleBegan = s.cycleBegan := rfl
@[simp] theorem State.noteSeen_refTimer (s : State) (core : Nat) (r : TRef) (key n : Nat) : (s.noteSeen core r key n).refTimer = s.refTimer := rfl
@[simp] theorem State.noteSeen_queues (s : State) (core : Nat) (r : TRef) (key n : Nat) : (s.noteSeen core r key n).queues = s.queues := rfl
@[simp] theorem State.noteSeen_rmas (s : State) (core : Nat) (r : TRef) (key n : Nat) : (s.noteSeen core r key n).rmas = s.rmas := rfl
@[simp] theorem State.noteSeen_priv (s : State) (core : Nat) (r : TRef) (key n : Nat) : (s.noteSeen core r key n).priv = s.priv := rfl
@[simp] theorem State.noteSeen_faultQ (s : State) (core : Nat) (r : TRef) (key n : Nat) : (s.noteSeen core r key n).faultQ = s.faultQ := rfl
@[simp] theorem State.noteSeen_killQ (s : State) (core : Nat) (r : TRef) (key n : Nat) : (s.noteSeen core r key n).killQ = s.killQ := rfl
@[simp] theorem State.noteSeen_eventQ (s : State) (core : Nat) (r : TRef) (key n : Nat) : (s.noteSeen core r key n).eventQ = s.eventQ := rfl
@[simp] theorem State.noteSeen_violQ (s : State) (core : Nat) (r : TRef) (key n : Nat) : (s.noteSeen core r key n).violQ = s.violQ := rfl
@[simp] theorem State.noteSeen_violLost (s : State) (core : Nat) (r : TRef) (key n : Nat) : (s.noteSeen core r key n).violLost = s.violLost := rfl
@[simp] theorem State.noteSeen_contexts (s : State) (core : Nat) (r : TRef) (key n : Nat) : (s.noteSeen core r key n).contexts = s.contexts := rfl
@[simp] theorem State.noteSeen_dieMap (s : State) (core : Nat) (r : TRef) (key n : Nat) : (s.noteSeen core r key n).dieMap = s.dieMap := rfl
@[simp] theorem State.noteSeen_regions (s : State) (core : Nat) (r : TRef) (key n : Nat) : (s.noteSeen core r key n).regions = s.regions := rfl
@[simp] theorem State.noteSeen_rstackArea (s : State) (core : Nat) (r : TRef) (key n : Nat) : (s.noteSeen core r key n).rstackArea = s.rstackArea := rfl
@[simp] theorem State.noteSeen_trace (s : State) (core : Nat) (r : TRef) (key n : Nat) : (s.noteSeen core r key n).trace = s.trace := rfl
@[simp] theorem State.noteSeen_faultRecs (s : State) (core : Nat) (r : TRef) (key n : Nat) : (s.noteSeen core r key n).faultRecs = s.faultRecs := rfl
@[simp] theorem State.noteSeen_faultSeq (s : State) (core : Nat) (r : TRef) (key n : Nat) : (s.noteSeen core r key n).faultSeq = s.faultSeq := rfl
@[simp] theorem State.noteSeen_codes (s : State) (core : Nat) (r : TRef) (key n : Nat) : (s.noteSeen core r key n).codes = s.codes := rfl
@[simp] theorem State.noteSeen_graphs (s : State) (core : Nat) (r : TRef) (key n : Nat) : (s.noteSeen core r key n).graphs = s.graphs := rfl
@[simp] theorem State.noteSeen_insts (s : State) (core : Nat) (r : TRef) (key n : Nat) : (s.noteSeen core r key n).insts = s.insts := rfl
@[simp] theorem State.noteSeen_nextInst (s : State) (core : Nat) (r : TRef) (key n : Nat) : (s.noteSeen core r key n).nextInst = s.nextInst := rfl
@[simp] theorem State.noteSeen_grids (s : State) (core : Nat) (r : TRef) (key n : Nat) : (s.noteSeen core r key n).grids = s.grids := rfl
@[simp] theorem State.noteSeen_nextGrid (s : State) (core : Nat) (r : TRef) (key n : Nat) : (s.noteSeen core r key n).nextGrid = s.nextGrid := rfl
@[simp] theorem State.noteSeen_teams (s : State) (core : Nat) (r : TRef) (key n : Nat) : (s.noteSeen core r key n).teams = s.teams := rfl
@[simp] theorem State.noteSeen_heats (s : State) (core : Nat) (r : TRef) (key n : Nat) : (s.noteSeen core r key n).heats = s.heats := rfl
@[simp] theorem State.noteSeen_carve (s : State) (core : Nat) (r : TRef) (key n : Nat) : (s.noteSeen core r key n).carve = s.carve := rfl
@[simp] theorem State.noteSeen_threads (s : State) (core : Nat) (r : TRef) (key n : Nat) : (s.noteSeen core r key n).threads = s.threads := rfl
@[simp] theorem State.noteSeen_mem (s : State) (core : Nat) (r : TRef) (key n : Nat) : (s.noteSeen core r key n).mem = s.mem := rfl
@[simp] theorem State.noteSeen_absent (s : State) (core : Nat) (r : TRef) (key n : Nat) : (s.noteSeen core r key n).absent = s.absent := rfl
@[simp] theorem State.noteSeen_l1 (s : State) (core : Nat) (r : TRef) (key n : Nat) : (s.noteSeen core r key n).l1 = s.l1 := rfl
@[simp] theorem State.noteSeen_rdc (s : State) (core : Nat) (r : TRef) (key n : Nat) : (s.noteSeen core r key n).rdc = s.rdc := rfl
@[simp] theorem State.noteSeen_fences (s : State) (core : Nat) (r : TRef) (key n : Nat) : (s.noteSeen core r key n).fences = s.fences := rfl
@[simp] theorem State.noteSeen_dirty (s : State) (core : Nat) (r : TRef) (key n : Nat) : (s.noteSeen core r key n).dirty = s.dirty := rfl
@[simp] theorem State.noteSeen_intervals (s : State) (core : Nat) (r : TRef) (key n : Nat) : (s.noteSeen core r key n).intervals = s.intervals := rfl
@[simp] theorem State.noteSeen_locks (s : State) (core : Nat) (r : TRef) (key n : Nat) : (s.noteSeen core r key n).locks = s.locks := rfl
@[simp] theorem State.noteSeen_tlb (s : State) (core : Nat) (r : TRef) (key n : Nat) : (s.noteSeen core r key n).tlb = s.tlb := rfl
@[simp] theorem State.noteSeen_tlb2 (s : State) (core : Nat) (r : TRef) (key n : Nat) : (s.noteSeen core r key n).tlb2 = s.tlb2 := rfl
@[simp] theorem State.noteSeen_walkCache (s : State) (core : Nat) (r : TRef) (key n : Nat) : (s.noteSeen core r key n).walkCache = s.walkCache := rfl
@[simp] theorem State.noteSeen_atc (s : State) (core : Nat) (r : TRef) (key n : Nat) : (s.noteSeen core r key n).atc = s.atc := rfl
@[simp] theorem State.noteSeen_hostMap (s : State) (core : Nat) (r : TRef) (key n : Nat) : (s.noteSeen core r key n).hostMap = s.hostMap := rfl
@[simp] theorem State.noteSeen_loads (s : State) (core : Nat) (r : TRef) (key n : Nat) : (s.noteSeen core r key n).loads = s.loads := rfl
@[simp] theorem State.noteSeen_atoms (s : State) (core : Nat) (r : TRef) (key n : Nat) : (s.noteSeen core r key n).atoms = s.atoms := rfl
@[simp] theorem State.noteSeen_hurdles (s : State) (core : Nat) (r : TRef) (key n : Nat) : (s.noteSeen core r key n).hurdles = s.hurdles := rfl
@[simp] theorem State.noteSeen_engines (s : State) (core : Nat) (r : TRef) (key n : Nat) : (s.noteSeen core r key n).engines = s.engines := rfl
@[simp] theorem State.noteSeen_reservations (s : State) (core : Nat) (r : TRef) (key n : Nat) : (s.noteSeen core r key n).reservations = s.reservations := rfl
@[simp] theorem State.noteSeen_tiles (s : State) (core : Nat) (r : TRef) (key n : Nat) : (s.noteSeen core r key n).tiles = s.tiles := rfl
@[simp] theorem State.noteSeen_mmas (s : State) (core : Nat) (r : TRef) (key n : Nat) : (s.noteSeen core r key n).mmas = s.mmas := rfl
@[simp] theorem State.noteSeen_ragged (s : State) (core : Nat) (r : TRef) (key n : Nat) : (s.noteSeen core r key n).ragged = s.ragged := rfl
@[simp] theorem State.noteSeen_walks (s : State) (core : Nat) (r : TRef) (key n : Nat) : (s.noteSeen core r key n).walks = s.walks := rfl
@[simp] theorem State.noteSeen_endpoints (s : State) (core : Nat) (r : TRef) (key n : Nat) : (s.noteSeen core r key n).endpoints = s.endpoints := rfl
@[simp] theorem State.noteSeen_tables (s : State) (core : Nat) (r : TRef) (key n : Nat) : (s.noteSeen core r key n).tables = s.tables := rfl
@[simp] theorem State.noteSeen_rowsIn (s : State) (core : Nat) (r : TRef) (key n : Nat) : (s.noteSeen core r key n).rowsIn = s.rowsIn := rfl
@[simp] theorem State.noteSeen_noticesIn (s : State) (core : Nat) (r : TRef) (key n : Nat) : (s.noteSeen core r key n).noticesIn = s.noticesIn := rfl
@[simp] theorem State.noteSeen_returnsIn (s : State) (core : Nat) (r : TRef) (key n : Nat) : (s.noteSeen core r key n).returnsIn = s.returnsIn := rfl
@[simp] theorem State.noteSeen_chans (s : State) (core : Nat) (r : TRef) (key n : Nat) : (s.noteSeen core r key n).chans = s.chans := rfl
@[simp] theorem State.noteSeen_srcEntries (s : State) (core : Nat) (r : TRef) (key n : Nat) : (s.noteSeen core r key n).srcEntries = s.srcEntries := rfl
@[simp] theorem State.noteSeen_dstEntries (s : State) (core : Nat) (r : TRef) (key n : Nat) : (s.noteSeen core r key n).dstEntries = s.dstEntries := rfl
@[simp] theorem State.noteSeen_chanOps (s : State) (core : Nat) (r : TRef) (key n : Nat) : (s.noteSeen core r key n).chanOps = s.chanOps := rfl
@[simp] theorem State.noteSeen_drains (s : State) (core : Nat) (r : TRef) (key n : Nat) : (s.noteSeen core r key n).drains = s.drains := rfl
@[simp] theorem State.noteSeen_net (s : State) (core : Nat) (r : TRef) (key n : Nat) : (s.noteSeen core r key n).net = s.net := rfl
@[simp] theorem State.noteSeen_unreachable (s : State) (core : Nat) (r : TRef) (key n : Nat) : (s.noteSeen core r key n).unreachable = s.unreachable := rfl
@[simp] theorem State.noteSeen_portsDown (s : State) (core : Nat) (r : TRef) (key n : Nat) : (s.noteSeen core r key n).portsDown = s.portsDown := rfl
@[simp] theorem State.noteSeen_contribs (s : State) (core : Nat) (r : TRef) (key n : Nat) : (s.noteSeen core r key n).contribs = s.contribs := rfl
@[simp] theorem State.noteSeen_rred (s : State) (core : Nat) (r : TRef) (key n : Nat) : (s.noteSeen core r key n).rred = s.rred := rfl

/-! ## putMma -/

@[simp] theorem State.putMma_agenda (s : State) (m : MmaReq) : (s.putMma m).agenda = s.agenda := rfl
@[simp] theorem State.putMma_subject (s : State) (m : MmaReq) : (s.putMma m).subject = s.subject := rfl
@[simp] theorem State.putMma_issueQ (s : State) (m : MmaReq) : (s.putMma m).issueQ = s.issueQ := rfl
@[simp] theorem State.putMma_gang (s : State) (m : MmaReq) : (s.putMma m).gang = s.gang := rfl
@[simp] theorem State.putMma_turn (s : State) (m : MmaReq) : (s.putMma m).turn = s.turn := rfl
@[simp] theorem State.putMma_turnDie (s : State) (m : MmaReq) : (s.putMma m).turnDie = s.turnDie := rfl
@[simp] theorem State.putMma_nextOp (s : State) (m : MmaReq) : (s.putMma m).nextOp = s.nextOp := rfl
@[simp] theorem State.putMma_draw (s : State) (m : MmaReq) : (s.putMma m).draw = s.draw := rfl
@[simp] theorem State.putMma_boot (s : State) (m : MmaReq) : (s.putMma m).boot = s.boot := rfl
@[simp] theorem State.putMma_cycle (s : State) (m : MmaReq) : (s.putMma m).cycle = s.cycle := rfl
@[simp] theorem State.putMma_dieClock (s : State) (m : MmaReq) : (s.putMma m).dieClock = s.dieClock := rfl
@[simp] theorem State.putMma_cycleBegan (s : State) (m : MmaReq) : (s.putMma m).cycleBegan = s.cycleBegan := rfl
@[simp] theorem State.putMma_refTimer (s : State) (m : MmaReq) : (s.putMma m).refTimer = s.refTimer := rfl
@[simp] theorem State.putMma_queues (s : State) (m : MmaReq) : (s.putMma m).queues = s.queues := rfl
@[simp] theorem State.putMma_rmas (s : State) (m : MmaReq) : (s.putMma m).rmas = s.rmas := rfl
@[simp] theorem State.putMma_priv (s : State) (m : MmaReq) : (s.putMma m).priv = s.priv := rfl
@[simp] theorem State.putMma_faultQ (s : State) (m : MmaReq) : (s.putMma m).faultQ = s.faultQ := rfl
@[simp] theorem State.putMma_killQ (s : State) (m : MmaReq) : (s.putMma m).killQ = s.killQ := rfl
@[simp] theorem State.putMma_eventQ (s : State) (m : MmaReq) : (s.putMma m).eventQ = s.eventQ := rfl
@[simp] theorem State.putMma_violQ (s : State) (m : MmaReq) : (s.putMma m).violQ = s.violQ := rfl
@[simp] theorem State.putMma_violLost (s : State) (m : MmaReq) : (s.putMma m).violLost = s.violLost := rfl
@[simp] theorem State.putMma_contexts (s : State) (m : MmaReq) : (s.putMma m).contexts = s.contexts := rfl
@[simp] theorem State.putMma_dieMap (s : State) (m : MmaReq) : (s.putMma m).dieMap = s.dieMap := rfl
@[simp] theorem State.putMma_regions (s : State) (m : MmaReq) : (s.putMma m).regions = s.regions := rfl
@[simp] theorem State.putMma_rstackArea (s : State) (m : MmaReq) : (s.putMma m).rstackArea = s.rstackArea := rfl
@[simp] theorem State.putMma_trace (s : State) (m : MmaReq) : (s.putMma m).trace = s.trace := rfl
@[simp] theorem State.putMma_faultRecs (s : State) (m : MmaReq) : (s.putMma m).faultRecs = s.faultRecs := rfl
@[simp] theorem State.putMma_faultSeq (s : State) (m : MmaReq) : (s.putMma m).faultSeq = s.faultSeq := rfl
@[simp] theorem State.putMma_codes (s : State) (m : MmaReq) : (s.putMma m).codes = s.codes := rfl
@[simp] theorem State.putMma_graphs (s : State) (m : MmaReq) : (s.putMma m).graphs = s.graphs := rfl
@[simp] theorem State.putMma_insts (s : State) (m : MmaReq) : (s.putMma m).insts = s.insts := rfl
@[simp] theorem State.putMma_nextInst (s : State) (m : MmaReq) : (s.putMma m).nextInst = s.nextInst := rfl
@[simp] theorem State.putMma_grids (s : State) (m : MmaReq) : (s.putMma m).grids = s.grids := rfl
@[simp] theorem State.putMma_nextGrid (s : State) (m : MmaReq) : (s.putMma m).nextGrid = s.nextGrid := rfl
@[simp] theorem State.putMma_teams (s : State) (m : MmaReq) : (s.putMma m).teams = s.teams := rfl
@[simp] theorem State.putMma_heats (s : State) (m : MmaReq) : (s.putMma m).heats = s.heats := rfl
@[simp] theorem State.putMma_carve (s : State) (m : MmaReq) : (s.putMma m).carve = s.carve := rfl
@[simp] theorem State.putMma_threads (s : State) (m : MmaReq) : (s.putMma m).threads = s.threads := rfl
@[simp] theorem State.putMma_mem (s : State) (m : MmaReq) : (s.putMma m).mem = s.mem := rfl
@[simp] theorem State.putMma_absent (s : State) (m : MmaReq) : (s.putMma m).absent = s.absent := rfl
@[simp] theorem State.putMma_l1 (s : State) (m : MmaReq) : (s.putMma m).l1 = s.l1 := rfl
@[simp] theorem State.putMma_rdc (s : State) (m : MmaReq) : (s.putMma m).rdc = s.rdc := rfl
@[simp] theorem State.putMma_wtb (s : State) (m : MmaReq) : (s.putMma m).wtb = s.wtb := rfl
@[simp] theorem State.putMma_fences (s : State) (m : MmaReq) : (s.putMma m).fences = s.fences := rfl
@[simp] theorem State.putMma_dirty (s : State) (m : MmaReq) : (s.putMma m).dirty = s.dirty := rfl
@[simp] theorem State.putMma_intervals (s : State) (m : MmaReq) : (s.putMma m).intervals = s.intervals := rfl
@[simp] theorem State.putMma_locks (s : State) (m : MmaReq) : (s.putMma m).locks = s.locks := rfl
@[simp] theorem State.putMma_tlb (s : State) (m : MmaReq) : (s.putMma m).tlb = s.tlb := rfl
@[simp] theorem State.putMma_tlb2 (s : State) (m : MmaReq) : (s.putMma m).tlb2 = s.tlb2 := rfl
@[simp] theorem State.putMma_walkCache (s : State) (m : MmaReq) : (s.putMma m).walkCache = s.walkCache := rfl
@[simp] theorem State.putMma_atc (s : State) (m : MmaReq) : (s.putMma m).atc = s.atc := rfl
@[simp] theorem State.putMma_hostMap (s : State) (m : MmaReq) : (s.putMma m).hostMap = s.hostMap := rfl
@[simp] theorem State.putMma_loads (s : State) (m : MmaReq) : (s.putMma m).loads = s.loads := rfl
@[simp] theorem State.putMma_atoms (s : State) (m : MmaReq) : (s.putMma m).atoms = s.atoms := rfl
@[simp] theorem State.putMma_hurdles (s : State) (m : MmaReq) : (s.putMma m).hurdles = s.hurdles := rfl
@[simp] theorem State.putMma_engines (s : State) (m : MmaReq) : (s.putMma m).engines = s.engines := rfl
@[simp] theorem State.putMma_reservations (s : State) (m : MmaReq) : (s.putMma m).reservations = s.reservations := rfl
@[simp] theorem State.putMma_tiles (s : State) (m : MmaReq) : (s.putMma m).tiles = s.tiles := rfl
@[simp] theorem State.putMma_ragged (s : State) (m : MmaReq) : (s.putMma m).ragged = s.ragged := rfl
@[simp] theorem State.putMma_walks (s : State) (m : MmaReq) : (s.putMma m).walks = s.walks := rfl
@[simp] theorem State.putMma_endpoints (s : State) (m : MmaReq) : (s.putMma m).endpoints = s.endpoints := rfl
@[simp] theorem State.putMma_tables (s : State) (m : MmaReq) : (s.putMma m).tables = s.tables := rfl
@[simp] theorem State.putMma_rowsIn (s : State) (m : MmaReq) : (s.putMma m).rowsIn = s.rowsIn := rfl
@[simp] theorem State.putMma_noticesIn (s : State) (m : MmaReq) : (s.putMma m).noticesIn = s.noticesIn := rfl
@[simp] theorem State.putMma_returnsIn (s : State) (m : MmaReq) : (s.putMma m).returnsIn = s.returnsIn := rfl
@[simp] theorem State.putMma_chans (s : State) (m : MmaReq) : (s.putMma m).chans = s.chans := rfl
@[simp] theorem State.putMma_srcEntries (s : State) (m : MmaReq) : (s.putMma m).srcEntries = s.srcEntries := rfl
@[simp] theorem State.putMma_dstEntries (s : State) (m : MmaReq) : (s.putMma m).dstEntries = s.dstEntries := rfl
@[simp] theorem State.putMma_chanOps (s : State) (m : MmaReq) : (s.putMma m).chanOps = s.chanOps := rfl
@[simp] theorem State.putMma_drains (s : State) (m : MmaReq) : (s.putMma m).drains = s.drains := rfl
@[simp] theorem State.putMma_net (s : State) (m : MmaReq) : (s.putMma m).net = s.net := rfl
@[simp] theorem State.putMma_unreachable (s : State) (m : MmaReq) : (s.putMma m).unreachable = s.unreachable := rfl
@[simp] theorem State.putMma_portsDown (s : State) (m : MmaReq) : (s.putMma m).portsDown = s.portsDown := rfl
@[simp] theorem State.putMma_contribs (s : State) (m : MmaReq) : (s.putMma m).contribs = s.contribs := rfl
@[simp] theorem State.putMma_rred (s : State) (m : MmaReq) : (s.putMma m).rred = s.rred := rfl

end Sys2Proof.Machine
end

