-- ==== Sys2Proof/Laws/Memory.lean ====
section
/-! SUPPORT. The memory list: a read after a write, and the canonical form that every memory operation keeps. -/

set_option Elab.async false

namespace Sys2Proof.Machine

/-! ## A read after a write -/

theorem memGet_memInsert (m : Memory) (a k : Nat) (v : Byte) : memGet (memInsert m a v) k = if k = a then v else memGet m k := by
  induction m with
  | nil =>
    by_cases h : k = a
    · simp [memInsert, memGet, h]
    · simp [memInsert, memGet, h, Ne.symm h]
  | cons c r ih =>
    obtain ⟨x, b⟩ := c
    by_cases h : k = a
    · subst h
      by_cases h1 : k < x
      · simp [memInsert, memGet, h1]
      · by_cases h2 : k = x
        · simp [memInsert, memGet, h2]
        · simp only [memInsert, memGet, h1, h2, if_false, if_true, ih]
          rw [if_neg (Ne.symm h2)]
    · by_cases h1 : a < x
      · simp [memInsert, memGet, h1, h, Ne.symm h]
      · by_cases h2 : a = x
        · subst h2; simp [memInsert, memGet, h, Ne.symm h]
        · simp [memInsert, memGet, h1, h2, ih, h]

theorem memGet_filter (m : Memory) (p : Host.Cell → Bool) (k : Nat) (h : ∀ b c, p (k, b) = p (k, c)) :
    memGet (m.filter p) k = if p (k, 0) then memGet m k else unlistedByte := by
  induction m with
  | nil => simp [memGet]
  | cons c r ih =>
    obtain ⟨x, b⟩ := c
    by_cases hx : x = k
    · subst hx
      rw [List.filter_cons, h b 0]
      by_cases hp : p (x, 0) = true
      · rw [if_pos hp, if_pos hp]; simp [memGet]
      · rw [if_neg hp, ih, if_neg hp, if_neg hp]
    · rw [List.filter_cons]
      by_cases hp : p (x, b) = true <;> simp [hp, memGet, hx, ih]

theorem memGet_memPut (m : Memory) (a k : Nat) (v : Byte) : memGet (memPut m a v) k = if k = a then v else memGet m k := by
  unfold memPut
  by_cases hv : v = unlistedByte
  · rw [if_pos hv, memGet_filter _ _ _ fun _ _ => rfl]
    by_cases h : k = a <;> simp [h, hv]
  · rw [if_neg hv, memGet_memInsert]

/-- A byte outside the range written reads as before. -/
theorem memGet_memWrite_other (bs : List Byte) : ∀ (m : Memory) (a k : Nat), k < a ∨ a + bs.length ≤ k → memGet (memWrite m a bs) k = memGet m k := by
  induction bs with
  | nil => intros; rfl
  | cons b bs ih =>
    intro m a k h
    simp only [List.length_cons] at h
    rw [memWrite, ih _ _ _ (by omega), memGet_memPut, if_neg (by omega)]

/-- A byte of the range written reads as written. -/
theorem memGet_memWrite (bs : List Byte) : ∀ (m : Memory) (a i : Nat) (h : i < bs.length), memGet (memWrite m a bs) (a + i) = bs[i] := by
  induction bs with
  | nil => intro m a i h; simp at h
  | cons b bs ih =>
    intro m a i h
    cases i with
    | zero =>
      change memGet (memWrite (memPut m a b) (a + 1) bs) a = b
      rw [memGet_memWrite_other bs _ (a + 1) a (.inl (by omega)), memGet_memPut, if_pos rfl]
    | succ i =>
      rw [memWrite, show a + (i + 1) = a + 1 + i by omega, ih _ _ _ (by simpa using h)]
      rfl

@[simp] theorem length_memRead (m : Memory) (n : Nat) : ∀ a, (memRead m a n).length = n := by
  induction n with
  | zero => intro a; rfl
  | succ n ih => intro a; simp [memRead, ih]

theorem getElem_memRead (m : Memory) (n : Nat) : ∀ (a i : Nat) (h : i < (memRead m a n).length), (memRead m a n)[i] = memGet m (a + i) := by
  induction n with
  | zero => intro a i h; simp [memRead] at h
  | succ n ih =>
    intro a i h
    cases i with
    | zero => rfl
    | succ i =>
      have : (memRead m a (n + 1))[i + 1] = (memRead m (a + 1) n)[i]'(by simpa [memRead] using h) := rfl
      rw [this, ih]
      congr 1
      omega

/-- What was written reads back. -/
@[simp] theorem memRead_memWrite (m : Memory) (a : Nat) (bs : List Byte) : memRead (memWrite m a bs) a bs.length = bs := by
  apply List.ext_getElem (by simp)
  intro i h1 h2
  rw [getElem_memRead, memGet_memWrite _ _ _ _ h2]

/-- Two memories that agree on a range read alike there. -/
theorem memRead_congr {m m' : Memory} {a n : Nat} (h : ∀ k, a ≤ k → k < a + n → memGet m k = memGet m' k) : memRead m a n = memRead m' a n := by
  apply List.ext_getElem (by simp)
  intro i h1 h2
  rw [getElem_memRead, getElem_memRead]
  simp at h1
  exact h _ (by omega) (by omega)

/-- A range apart from the one written reads as before. -/
theorem memRead_memWrite_apart (m : Memory) (a : Nat) (bs : List Byte) (k n : Nat) (h : k + n ≤ a ∨ a + bs.length ≤ k) :
    memRead (memWrite m a bs) k n = memRead m k n :=
  memRead_congr fun j h1 h2 => memGet_memWrite_other _ _ _ _ (by omega)

/-- What State.zero leaves of a byte. -/
theorem memGet_zero (s : State) (key n k : Nat) : memGet (s.zero key n).mem k = if key ≤ k ∧ k < key + n then unlistedByte else memGet s.mem k := by
  unfold State.zero
  rw [memGet_filter _ _ _ fun _ _ => rfl]
  by_cases h : key ≤ k ∧ k < key + n <;> simp [h]

/-! ## The canonical form -/

theorem Memory.above_filter {lo : Nat} {m : Memory} (p : Host.Cell → Bool) (h : Memory.above lo m = true) : Memory.above lo (m.filter p) = true := by
  induction m with
  | nil => rfl
  | cons c r ih =>
    obtain ⟨x, b⟩ := c
    simp only [Memory.above, Bool.and_eq_true] at h
    rw [List.filter_cons]
    by_cases hp : p (x, b) = true
    · simp [hp, Memory.above, h.1, ih h.2]
    · simp [hp, ih h.2]

theorem Memory.wf_filter {m : Memory} (p : Host.Cell → Bool) (h : Memory.wf m = true) : Memory.wf (m.filter p) = true := by
  induction m with
  | nil => rfl
  | cons c r ih =>
    obtain ⟨x, b⟩ := c
    simp only [Memory.wf, Bool.and_eq_true] at h
    rw [List.filter_cons]
    by_cases hp : p (x, b) = true
    · simp only [hp, if_true, Memory.wf, Bool.and_eq_true]
      exact ⟨⟨h.1.1, Memory.above_filter p h.1.2⟩, ih h.2⟩
    · simp [hp, ih h.2]

theorem Memory.above_mono {lo hi : Nat} {m : Memory} (hl : lo ≤ hi) (h : Memory.above hi m = true) : Memory.above lo m = true := by
  induction m with
  | nil => rfl
  | cons c r ih =>
    obtain ⟨x, b⟩ := c
    simp only [Memory.above, Bool.and_eq_true, decide_eq_true_eq] at h ⊢
    exact ⟨by omega, ih h.2⟩

theorem Memory.above_memInsert {lo a : Nat} {m : Memory} (v : Byte) (hl : lo < a) (h : Memory.above lo m = true) : Memory.above lo (memInsert m a v) = true := by
  induction m with
  | nil => simp [memInsert, Memory.above, hl]
  | cons c r ih =>
    obtain ⟨x, b⟩ := c
    have h' := h
    simp only [Memory.above, Bool.and_eq_true] at h
    by_cases h1 : a < x
    · simp only [memInsert, h1, if_true]; rw [Memory.above, h']; simp [hl]
    · by_cases h2 : a = x
      · simp [memInsert, h2, Memory.above, h.1, h.2]
      · simp only [memInsert, h1, h2, if_false, Memory.above, h.1, ih h.2, Bool.and_self]

theorem Memory.wf_memInsert {a : Nat} {m : Memory} {v : Byte} (hv : v ≠ unlistedByte) (h : Memory.wf m = true) : Memory.wf (memInsert m a v) = true := by
  induction m with
  | nil => simp [memInsert, Memory.wf, Memory.above, hv]
  | cons c r ih =>
    obtain ⟨x, b⟩ := c
    have h' := h
    simp only [Memory.wf, Bool.and_eq_true] at h
    by_cases h1 : a < x
    · simp only [memInsert, h1, if_true]
      rw [Memory.wf, h']
      have : Memory.above a ((x, b) :: r) = true := by
        simp only [Memory.above, Bool.and_eq_true, decide_eq_true_eq]
        exact ⟨h1, Memory.above_mono (by omega) h.1.2⟩
      simp [hv, this]
    · by_cases h2 : a = x
      · subst h2; simp [memInsert, Memory.wf, hv, h.1.2, h.2]
      · simp only [memInsert, h1, h2, if_false, Memory.wf, Bool.and_eq_true]
        exact ⟨⟨h.1.1, Memory.above_memInsert v (by omega) h.1.2⟩, ih h.2⟩

/-- A byte stored keeps the canonical form. -/
theorem Memory.wf_memPut {m : Memory} (a : Nat) (v : Byte) (h : Memory.wf m = true) : Memory.wf (memPut m a v) = true := by
  unfold memPut
  split
  · exact Memory.wf_filter _ h
  · exact Memory.wf_memInsert ‹_› h

/-- Bytes stored keep it. -/
theorem Memory.wf_memWrite (bs : List Byte) : ∀ {m : Memory} (a : Nat), Memory.wf m = true → Memory.wf (memWrite m a bs) = true := by
  induction bs with
  | nil => exact fun _ h => h
  | cons b bs ih => exact fun a h => ih _ (Memory.wf_memPut a b h)

/-- State.wr keeps it. -/
theorem State.wr_wf {s : State} (key : Nat) (bs : List Byte) (h : Memory.wf s.mem = true) : Memory.wf (s.wr key bs).mem = true := Memory.wf_memWrite bs key h

/-- State.zero keeps it. -/
theorem State.zero_wf {s : State} (key n : Nat) (h : Memory.wf s.mem = true) : Memory.wf (s.zero key n).mem = true := Memory.wf_filter _ h

/-- State.homeWrite keeps it. -/
theorem State.homeWrite_wf {s : State} (key : Nat) (bs : List Byte) (h : Memory.wf s.mem = true) : Memory.wf (s.homeWrite key bs).mem = true := by
  unfold State.homeWrite State.raise
  repeat' split
  all_goals first
    | exact h
    | exact State.wr_wf _ _ h

/-- The memory right after reset has the form. -/
theorem reset_wf : Memory.wf State.reset.mem = true := rfl

theorem memGet_of_above {lo : Nat} {m : Memory} (h : Memory.above lo m = true) {k : Nat} (hk : k ≤ lo) : memGet m k = unlistedByte := by
  induction m with
  | nil => rfl
  | cons c r ih =>
    obtain ⟨x, b⟩ := c
    simp only [Memory.above, Bool.and_eq_true, decide_eq_true_eq] at h
    rw [memGet, if_neg (by omega), ih h.2]

/-- Equal memories are equal lists: two memories in the canonical form that read alike everywhere are one. -/
theorem Memory.ext_of_wf : ∀ {m m' : Memory}, Memory.wf m = true → Memory.wf m' = true → (∀ k, memGet m k = memGet m' k) → m = m' := by
  intro m
  induction m with
  | nil =>
    intro m' _ h' he
    cases m' with
    | nil => rfl
    | cons c r =>
      obtain ⟨x, b⟩ := c
      have := he x
      simp only [Memory.wf, Bool.and_eq_true, decide_eq_true_eq] at h'
      simp [memGet] at this
      exact absurd this.symm h'.1.1
  | cons c r ih =>
    obtain ⟨x, b⟩ := c
    intro m' h h' he
    simp only [Memory.wf, Bool.and_eq_true, decide_eq_true_eq] at h
    cases m' with
    | nil =>
      have := he x
      simp [memGet] at this
      exact absurd this h.1.1
    | cons d q =>
      obtain ⟨y, e⟩ := d
      simp only [Memory.wf, Bool.and_eq_true, decide_eq_true_eq] at h'
      have hxy : x = y := by
        rcases Nat.lt_trichotomy x y with hl | hl | hl
        · have := he x
          rw [memGet, if_pos rfl, memGet, if_neg (by omega), memGet_of_above h'.1.2 (by omega)] at this
          exact absurd this h.1.1
        · exact hl
        · have := he y
          rw [memGet, if_neg (by omega), memGet_of_above h.1.2 (by omega), memGet, if_pos rfl] at this
          exact absurd this.symm h'.1.1
      subst hxy
      have hb : b = e := by simpa [memGet] using he x
      subst hb
      congr 1
      refine ih h.2 h'.2 fun k => ?_
      by_cases hk : k = x
      · subst hk; rw [memGet_of_above h.1.2 (Nat.le_refl _), memGet_of_above h'.1.2 (Nat.le_refl _)]
      · have := he k
        rwa [memGet, if_neg (Ne.symm hk), memGet, if_neg (Ne.symm hk)] at this

end Sys2Proof.Machine
end

