-- ==== Sys2Proof/Laws/Ops.lean ====
section
/-! SUPPORT. What the shared operations over registers, records, home memory and causes do. -/

set_option Elab.async false

namespace Sys2Proof.Machine

/-! ## Registers (R27, R29) -/

@[simp] theorem Thread.rd_zero (t : Thread) : t.rd 0 = 0 := rfl
@[simp] theorem Thread.wr_zero (t : Thread) (v : W32) : t.wr 0 v = t := rfl
@[simp] theorem Thread.wrAt_wbase (t : Thread) (f : Reg) (i : Nat) (v : W32) : (t.wrAt f i v).wbase = t.wbase := by unfold Thread.wrAt; split <;> rfl
@[simp] theorem Thread.wrAt_length (t : Thread) (f : Reg) (i : Nat) (v : W32) : (t.wrAt f i v).regs.length = t.regs.length := by unfold Thread.wrAt; split <;> simp
@[simp] theorem Thread.wr_preds (t : Thread) (f : Reg) (v : W32) : (t.wr f v).preds = t.preds := by unfold Thread.wr Thread.wrAt; split <;> rfl
@[simp] theorem Thread.wr_pc (t : Thread) (f : Reg) (v : W32) : (t.wr f v).pc = t.pc := by unfold Thread.wr Thread.wrAt; split <;> rfl
@[simp] theorem Thread.wr_ref (t : Thread) (f : Reg) (v : W32) : (t.wr f v).ref = t.ref := by unfold Thread.wr Thread.wrAt; split <;> rfl
@[simp] theorem Thread.wr_status (t : Thread) (f : Reg) (v : W32) : (t.wr f v).status = t.status := by unfold Thread.wr Thread.wrAt; split <;> rfl

/-- A register that is allocated reads as it was written. -/
theorem Thread.rd_wr_same (t : Thread) (f : Reg) (v : W32) (hf : f ≠ 0) (h : physAt t.wbase f < t.regs.length) : (t.wr f v).rd f = v := by
  simp only [Thread.rd, Thread.rdAt, Thread.wr, Thread.wrAt, hf, if_false, Nat.add_zero]
  rw [List.getD_eq_getElem?_getD, List.getElem?_set_self h]
  rfl

/-- Another register keeps its value. -/
theorem Thread.rd_wr_other (t : Thread) (f g : Reg) (v : W32) (h : physAt t.wbase f ≠ physAt t.wbase g) : (t.wr f v).rd g = t.rd g := by
  unfold Thread.rd Thread.rdAt Thread.wr Thread.wrAt
  by_cases hf : f = 0
  · simp [hf]
  · simp only [hf, if_false, Nat.add_zero]
    split
    · rfl
    · rw [List.getD_eq_getElem?_getD, List.getD_eq_getElem?_getD, List.getElem?_set_ne h]

@[simp] theorem Thread.pred_seven (t : Thread) : t.pred 7 = true := rfl
@[simp] theorem Thread.setPred_seven (t : Thread) (b : Bool) : t.setPred 7 b = t := rfl
@[simp] theorem Thread.setPred_regs (t : Thread) (p : BitVec 3) (b : Bool) : (t.setPred p b).regs = t.regs := by unfold Thread.setPred; split <;> rfl
@[simp] theorem Thread.setPred_pc (t : Thread) (p : BitVec 3) (b : Bool) : (t.setPred p b).pc = t.pc := by unfold Thread.setPred; split <;> rfl

/-- A predicate reads as it was written; p7 stays true. -/
theorem Thread.pred_setPred (t : Thread) (p q : BitVec 3) (b : Bool) : (t.setPred p b).pred q = if p = q ∧ p ≠ 7 then b else t.pred q := by
  have key : ∀ (w : BitVec 7) (p q : BitVec 3), q ≠ 7 → p ≠ 7 →
      ((w ||| (1#7 <<< p.toNat)).getLsbD q.toNat = if p = q then true else w.getLsbD q.toNat)
      ∧ ((w &&& ~~~(1#7 <<< p.toNat)).getLsbD q.toNat = if p = q then false else w.getLsbD q.toNat) := by decide
  unfold Thread.setPred Thread.pred
  by_cases hp : p = 7
  · simp [hp]
  · rw [if_neg hp]
    by_cases hq : q = 7
    · subst hq; simp
    · have := key t.preds p q hq hp
      rw [if_neg hq, if_neg hq]
      cases b
      · simp only [Bool.false_eq_true, if_false, this.2, hp, ne_eq, not_false_eq_true, and_true]
      · simp only [if_true, this.1, hp, ne_eq, not_false_eq_true, and_true]

/-! ## Records by key -/

theorem updWhere_eq_map {α : Type} (p : α → Bool) (f : α → α) (l : List α) : updWhere p f l = l.map fun x => if p x then f x else x := rfl

@[simp] theorem length_updWhere {α : Type} (p : α → Bool) (f : α → α) (l : List α) : (updWhere p f l).length = l.length := by simp [updWhere_eq_map]

/-- A list none of whose elements is selected stays. -/
theorem updWhere_none {α : Type} {p : α → Bool} (f : α → α) {l : List α} (h : ∀ x ∈ l, p x = false) : updWhere p f l = l := by
  rw [updWhere_eq_map]
  conv => rhs; rw [← List.map_id l]
  exact List.map_congr_left fun x hx => by simp [h x hx]

/-- The first element under a key that an update keeps, after the update. -/
theorem find?_updWhere {α : Type} {p : α → Bool} {f : α → α} (hk : ∀ x, p x = true → p (f x) = true) (l : List α) : (updWhere p f l).find? p = (l.find? p).map f := by
  induction l with
  | nil => rfl
  | cons x xs ih =>
    rw [updWhere_eq_map] at ih ⊢
    by_cases h : p x = true
    · simp [h, hk x h]
    · simp [h, ih]

/-- A thread changed by a function that keeps its name. -/
theorem State.thread?_modThread (s : State) (r : TRef) (f : Thread → Thread) (hf : ∀ t, (f t).ref = t.ref) : (s.modThread r f).thread? r = (s.thread? r).map f :=
  find?_updWhere (fun x h => by simpa [hf] using h) _

/-- A team changed by a function that keeps its grid and index. -/
theorem State.team?_modTeam (s : State) (g i : Nat) (f : Team → Team) (hf : ∀ t, (f t).grid = t.grid ∧ (f t).idx = t.idx) :
    (s.modTeam g i f).team? g i = (s.team? g i).map f :=
  find?_updWhere (fun x h => by simpa [(hf x).1, (hf x).2] using h) _

/-- A grid changed by a function that keeps its identifier. -/
theorem State.grid?_modGrid (s : State) (g : Nat) (f : Grid → Grid) (hf : ∀ x, (f x).id = x.id) : (s.modGrid g f).grid? g = (s.grid? g).map f :=
  find?_updWhere (fun x h => by simpa [hf] using h) _

/-- The entry just put in place. -/
theorem State.entry_putEntry (s : State) (e : SrcEntry) : (s.putEntry e).entry e.key e.dst = e := by
  unfold State.entry State.putEntry
  have : ((s.srcEntries.filter fun x => !(x.key = e.key && x.dst = e.dst)) ++ [e]).find? (fun x => x.key = e.key && x.dst = e.dst) = some e := by
    rw [List.find?_append, List.find?_eq_none.2]
    · simp
    · intro x hx
      have := (List.mem_filter.1 hx).2
      simp only [Bool.not_eq_true', Bool.not_eq_true] at this ⊢
      exact this
  rw [this]
  rfl

/-- A channel's record just put in place. -/
theorem State.chanRec_putChan (s : State) (c : Chan) : (s.putChan c).chanRec c.key = c := by
  unfold State.chanRec State.putChan
  have : ((s.chans.filter fun x => x.key ≠ c.key) ++ [c]).find? (fun x => x.key = c.key) = some c := by
    rw [List.find?_append, List.find?_eq_none.2]
    · simp
    · intro x hx
      have := (List.mem_filter.1 hx).2
      simpa using this
  rw [this]
  rfl

/-! ## Home memory and events (R17, R19, R292) -/

/-- An event record changes memory and the event queue, no more. -/
theorem State.raise_spec (s : State) (cls code : Nat) (detail : List Byte) : ∃ m q, s.raise cls code detail = { s with mem := m, eventQ := q } := by
  unfold State.raise
  split
  · exact ⟨s.mem, s.eventQ, rfl⟩
  · split
    · exact ⟨s.mem, _, rfl⟩
    · exact ⟨_, _, rfl⟩

/-- A store at home changes memory and, in a hole, the event queue. -/
theorem State.homeWrite_spec (s : State) (key : Nat) (bs : List Byte) : ∃ m q, s.homeWrite key bs = { s with mem := m, eventQ := q } := by
  unfold State.homeWrite
  split
  · exact s.raise_spec _ _ _
  · exact ⟨memWrite s.mem key bs, s.eventQ, rfl⟩

/-- Outside a hole it stores the bytes. -/
theorem State.homeWrite_wr {s : State} {key : Nat} (bs : List Byte) (h : s.inHole key = false) : s.homeWrite key bs = s.wr key bs := by
  unfold State.homeWrite; simp [h]

/-- Outside a hole a read is what memory holds, and leaves no trace. -/
theorem State.homeRead_rd {s : State} {key : Nat} (n : Nat) (h : s.inHole key = false) : s.homeRead key n = memRead s.mem key n ∧ s.noteRead key n = s := by
  unfold State.homeRead State.noteRead State.rd; simp [h]

/-- A store that has reached its home changes memory and, in a hole, the event queue. -/
theorem State.landStore_spec (s : State) (key : Nat) (bs : List Byte) (skip : List Nat) : ∃ m q, s.landStore key bs skip = { s with mem := m, eventQ := q } := by
  have fold : ∀ (l : List Nat) (s : State), ∃ m q, l.foldl (fun s i => if s.placeTagged (key + i) 1 || skip.contains i then s else s.homeWrite (key + i) [bs.getD i 0]) s
      = { s with mem := m, eventQ := q } := by
    intro l
    induction l with
    | nil => exact fun s => ⟨s.mem, s.eventQ, rfl⟩
    | cons i is ih =>
      intro s
      simp only [List.foldl_cons]
      split
      · exact ih s
      · obtain ⟨m, q, h⟩ := s.homeWrite_spec (key + i) [bs.getD i 0]
        obtain ⟨m2, q2, h2⟩ := ih { s with mem := m, eventQ := q }
        exact ⟨m2, q2, by rw [h, h2]⟩
  unfold State.landStore
  split
  · exact fold _ s
  · exact s.homeWrite_spec key bs

/-- Outside holes and tagged hurdles it stores the bytes. -/
theorem State.landStore_wr {s : State} {key : Nat} (bs : List Byte) (h : s.inHole key = false) (ht : s.placeTagged key bs.length = false) :
    s.landStore key bs = s.wr key bs := by
  simp [State.landStore, ht, s.homeWrite_wr bs h]

/-- Where no hurdle is tagged a unit's store is a plain one. -/
theorem State.teamLand_wr {s : State} {t : Team} {off : Nat} {bs : List Byte} (h : s.tagHit t.grid t.idx off bs.length = false) :
    s.teamLand t off bs = s.teamWrite t off bs := by
  simp [State.teamLand, h]

/-- With no trace ring an event record of a team is none. -/
theorem State.traceTeam_none {s : State} (h : s.trace = []) (kind core g i tid pc : Nat) (bs : List Byte) : s.traceTeam kind core g i tid pc bs = s := by
  unfold State.traceTeam; simp [h]

/-! ## Taking a cause (R279 to R281) -/

/-- A thread outside trap mode whose kernel has a handler, with no fault wait and no pending set, takes a trap cause at once. -/
theorem State.takeCause_enters {s : State} {r : TRef} {c : Ctx} {f : Fail} {entry : Nat} (hc : s.ctx? r = some c) (he : c.t.status ≠ .exited) (hl : c.team.killed = none)
    (ht : c.t.trap = none) (hn : f.cause ≠ .notPresent) (hb : f.cause ≠ .breakpoint) (hk : c.kernel.trap = some entry) (hw : s.inFaultWait r.grid r.team = false)
    (ha : c.t.awaiting = false) : s.takeCause r f = s.modThread r fun t => t.enterTrap entry f := by
  unfold State.takeCause
  simp [Ctx.fatal, hc, he, hl, ht, hn, hb, hk, hw, ha]

/-- With no handler the team is to be killed as the cycle ends. -/
theorem State.takeCause_kills {s : State} {r : TRef} {c : Ctx} {f : Fail} (hc : s.ctx? r = some c) (he : c.t.status ≠ .exited) (hl : c.team.killed = none) (ht : c.t.trap = none)
    (hn : f.cause ≠ .notPresent) (hb : f.cause ≠ .breakpoint) (hk : c.kernel.trap = none) :
    s.takeCause r f = s.takeFatal r { cause := f.cause.code, tid := c.t.ref.tid, pc := c.t.pc, taddr := f.addr } := by
  unfold State.takeCause
  simp [Ctx.fatal, hc, he, hl, ht, hn, hb, hk]

/-- A cause in trap mode kills with DOUBLE_FAULT. -/
theorem State.takeCause_double {s : State} {r : TRef} {c : Ctx} {f : Fail} (hc : s.ctx? r = some c) (he : c.t.status ≠ .exited) (hl : c.team.killed = none) (ht : c.t.trap ≠ none) :
    s.takeCause r f = s.takeFatal r { cause := 0x1B, met := f.cause.code, tid := c.t.ref.tid, pc := c.t.pc, taddr := f.addr } := by
  unfold State.takeCause
  simp [Ctx.fatal, hc, he, hl, Option.isSome_iff_ne_none, ht]

/-- A missing page posts a fault record or joins one. -/
theorem State.takeCause_faults {s : State} {r : TRef} {c : Ctx} {f : Fail} (hc : s.ctx? r = some c) (he : c.t.status ≠ .exited) (hl : c.team.killed = none) (ht : c.t.trap = none)
    (hn : f.cause = .notPresent) : s.takeCause r f = s.systemFault c.t c.asid f.addr f.kind f.level := by
  unfold State.takeCause
  simp [Ctx.fatal, hc, he, hl, ht, hn]

/-! ## The privileged ring (R291) -/

/-- A privileged command with no command of its opcode at HEAD does nothing. -/
theorem State.privDo_none {s : State} {op : Nat} (f : List Byte → State → Status × State) (h : s.privFor op = none) : s.privDo op f = .next s := by
  unfold State.privDo; simp [h, finish]

/-- One with its command at HEAD: its effect, HEAD, its completion record. -/
theorem State.privDo_some {s t : State} {op : Nat} {bs : List Byte} {st : Status} {f : List Byte → State → Status × State} (h : s.privFor op = some bs) (hf : f bs s = (st, t))
    : s.privDo op f = finish s (t.privAdvance.privRecord bs st) := by
  unfold State.privDo; simp [h, hf]

end Sys2Proof.Machine
end

