-- ==== Sys2Proof/Tests/Slice0.lean ====
section
/-! SUPPORT. The model's own tests: ill-formed instructions refused, words of every family decoded, and for every statement with hypotheses a theorem that applies it to
states and operands that meet them, clause by clause. -/

set_option Elab.async false

namespace Sys2Proof.Tests

open Sys2Proof Sys2Proof.Machine Sys2Proof.Statements

/-! ## States for the tests -/

/-- The instruction runs to a next state. -/
def Runs (i : Instr) (s : State) : Prop := ∃ u, exec i s = .next u

/-- The thread of the tests: thread 0 of the placed team with 48 registers, those from v16 on as given. -/
def one (ws : List W32) : Thread :=
  { startThread placedRef 0 48 16384 0 0 with regs := List.replicate 16 0 ++ ws ++ List.replicate (32 - ws.length) 0 }

/-- The placed program with that thread alone as the gang under way. -/
def demo (ws : List W32) : State := { State.reset.withFetchWord 32 0 with gang := [placedRef], issueQ := [], threads := [one ws] }

/-- The placed program with one thread as the gang under way. -/
def alone (t : Thread) : State := { State.reset.withFetchWord 32 0 with gang := [placedRef], issueQ := [], threads := [t] }

/-- The surroundings of a thread of the placed program. -/
def around (t : Thread) : Ctx :=
  { t := t, team := placedTeam, grid := placedGrid, code := placedCode [0], core := 0
    kernel := { entry := 0, trap := none, teamSize := 1, alloc := 512, scratch := 4096, carve := 0xFF, system := true, restartable := false, params := 0 } }

/-- A fact that the kernel computes. -/
theorem computed {p : Prop} [Decidable p] (h : decide p = true := by decide +kernel) : p := of_decide_eq_true h

/-- The registers of a word may be used, as a check that computes. -/
theorem mayUse {t : Thread} {os : List Operand} (h : ((t.phys os).all fun p => decide (p < t.regs.length) && t.windows.all fun w => !w.regs.contains p) = true) : t.canUse os := by
  intro p hp
  have e := List.all_eq_true.1 h p hp
  simp only [Bool.and_eq_true, decide_eq_true_eq, List.all_eq_true, Bool.not_eq_true', List.contains_eq_mem, decide_eq_false_iff_not] at e
  exact e

/-- One thread that stands alone issues a word. -/
theorem issues {s : State} {i : Instr} {c : Ctx} (hg : s.gang = [placedRef]) (hc : s.ctx? placedRef = some c) (hs : s.threads = [c.t])
    (hq : c.t.taken = none ∧ c.t.status = .ready ∧ c.t.guardedOff = false ∧ c.t.pc + 4 < c.code.size ∧ c.kernel.system = true) (hu : c.t.canUse (operands i))
    (hf : s.fences = [] := by rfl) (hw : s.scratchPending placedRef = false := by rfl) : s.Issues i placedRef c :=
  ⟨hg, hc, fun _ ht _ => List.mem_singleton.1 (hs ▸ ht), hq.1, hq.2.1, hq.2.2.1, hu, hq.2.2.2.1, fun _ => hq.2.2.2.2, by simp [hf], fun _ => hw⟩

/-- Such a thread meets nothing at the word. -/
theorem clear {s : State} {i : Instr} {c : Ctx} (h : s.Issues i placedRef c) (hs : s.threads = [c.t]) (falls : Thread → Bool) : s.Clear i falls := by
  intro t ht _
  have e : t = c.t := List.mem_singleton.1 (hs ▸ ht)
  subst e
  exact ⟨c, (State.ref_of_ctx h.ctx) ▸ h.ctx, rfl, h.ready, h.untaken, fun _ => h.falls, fun _ => h.uses⟩

/-- The thread of the tests issues a word whose registers it may use. -/
theorem demo_issues (ws : List W32) (i : Instr) (hu : (one ws).canUse (operands i)) : (demo ws).Issues i placedRef (around (one ws)) :=
  issues rfl rfl rfl ⟨rfl, rfl, rfl, show 4 < (placedCode [0]).size by decide, rfl⟩ hu

/-- It meets nothing there. -/
theorem demo_clear (ws : List W32) (i : Instr) (hu : (one ws).canUse (operands i)) (falls : Thread → Bool := fun _ => true) : (demo ws).Clear i falls :=
  clear (demo_issues ws i hu) rfl falls

/-- What holds in the thread's surroundings holds in every active thread of the gang. -/
theorem active {s : State} {c : Ctx} {p : Ctx → Prop} (hg : s.gang = [placedRef]) (hc : s.ctx? placedRef = some c) (h : p c) : s.EachActive p := by
  intro r hr d hd _
  rw [hg, List.mem_singleton] at hr
  subst hr
  rw [hc] at hd
  cases hd
  exact h

/-! ## Where the statements' hypotheses are met: register words -/

theorem test_integer_words (h : Obligations.IntegerWordResults) : Runs (.iadd 18 16 17) (demo [0xFFFFFFFF, 1]) ∧ Runs (.sar 16 16 17) (demo [0x80000000, 32]) := by
  obtain ⟨_, -, e⟩ := h (demo [0xFFFFFFFF, 1]) (.iadd 18 16 17) 18 16 17 rfl (demo_clear _ _ (mayUse rfl))
  obtain ⟨_, -, e'⟩ := h (demo [0x80000000, 32]) (.sar 16 16 17) 16 16 17 rfl (demo_clear _ _ (mayUse rfl))
  exact ⟨⟨_, e⟩, ⟨_, e'⟩⟩

theorem test_pair_words (h : Obligations.PairWordResults) : Runs (.add64 20 16 18) (demo [0xFFFFFFFF, 0xFFFFFFFF, 1]) :=
  ⟨_, h (demo [0xFFFFFFFF, 0xFFFFFFFF, 1]) (.add64 20 16 18) _ rfl (demo_clear _ _ (mayUse rfl))⟩

theorem test_unary_words (h : Obligations.UnaryAndImmediateResults) : Runs (.iabs 16 16) (demo [0x80000000]) := by
  obtain ⟨_, -, e⟩ := h (demo [0x80000000]) (.iabs 16 16) 16 16 rfl (demo_clear _ _ (mayUse rfl))
  exact ⟨_, e⟩

theorem test_constant_words (h : Obligations.ConstantWordResults) : Runs (.movhi 16 0x7FFFF) (demo [1]) :=
  ⟨_, h (demo [1]) (.movhi 16 0x7FFFF) _ rfl (demo_clear _ _ (mayUse rfl))⟩

theorem test_predicate_words (h : Obligations.PredicateWordResults) : Runs (.icmp .lt .xor 7 16 17) (demo [1, 2]) ∧ Runs (.sel 7 true 16 16 17) (demo [1, 2]) := by
  obtain ⟨_, -, e⟩ := h.1 (demo [1, 2]) (.icmp .lt .xor 7 16 17) 7 _ rfl (demo_clear _ _ (mayUse rfl))
  exact ⟨⟨_, e⟩, ⟨_, h.2 (demo [1, 2]) (.sel 7 true 16 16 17) _ rfl (demo_clear _ _ (mayUse rfl))⟩⟩

theorem test_fp32_words (h : Obligations.Fp32WordResults) : Runs (.ffma true true 16 17 18) (demo [1, 0x3F800000]) ∧ Runs (.frcp false true 17 16) (demo [0]) :=
  ⟨⟨_, h.1 (demo [1, 0x3F800000]) (.ffma true true 16 17 18) 3 true true 16 17 18 rfl (demo_clear _ _ (mayUse rfl))⟩,
   ⟨_, h.2.1 (demo [0]) (.frcp false true 17 16) false true 17 16 _ rfl (demo_clear _ _ (mayUse rfl))⟩⟩

theorem test_packed_words (h : Obligations.PackedAndDoubleWordResults) : Runs (.paddH false false 18 16 17) (demo [0x3C003C00, 1]) ∧ Runs (.dadd true false 20 16 18) (demo [1]) :=
  ⟨⟨_, h.1 (demo [0x3C003C00, 1]) (.paddH false false 18 16 17) fp16 0 false false 18 16 17 rfl (demo_clear _ _ (mayUse rfl))⟩,
   ⟨_, h.2 (demo [1]) (.dadd true false 20 16 18) 0 true false 20 16 18 rfl (demo_clear _ _ (mayUse rfl))⟩⟩

theorem test_conversions (h : Obligations.ConversionResults) : Runs (.cvt .s32F32 17 16 0) (demo [0x7FC00000]) :=
  ⟨_, h (demo [0x7FC00000]) (.cvt .s32F32 17 16 0) _ rfl (demo_clear _ _ (mayUse rfl))⟩

theorem test_narrow_words (h : Obligations.NarrowWordResults) : Runs (.unpk8E4m3 20 16) (demo [0x7F]) ∧ Runs (.resdec 17 16) (demo [31]) := by
  obtain ⟨_, e, -⟩ := h.2 (demo [31]) 17 16 (demo_clear _ _ (mayUse rfl))
  exact ⟨⟨_, h.1 (demo [0x7F]) (.unpk8E4m3 20 16) _ rfl (demo_clear _ _ (mayUse rfl))⟩, ⟨_, e⟩⟩

theorem test_special_words (h : Obligations.SpecialRegisterWords) : Runs (.srd 16 .cycleLo) (demo []) ∧ Runs (.swr 16) (demo [1]) ∧ Runs (.movk 16 63) (demo []) :=
  ⟨⟨_, h.1 (demo []) 16 .cycleLo (demo_clear _ _ (mayUse rfl))⟩, ⟨_, h.2.1 (demo [1]) 16 (demo_clear _ _ (mayUse rfl))⟩,
   ⟨_, h.2.2 (demo []) 16 63 (demo_clear _ _ (mayUse rfl))⟩⟩

/-! ## Control -/

theorem test_window_words (h : Obligations.WindowAndGuardWords) :
    Runs .nop (demo []) ∧ Runs .csync (demo []) ∧ Runs (.win 31) (demo []) ∧ Runs (.winr 16) (demo [496]) ∧ Runs (.grd 7 true 7) (demo []) :=
  ⟨⟨_, (h (demo [])).1 (demo_clear _ _ (mayUse rfl))⟩, ⟨_, (h (demo [])).2.1 (demo_clear _ _ (mayUse rfl))⟩, ⟨_, (h (demo [])).2.2.1 31 (demo_clear _ _ (mayUse rfl))⟩,
   ⟨_, (h (demo [496])).2.2.2.1 16 (demo_clear _ _ (mayUse rfl)) (active rfl rfl (by decide))⟩, ⟨_, (h (demo [])).2.2.2.2 7 true 7 (demo_clear _ _ (mayUse rfl))⟩⟩

/-- The thread of the tests with a stack of its own. -/
def deep (st : List (Nat × Nat)) : Thread := { one [] with stack := st }

theorem pushed {s d : State} {o : Host.Outcome State Fault Refusal} (h : pushes s o d) : ∃ u, o = .next u := h.imp fun _ e => e.1

theorem test_transfers (h : Obligations.ControlTransfers) :
    Runs (.bra 7 false 15) (demo []) ∧ Runs (.call (-1)) (demo []) ∧ Runs (.jmpi 16) (demo [64]) ∧ Runs (.calli 16) (demo [64]) ∧ Runs .ret (alone (deep [(64, 16)])) :=
  ⟨⟨_, (h (demo [])).1 7 false 15 (demo_clear _ _ (mayUse rfl) _) (active rfl rfl (by decide))⟩,
   pushed ((h (demo [])).2.1 (-1) (demo_clear _ _ (mayUse rfl) _) (active rfl rfl (by decide))),
   ⟨_, (h (demo [64])).2.2.1 16 (demo_clear _ _ (mayUse rfl) _) (active rfl rfl (by decide))⟩,
   pushed ((h (demo [64])).2.2.2.1 16 (demo_clear _ _ (mayUse rfl) _) (active rfl rfl (by decide))),
   ⟨_, (h (alone (deep [(64, 16)]))).2.2.2.2
     (clear (issues rfl (c := around (deep [(64, 16)])) rfl rfl ⟨rfl, rfl, rfl, by decide, rfl⟩ (mayUse rfl)) rfl _)
     (active rfl (c := around (deep [(64, 16)])) rfl ⟨⟨64, 16, [], rfl, by decide, by decide⟩, fun x => absurd x (by decide)⟩)⟩⟩

/-- Five entries: the fifth from the top stands in device memory. -/
def five : List (Nat × Nat) := (64, 16) :: List.replicate 4 (4, 0)

theorem test_deep_stack (h : Obligations.ControlTransfers) : (∃ u : State, exec (.call 1) (alone (deep (List.replicate 4 (4, 0)))) = .next u ∧ leNat (memRead u.mem 0 4) = 4)
    ∧ Runs .ret (alone (deep five)) := by
  obtain ⟨u, e, -, -, w⟩ := (h (alone (deep (List.replicate 4 (4, 0))))).2.1 1
    (clear (issues rfl (c := around (deep (List.replicate 4 (4, 0)))) rfl rfl ⟨rfl, rfl, rfl, by decide, rfl⟩ (mayUse rfl)) rfl _)
    (active rfl (c := around (deep (List.replicate 4 (4, 0)))) rfl (by decide))
  have here {p : Ctx → Nat → Prop} (x : p (around (deep (List.replicate 4 (4, 0)))) 0) : eachSpill (alone (deep (List.replicate 4 (4, 0)))) p :=
    active rfl (c := around (deep (List.replicate 4 (4, 0)))) rfl fun _ => x
  obtain ⟨-, -, k⟩ := w (here rfl)
  have l := k placedRef (by decide) (around (deep (List.replicate 4 (4, 0)))) rfl rfl (by decide) (here fun x => absurd rfl x)
  exact ⟨⟨u, e, l.1⟩, ⟨_, (h (alone (deep five))).2.2.2.2
     (clear (issues rfl (c := around (deep five)) rfl rfl ⟨rfl, rfl, rfl, by decide, rfl⟩ (mayUse rfl)) rfl _)
     (active rfl (c := around (deep five)) rfl ⟨⟨64, 16, _, rfl, by decide, by decide⟩, fun _ => rfl⟩)⟩⟩

/-- The thread in trap mode, to go back to word 4 or past it. -/
def trapped : Thread := { one [] with trap := some { cause := 15, tpc := 4, taddr := 0, tinfo := true, wbase := 16, depth := 0, gval := true, gcnt := 3 } }

theorem test_ends (h : Obligations.ThreadAndTrapEnds) : Runs .exit (demo []) ∧ Runs .ret (demo []) ∧ Runs .tret (alone trapped) :=
  ⟨⟨_, (h (demo [])).1 (demo_clear _ _ (mayUse rfl) _)⟩, ⟨_, (h (demo [])).2.1 (demo_clear _ _ (mayUse rfl) _) (active rfl rfl (by decide))⟩,
   ⟨_, (h (alone trapped)).2.2 (fun _ => { cause := 15, tpc := 4, taddr := 0, tinfo := true, wbase := 16, depth := 0, gval := true, gcnt := 3 })
     (clear (issues rfl (c := around trapped) rfl rfl ⟨rfl, rfl, rfl, by decide, rfl⟩ (mayUse rfl)) rfl _) (active rfl (c := around trapped) rfl (by decide))⟩⟩

/-- The kernel of the placed program with a trap entry. -/
def trapKernel : Kernel := { (around (one [])).kernel with trap := some 8 }

/-- A state of the tests whose kernel has a trap entry. -/
def withTrap (s : State) : State := { s with codes := [{ placedCode [0] with kernels := [trapKernel] }] }

/-- The surroundings of a thread there. -/
def aroundTrap (t : Thread) : Ctx := { around t with code := { placedCode [0] with kernels := [trapKernel] }, kernel := trapKernel }

theorem test_trap_words (h : Obligations.TrapWordsEnterTrapMode) : Runs (.trap 0x3FFF) (withTrap (demo [])) ∧ Runs .brk (withTrap (demo [])) := by
  have e := h (withTrap (demo [])) placedRef (aroundTrap (one [])) 8 rfl rfl rfl rfl rfl
  exact ⟨⟨_, e.1 0x3FFF (issues rfl rfl rfl ⟨rfl, rfl, rfl, by decide, rfl⟩ (mayUse rfl))⟩,
    ⟨_, e.2 (issues rfl rfl rfl ⟨rfl, rfl, rfl, by decide, rfl⟩ (mayUse rfl)) rfl⟩⟩

theorem test_collectives (h : Obligations.CollectiveResults) :
    Runs (.xlane .below 17 16 16) (demo [1]) ∧ Runs (.psame 1 7 true) (demo []) ∧ Runs (.ballot 16 0 true) (demo []) ∧ Runs (.fredx .max 17 16) (demo [0x7FC00000]) := by
  obtain ⟨_, -, e2⟩ := h.2.1 (demo []) (.psame 1 7 true) 1 _ rfl (demo_clear _ _ (mayUse rfl))
  obtain ⟨_, e3, -⟩ := h.2.2.1 (demo []) 16 0 true (demo_clear _ _ (mayUse rfl))
  exact ⟨⟨_, h.1 (demo [1]) (.xlane .below 17 16 16) 17 _ rfl (demo_clear _ _ (mayUse rfl))⟩, ⟨_, e2⟩, ⟨_, e3⟩,
    ⟨_, h.2.2.2 (demo [0x7FC00000]) .max 17 16 (demo_clear _ _ (mayUse rfl))⟩⟩


/-! ## Memory words -/

/-- Two pages of context 1 in core 0's translations: addresses 0 to FFFF in tower 0 of die 0, 10000 to 1FFFF in tower 2 of die 1. -/
def pages : List TlbEntry := [⟨0, 1, 0, 65536, 0x1F⟩, ⟨0, 1, 65536, 65536, 0x200000011F⟩]

/-- The thread of the tests alone with those pages. -/
def paged (ws : List W32) : State := { demo ws with tlb := pages }

/-- The thread of the tests issues a word from any state that holds it so. -/
theorem at_word {s : State} {ws : List W32} {i : Instr} (hg : s.gang = [placedRef]) (hc : s.ctx? placedRef = some (around (one ws))) (hs : s.threads = [one ws])
    (hu : (one ws).canUse (operands i)) (hf : s.fences = [] := by rfl) (hw : s.scratchPending placedRef = false := by rfl) : s.Issues i placedRef (around (one ws)) :=
  issues hg hc hs ⟨rfl, rfl, rfl, show 4 < (placedCode [0]).size by decide, rfl⟩ hu hf hw

/-- The place of an address below 64 KiB. -/
def near (key : Nat) : Place := { key := key, home := 0, host := false, aperture := false }

/-- The place of an address in the page of die 1. -/
def far (off : Nat) : Place := { key := 2 ^ 37 + off, home := 1, host := false, aperture := false }

theorem test_load_words (h : Obligations.LoadWordsStart) : Runs (.ldg 0 .w128 20 16 (-32)) (paged [512]) ∧ Runs (.lds 0 .w32 20 16 1) (demo [4088]) ∧ Runs (.ldk 0 .w32 20 16 0) (demo [65532]) := by
  obtain ⟨_, _, _, -, e, -⟩ := (h (paged [512]) (.ldg 0 .w128 20 16 (-32)) placedRef (around (one [512])) (at_word rfl rfl rfl (mayUse rfl))).1 _ _ _ _ _ _ (near 0) rfl
    ⟨rfl, .inl (by decide), rfl, fun _ => ⟨rfl, rfl⟩⟩
  obtain ⟨_, _, e2, -⟩ := (h (demo [4088]) (.lds 0 .w32 20 16 1) placedRef (around (one [4088])) (at_word rfl rfl rfl (mayUse rfl))).2 _ _ _ _ _ rfl (by decide) (by decide) (by decide)
  obtain ⟨_, _, e3, -⟩ := (h (demo [65532]) (.ldk 0 .w32 20 16 0) placedRef (around (one [65532])) (at_word rfl rfl rfl (mayUse rfl))).2 _ _ _ _ _ rfl (by decide) (by decide) (by decide)
  exact ⟨⟨_, e⟩, ⟨_, e2⟩, ⟨_, e3⟩⟩

/-- A load of the tests in flight, its source, size and value as given. -/
def flight (source : LoadFrom) (n : Nat) (value : Option (List Byte)) : Load :=
  { op := 1, thread := placedRef, source := source, place := 0, va := 0, size := n, widen := .plain, d := 16, wbase := 0, remote := false, home := 0, highFirst := true
    value := value }

/-- The state with that load. -/
def flying (source : LoadFrom) (n : Nat) (value : Option (List Byte)) : State := { paged [] with subject := [1], loads := [flight source n value] }

theorem test_loads_return (h : Obligations.LoadsReturn) :
    Runs .loadDataReturn (flying .scratch 8 none) ∧ Runs .loadDataReturn (flying (.memory false) 4 none) ∧ Runs .loadDataReturn (flying .konst 16 none)
    ∧ Runs .loadDataReturn (flying .scratch 16 (some (List.replicate 8 1))) ∧ Runs .loadDataReturn (flying .scratch 4 (some [1, 2, 3, 4])) := by
  have at' (source n value) := h (flying source n value) (flight source n value) placedTeam rfl rfl nofun
  obtain ⟨_, _, e, -⟩ := (at' .scratch 8 none).1 rfl rfl (by decide)
  obtain ⟨_, _, e2, -⟩ := (at' (.memory false) 4 none).1 rfl rfl (by decide)
  obtain ⟨_, _, e3, -⟩ := (at' .konst 16 none).2.1 rfl rfl rfl
  obtain ⟨_, _, e4, -⟩ := (at' .scratch 16 (some (List.replicate 8 1))).2.2.1 _ rfl rfl rfl rfl
  exact ⟨⟨_, e⟩, ⟨_, e2⟩, ⟨_, e3⟩, ⟨_, e4⟩, ⟨_, (at' .scratch 4 (some [1, 2, 3, 4])).2.2.2 _ rfl rfl⟩⟩

/-- The thread of the tests with an interval that its team holds writable over the first 64 KiB. -/
def owning (ws : List W32) : State :=
  { paged ws with intervals := [{ asid := 1, base := 0, len := 65536, writable := true, grid := 1, team := 0, core := some 0, home := 0 }] }

/-- The thread has no load in flight and no returning atomic that waits. -/
theorem at_rest {s : State} (hl : s.loads = [] := by rfl) (ha : s.atoms = [] := by rfl) : quiet s placedRef := ⟨by simp [hl], by simp [ha]⟩

theorem test_global_stores (h : Obligations.GlobalStoreWords) : Runs (.stg false .w64 20 16 31) (paged [65280]) ∧ Runs (.stgb true .b8 20 16 0) (paged [65536])
    ∧ Runs (.stg true .w32 20 16 0) (owning [256]) := by
  obtain ⟨_, _, -, e, -⟩ := (h (paged [65280]) (.stg false .w64 20 16 31) placedRef (around (one [65280])) _ _ _ _ _ (near 65528) (at_word rfl rfl rfl (mayUse rfl)) rfl
    ⟨rfl, .inl (by decide), rfl, fun _ => ⟨rfl, rfl⟩⟩ rfl rfl at_rest).1 (fun _ _ _ _ => rfl) rfl (fun x => absurd rfl x)
  obtain ⟨_, _, -, e2, -⟩ := (h (paged [65536]) (.stgb true .b8 20 16 0) placedRef (around (one [65536])) _ _ _ _ _ (far 0) (at_word rfl rfl rfl (mayUse rfl)) rfl
    ⟨rfl, .inl (by decide), rfl, fun _ => ⟨rfl, rfl⟩⟩ rfl rfl at_rest).1 (fun _ _ _ _ => rfl) rfl (fun _ => ⟨rfl, rfl⟩)
  obtain ⟨_, _, -, e3, -⟩ := (h (owning [256]) (.stg true .w32 20 16 0) placedRef (around (one [256])) _ _ _ _ _ (near 256) (at_word rfl rfl rfl (mayUse rfl)) rfl
    ⟨rfl, .inl (by decide), rfl, fun _ => ⟨rfl, rfl⟩⟩ rfl rfl at_rest).2 rfl (fun k h1 h2 => by
      have e : k < 65536 := Nat.lt_trans h2 (by decide)
      simp [State.ownsByte, owning, around, one, startThread, placedRef, Interval.meets, Interval.heldBy, overlap, Ctx.asid, placedGrid, e]) rfl (fun _ _ => rfl)
  exact ⟨⟨_, e⟩, ⟨_, e2⟩, ⟨_, e3⟩⟩


/-- An answer that is a place, as a check that computes. -/
theorem is_place {x : Except Fail Place} {p : Place} (h : (match x with | .ok q => decide (q = p) | .error _ => false) = true) : x = .ok p := by
  cases x with
  | ok q => exact congrArg _ (of_decide_eq_true h)
  | error _ => cases h

theorem test_scratch_stores (h : Obligations.ScratchStoreWords) : Runs (.sts .w128 20 16 0) (demo [4080]) ∧ Runs (.stg false .w128 20 16 0) (demo [0, 0xFF0000]) := by
  obtain ⟨_, e, -⟩ := (h (demo [4080]) (.sts .w128 20 16 0) placedRef (around (one [4080])) (at_word rfl rfl rfl (mayUse rfl)) at_rest).1 _ _ _ _ rfl
    (by decide) (by decide) (by decide) rfl rfl rfl
  obtain ⟨_, e2, -⟩ := (h (demo [0, 0xFF0000]) (.stg false .w128 20 16 0) placedRef (around (one [0, 0xFF0000])) (at_word rfl rfl rfl (mayUse rfl)) at_rest).2 _ _ _ _ _
    { key := scratchKey 0 0, home := 0, host := false, aperture := true } rfl ⟨rfl, .inl (by decide), is_place computed, fun x => absurd x computed⟩ rfl rfl rfl rfl rfl rfl
  exact ⟨⟨_, e⟩, ⟨_, e2⟩⟩

/-- A write-through of the tests on its way to its home on the own die. -/
def passing : WriteThrough := { op := 1, core := 0, thread := placedRef, place := 0, bytes := [1, 0], chan := none, explicit := false, seen := [] }

theorem test_store_home (h : Obligations.StoresReachTheirHome) : Runs .writeThroughAck { demo [] with subject := [1], wtb := [passing] } := by
  obtain ⟨_, e, -⟩ := h { demo [] with subject := [1], wtb := [passing] } passing rfl rfl rfl rfl (by decide) rfl
  exact ⟨_, e⟩

theorem test_fences (h : Obligations.FenceAndPrefetchWords) : Runs (.fenceAcq 0 .system) (demo []) ∧ Runs (.fenceRel 0 .team) (demo []) ∧ Runs (.pref 0 16 18) (demo []) := by
  obtain ⟨_, e, -⟩ := (h (demo []) (.fenceAcq 0 .system) placedRef (around (one [])) (at_word rfl rfl rfl (mayUse rfl))).1 0 .system (.inl rfl) rfl rfl (fun _ => rfl) (fun x => by cases x)
  obtain ⟨_, e3, -⟩ := (h (demo []) (.pref 0 16 18) placedRef (around (one [])) (at_word rfl rfl rfl (mayUse rfl))).2.2.2 0 16 18 rfl
  exact ⟨⟨_, e⟩, ⟨_, (h (demo []) (.fenceRel 0 .team) placedRef (around (one [])) (at_word rfl rfl rfl (mayUse rfl))).2.1 0 .team rfl rfl rfl⟩, ⟨_, e3⟩⟩

/-- The thread of the tests with a store of its own on its way, and the fences of the system scope that wait for it. -/
theorem test_open_fences (h : Obligations.FenceAndPrefetchWords) :
    Runs (.fenceRel 0 .system) { demo [] with wtb := [{ passing with op := 0 }], nextOp := 2 } ∧ Runs (.fenceAcq 0 .package) { demo [] with loads := [flight .scratch 8 none], nextOp := 2 } :=
  ⟨⟨_, (h { demo [] with wtb := [{ passing with op := 0 }], nextOp := 2 } (.fenceRel 0 .system) placedRef (around (one [])) (at_word rfl rfl rfl (mayUse rfl))).2.2.1 0 .system false true
      (.inr (.inl ⟨rfl, rfl, rfl⟩)) rfl (.inr ⟨rfl, by decide⟩)⟩,
   ⟨_, (h { demo [] with loads := [flight .scratch 8 none], nextOp := 2 } (.fenceAcq 0 .package) placedRef (around (one [])) (at_word rfl rfl rfl (mayUse rfl))).2.2.1 0 .package true false
      (.inl ⟨rfl, rfl, rfl⟩) rfl (.inl ⟨rfl, .inl (by decide)⟩)⟩⟩

theorem test_access_checks (h : Obligations.AccessChecks) : Runs (.ldg 0 .w32 20 16 0) (paged [2]) ∧ Runs (.stg false .w32 20 16 0) (paged [0, 0x01000000])
    ∧ Runs (.ldg 0 .w32 20 16 0) (paged [0x20000]) ∧ Runs (.sts .w32 20 16 0) (demo [1]) ∧ Runs (.lds 0 .w32 20 16 0) (demo [4096]) ∧ Runs (.ldk 0 .w32 20 16 (-1)) (demo [0]) := by
  obtain ⟨_, -, -, e⟩ := ((h (paged [0x20000]) (.ldg 0 .w32 20 16 0) placedRef (around (one [0x20000])) (at_word rfl rfl rfl (mayUse rfl))).1 _ _ _ .read (.inl ⟨_, _, _, rfl, rfl⟩)).2.2 1 rfl
    (.inl (by decide)) rfl rfl rfl
  refine ⟨⟨_, ((h (paged [2]) (.ldg 0 .w32 20 16 0) placedRef (around (one [2])) (at_word rfl rfl rfl (mayUse rfl))).1 _ _ _ .read (.inl ⟨_, _, _, rfl, rfl⟩)).1 (by decide)⟩,
    ⟨_, ((h (paged [0, 0x01000000]) (.stg false .w32 20 16 0) placedRef (around (one [0, 0x01000000])) (at_word rfl rfl rfl (mayUse rfl))).1 _ _ _ .write (.inr ⟨_, _, rfl, rfl⟩)).2.1
      rfl (by rintro (x | ⟨x, -⟩) <;> exact absurd x (by decide))⟩,
    ⟨_, e⟩,
    ⟨_, ((h (demo [1]) (.sts .w32 20 16 0) placedRef (around (one [1])) (at_word rfl rfl rfl (mayUse rfl))).2 _ _ _ _ (.inr ⟨_, _, rfl, rfl, rfl⟩)).1 (by decide)⟩,
    ⟨_, ((h (demo [4096]) (.lds 0 .w32 20 16 0) placedRef (around (one [4096])) (at_word rfl rfl rfl (mayUse rfl))).2 _ _ _ _ (.inl ⟨_, _, rfl, rfl⟩)).2 (by decide) (.inr (by decide))⟩,
    ⟨_, ((h (demo [0]) (.ldk 0 .w32 20 16 (-1)) placedRef (around (one [0])) (at_word rfl rfl rfl (mayUse rfl))).2 _ _ _ _ (.inl ⟨_, _, rfl, rfl⟩)).2 (by decide) (.inl (by decide))⟩⟩

/-! ## Hurdles and atomics -/

/-- A hurdle at offset 0 of the placed team's scratch. -/
def bare : HurdleTag := { grid := 1, team := 0, off := 0, now := { scopes := [], channels := [] }, past := [] }

/-- The thread of the tests with that hurdle, its words as given: arrivals in bytes 6 and 7, flags from byte 12. -/
def hurdled (ws : List W32) (cells : List (Nat × Byte)) : State := { demo ws with hurdles := [bare], mem := cells.map fun x => (scratchKey 0 x.1, x.2) }

theorem test_hurdle_words (h : Obligations.HurdleWordsAct) :
    Runs (.arriveRel 0 .system 16 0) (hurdled [0] [(6, 1)]) ∧ Runs (.arriveRlx 0 16 17) (hurdled [0, 65535] []) ∧ Runs (.expect 0 16 17) (hurdled [0, 0x7FFFFFFF] [])
    ∧ Runs (.hinit 0 16 17) (demo [4080, 0x80000001]) ∧ Runs (.hinit 0 16 0) (hurdled [0] []) := by
  obtain ⟨_, e, -⟩ := (h (hurdled [0] [(6, 1)]) (.arriveRel 0 .system 16 0) placedRef (around (one [0])) (at_word rfl rfl rfl (mayUse rfl))).1 _ _ _ _ bare rfl
    ⟨by decide, by decide, rfl, rfl⟩ ⟨rfl, by decide⟩ rfl rfl
  obtain ⟨_, e2, -⟩ := (h (hurdled [0, 65535] []) (.arriveRlx 0 16 17) placedRef (around (one [0, 65535])) (at_word rfl rfl rfl (mayUse rfl))).1 _ _ _ _ bare rfl
    ⟨by decide, by decide⟩ ⟨rfl, by decide⟩ rfl rfl
  obtain ⟨_, e3, -⟩ := (h (hurdled [0, 0x7FFFFFFF] []) (.expect 0 16 17) placedRef (around (one [0, 0x7FFFFFFF])) (at_word rfl rfl rfl (mayUse rfl))).1 _ _ _ _ bare rfl
    (by decide) ⟨rfl, by decide⟩ rfl rfl
  obtain ⟨_, e4, -⟩ := (h (demo [4080, 0x80000001]) (.hinit 0 16 17) placedRef (around (one [4080, 0x80000001])) (at_word rfl rfl rfl (mayUse rfl))).2 _ _ _ rfl
    ⟨rfl, by decide⟩ rfl rfl (by decide)
  obtain ⟨_, e5, -⟩ := (h (hurdled [0] []) (.hinit 0 16 0) placedRef (around (one [0])) (at_word rfl rfl rfl (mayUse rfl))).2 _ _ _ rfl
    ⟨rfl, by decide⟩ rfl rfl (by decide)
  exact ⟨⟨_, e⟩, ⟨_, e2⟩, ⟨_, e3⟩, ⟨_, e4⟩, ⟨_, e5⟩⟩

/-- A second thread of the team, waiting on its hurdle for phase 0 to complete. -/
def waiting (limit : Option Nat) : Thread := { one [] with ref := { grid := 1, team := 0, tid := 1 }, status := .waitHurdle 0 0 20 limit }

/-- The hurdle with one arrival to come, and the thread that waits on it. -/
def awaited : State := { hurdled [0] [(6, 1)] with threads := [one [0], waiting none] }

theorem test_hurdle_waits (h : Obligations.HurdleWaits) :
    Runs (.waitp 20 16 0) (hurdled [0, 0, 0, 0, 0xFFFFFFFF] []) ∧ Runs (.waitp 20 16 0) (hurdled [0] [(12, 1)]) ∧ Runs (.waitp 20 16 17) (hurdled [0] [])
    ∧ Runs (.waitp 20 16 17) (hurdled [0, 1] []) ∧ Runs (.htest 20 16) (hurdled [0] []) ∧ Runs (.arriveRlx 0 16 0) awaited := by
  have w (ws cells) (hr : (one ws).rd 16 = 0) (b : Reg) (hu : (one ws).canUse (operands (.waitp 20 16 b))) :=
    (h (hurdled ws cells) (.waitp 20 16 b) placedRef (around (one ws)) (at_word rfl rfl rfl hu)).1 20 16 b bare rfl rfl
      (show hurdleAddress _ ((one ws).rd 16).toNat from hr.symm ▸ (show hurdleAddress _ 0 from ⟨rfl, show 0 + 16 ≤ 4096 by decide⟩)) (by show State.tag? _ _ _ ((one ws).rd 16).toNat = _; rw [hr]; rfl) rfl
  obtain ⟨_, e, -⟩ := (w [0, 0, 0, 0, 0xFFFFFFFF] [] rfl 0 (mayUse rfl)).1 (by decide)
  have e2 := (w [0] [(12, 1)] rfl 0 (mayUse rfl)).2.1 (by decide) (by decide)
  have e3 := (w [0] [] rfl 17 (mayUse rfl)).2.2.1 (by decide) (by decide) (by decide) rfl
  have e4 := (w [0, 1] [] rfl 17 (mayUse rfl)).2.2.2 (by decide) (by decide) (fun _ => by decide)
  have e5 := (h (hurdled [0] []) (.htest 20 16) placedRef (around (one [0])) (at_word rfl rfl rfl (mayUse rfl))).2.1 20 16 bare rfl ⟨rfl, by decide⟩ rfl
  obtain ⟨_, e6, -⟩ := (h awaited (.arriveRlx 0 16 0) placedRef (around (one [0]))
    ⟨rfl, rfl, fun t ht hr => by
        rcases List.mem_cons.1 ht with rfl | ht
        · rfl
        · rw [List.mem_singleton.1 ht] at hr; exact absurd hr (by decide), rfl, rfl, rfl, mayUse rfl, show 4 < (placedCode [0]).size by decide, fun _ => rfl, fun f x => absurd x (by simp [awaited, hurdled, demo, State.withFetchWord, State.reset]), fun _ => rfl⟩).2.2
    0 16 { grid := 1, team := 0, tid := 1 } (around (waiting none)) 20 none bare rfl ⟨rfl, by decide⟩ rfl rfl rfl rfl rfl rfl rfl
  exact ⟨⟨_, e⟩, ⟨_, e2⟩, ⟨_, e3⟩, ⟨_, e4⟩, ⟨_, e5⟩, ⟨_, e6⟩⟩

theorem test_wait_timeouts (h : Obligations.WaitTimeouts) :
    Runs (.waitpTimeout placedRef) (alone { one [] with status := .waitHurdle 0 0 20 (some 1) })
    ∧ Runs (.waitpTimeout placedRef) (withTrap (alone { one [] with status := .waitHurdle 0 0 20 (some 0) })) :=
  ⟨⟨_, (h (alone { one [] with status := .waitHurdle 0 0 20 (some 1) }) placedRef (around { one [] with status := .waitHurdle 0 0 20 (some 1) }) 0 0 20 1 rfl rfl).1 (by decide)⟩,
   ⟨_, (h (withTrap (alone { one [] with status := .waitHurdle 0 0 20 (some 0) })) placedRef (aroundTrap { one [] with status := .waitHurdle 0 0 20 (some 0) }) 0 0 20 0 rfl rfl).2 8
     (by decide) rfl rfl rfl rfl rfl⟩⟩

/-- No batch of the number to come is there. -/
theorem no_batch {s : State} (ha : s.atoms = [] := by rfl) (hb : s.batchWaits s.nextOp = false := by rfl) : newBatch s := ⟨hb, by simp [ha]⟩

/-- A package of two devices, this being device 0. -/
def paired (s : State) : State := { s with boot := { s.boot with devices := 2 } }

theorem test_atomic_words (h : Obligations.AtomicWordsIssue) : Runs (.atom .add 0 .w64 20 16) (paged [65528]) ∧ Runs (.red .fadd .w32 20 16) (paged [65536])
    ∧ Runs (.ratom .cas 0 15 20 16) (paged [0]) ∧ Runs (.ratom .xchg 0 15 20 16) (paired (paged [0, 0x00FE0040])) := by
  obtain ⟨_, _, e, -⟩ := (h (paged [65528]) (.atom .add 0 .w64 20 16) placedRef (around (one [65528])) _ _ _ _ none (at_word rfl rfl rfl (mayUse rfl)) rfl rfl no_batch).1
    (near 65528) rfl rfl (fun x => absurd rfl x) (fun k x => by cases x)
  obtain ⟨_, _, e2, -⟩ := (h (paged [65536]) (.red .fadd .w32 20 16) placedRef (around (one [65536])) _ _ _ _ none (at_word rfl rfl rfl (mayUse rfl)) rfl rfl no_batch).1
    (far 0) rfl rfl (fun x => absurd rfl x) (fun k x => by cases x; exact ⟨rfl, rfl, rfl⟩)
  obtain ⟨_, _, e3, -⟩ := (h (paged [0]) (.ratom .cas 0 15 20 16) placedRef (around (one [0])) _ _ _ _ (some 15) (at_word rfl rfl rfl (mayUse rfl)) rfl rfl no_batch).1
    (near 0) rfl rfl (fun _ => rfl) (fun k x => by cases x; exact ⟨rfl, rfl, rfl⟩)
  obtain ⟨_, e4, -⟩ := (h (paired (paged [0, 0x00FE0040])) (.ratom .xchg 0 15 20 16) placedRef (around (one [0, 0x00FE0040])) _ _ _ _ (some 15) (at_word rfl rfl rfl (mayUse rfl)) rfl rfl no_batch).2
    15 rfl rfl rfl rfl (.inl (by decide)) rfl rfl
  exact ⟨⟨_, e⟩, ⟨_, e2⟩, ⟨_, e3⟩, ⟨_, e4⟩⟩

/-- A request of the tests at its unit. -/
def request (place : Nat) (q : Request) (answer : Option W64) : AtomOpRec :=
  { op := 1, batch := 1, lane := 0, thread := placedRef, place := place, va := place, req := q, returns := true, d := 16, wbase := 0, chan := none, explicit := false
    dst := { dev := 0, die := 0 }, sent := true, arrival := false, performed := answer.isSome, answer := answer }

/-- The state in which that request is next. -/
def asked (place : Nat) (q : Request) (s : State) : State := { s with subject := [1, place / 256], atoms := [request place q none] }

/-- Its batch is that request alone. -/
theorem batch_asked (place : Nat) (q : Request) (s : State) : (asked place q s).batchAt 1 (place / 256) = [request place q none] := by
  simp [State.batchAt, asked, request, byLane, insertLane]

/-- An addition of one. -/
def plusOne (w : AtomWidth) : AtomReq := { op := .add, width := w, v := 1, expected := 0 }

/-- An arrival on its way to a hurdle whose tag has gone, or whose team has. -/
def late (place : Nat) : State := let s := asked place (.atom (plusOne .w32)) (hurdled [] []); { s with atoms := s.atoms.map fun a => { a with arrival := true } }

/-- An exchange on its way to bytes that are tagged by now. -/
def swap : AtomReq := { plusOne .w32 with op := .xchg }

theorem test_atomics_performed (h : Obligations.AtomicsArePerformed) :
    Runs .atomicService (asked 64 (.atom (plusOne .w64)) (demo [])) ∧ Runs .atomicService (asked (scratchKey 0 16) (.atom (plusOne .w32)) (hurdled [] []))
    ∧ Runs .atomicService (late (scratchKey 5 16)) ∧ Runs .atomicService (late (scratchKey 0 16)) ∧ Runs .atomicService (asked (scratchKey 0 0) (.atom swap) (hurdled [] []))
    ∧ Runs .atomicService (asked (scratchKey 0 0) (.atom (plusOne .w32)) (hurdled [] [(12, 16)])) := by
  obtain ⟨_, e, -⟩ := (h (asked 64 (.atom (plusOne .w64)) (demo [])) (request 64 (.atom (plusOne .w64)) none) (plusOne .w64) (batch_asked 64 _ _) rfl rfl rfl rfl).1 rfl rfl rfl
  obtain ⟨_, e2, -⟩ := (h (asked (scratchKey 0 16) (.atom (plusOne .w32)) (hurdled [] [])) (request (scratchKey 0 16) (.atom (plusOne .w32)) none) (plusOne .w32) computed rfl rfl
    computed computed).2.1 placedTeam 16 computed rfl computed rfl
  obtain ⟨_, e3, -⟩ := (h (late (scratchKey 5 16)) { request (scratchKey 5 16) (.atom (plusOne .w32)) none with arrival := true } (plusOne .w32) computed rfl rfl
    computed computed).2.2.1 computed computed rfl
  obtain ⟨_, e4, -⟩ := (h (late (scratchKey 0 16)) { request (scratchKey 0 16) (.atom (plusOne .w32)) none with arrival := true } (plusOne .w32) computed rfl rfl
    computed computed).2.2.2.1 placedTeam 16 computed (.inl ⟨computed, rfl⟩)
  obtain ⟨_, e5, -⟩ := (h (asked (scratchKey 0 0) (.atom swap) (hurdled [] [])) (request (scratchKey 0 0) (.atom swap) none) swap computed rfl rfl
    computed computed).2.2.2.1 placedTeam 0 computed (.inr ⟨computed, computed⟩)
  obtain ⟨_, e6, -⟩ := (h (asked (scratchKey 0 0) (.atom (plusOne .w32)) (hurdled [] [(12, 16)])) (request (scratchKey 0 0) (.atom (plusOne .w32)) none) (plusOne .w32) computed rfl rfl
    computed computed).2.2.2.2 placedTeam 0 bare computed rfl computed rfl computed rfl rfl (by decide)
  exact ⟨⟨_, e⟩, ⟨_, e2⟩, ⟨_, e3⟩, ⟨_, e4⟩, ⟨_, e5⟩, ⟨_, e6⟩⟩

/-- The state in which a request's answer has come back. -/
def answered (q : Request) (v : W64) (s : State) : State := { s with subject := [1], atoms := [request 0 q (some v)] }

theorem test_atomics_return (h : Obligations.AtomicsReturn) : Runs .atomicReturn (answered (.atom (plusOne .w64)) 5 (demo [])) :=
  ⟨_, h (answered (.atom (plusOne .w64)) 5 (demo [])) (request 0 (.atom (plusOne .w64)) (some 5)) (plusOne .w64) 5 rfl rfl rfl (fun t ht _ => by
    rw [List.mem_singleton.1 ht]; decide)⟩

theorem test_channel_stores (h : Obligations.ChannelStores) : Runs (.rst 15 .w64 20 16 0) (paged [65536]) ∧ Runs (.rst 1 .w32 20 16 0) (paired (paged [0, 0x00FE0040])) := by
  obtain ⟨_, e, -⟩ := (h (paged [65536]) placedRef (around (one [65536])) 15 .w64 20 16 0 (at_word rfl rfl rfl (mayUse rfl)) at_rest rfl).1
    (far 0) rfl (.inl (by decide)) rfl (fun x => absurd x (by decide)) (fun _ => rfl) rfl rfl rfl
  obtain ⟨_, e2, -⟩ := (h (paired (paged [0, 0x00FE0040])) placedRef (around (one [0, 0x00FE0040])) 1 .w32 20 16 0 (at_word rfl rfl rfl (mayUse rfl)) at_rest rfl).2
    rfl rfl rfl (.inl (by decide)) rfl
  exact ⟨⟨_, e⟩, ⟨_, e2⟩⟩

/-- Context 1 with a local window of 1,024 bytes a thread. -/
def windowed (ws : List W32) : State := { paged ws with contexts := [{ asid := 1, root := none, window := some (0, 65536, 1024), save := none }] }

theorem test_waiter_queues (h : Obligations.WaiterQueues) : Runs (.qwait 16 18) (windowed [4096, 0, 1008]) ∧ Runs (.wake 20 16 18) (paged [4096])
    ∧ Runs .atomicService (asked 4096 (.link 1008 1008) (demo [])) := by
  obtain ⟨_, _, _, -, -, e, -⟩ := (h (windowed [4096, 0, 1008]) placedRef (around (one [4096, 0, 1008]))).1 16 18 (near 4096) (near 1008) (at_word rfl rfl rfl (mayUse rfl)) rfl
    at_rest no_batch rfl (fun _ hl => by cases hl) rfl rfl rfl (by decide) (by decide) rfl rfl rfl
  obtain ⟨_, _, _, -, e2, -⟩ := (h (paged [4096]) placedRef (around (one [4096]))).2.1 20 16 18 (near 4096) (at_word rfl rfl rfl (mayUse rfl)) no_batch rfl rfl rfl
  obtain ⟨_, e3, -⟩ := (h (asked 4096 (.link 1008 1008) (demo [])) placedRef (around (one []))).2.2 (request 4096 (.link 1008 1008) none) 1008 1008 (batch_asked 4096 _ _) rfl rfl rfl
    computed (by decide) (by decide) rfl
  exact ⟨⟨_, e⟩, ⟨_, e2⟩, ⟨_, e3⟩⟩

/-- A second team of the grid on core 1 of the same die. -/
def second : Team := { placedTeam with idx := 1, core := some 1, lastCore := 1 }

theorem test_ownership (h : Obligations.OwnershipWords) : Runs (.oclaim 0 16 18) (paged [65280, 0, 0x80000100]) ∧ Runs (.orels 0 16) (owning [0])
    ∧ Runs (.omove 0 16 18) { owning [0, 0, 1] with teams := [placedTeam, second] } := by
  obtain ⟨_, e, -⟩ := (h (paged [65280, 0, 0x80000100]) (.oclaim 0 16 18) placedRef (around (one [65280, 0, 0x80000100])) (at_word rfl rfl rfl (mayUse rfl)) at_rest).1
    0 16 18 rfl (.inl (by decide)) (by decide) (.inl (by decide)) (by rfl) (by rfl) (fun _ hv => by cases hv) rfl (by decide) (by decide) rfl
  obtain ⟨_, e2, -⟩ := (h (owning [0]) (.orels 0 16) placedRef (around (one [0])) (at_word rfl rfl rfl (mayUse rfl)) at_rest).2.1 0 16 _ rfl rfl
  obtain ⟨_, e3, -⟩ := (h { owning [0, 0, 1] with teams := [placedTeam, second] } (.omove 0 16 18) placedRef (around (one [0, 0, 1])) (at_word rfl rfl rfl (mayUse rfl))
    at_rest).2.2 0 16 18 _ 1 rfl rfl rfl rfl
  exact ⟨⟨_, e⟩, ⟨_, e2⟩, ⟨_, e3⟩⟩

/-! ## Copies, channels, buffers and matrices -/

/-- Bytes of the placed team's scratch, by offset, added to a state. -/
def holding (cells : List (Nat × Byte)) (s : State) : State := { s with mem := cells.map fun x => (scratchKey 0 x.1, x.2) }

/-- A copy descriptor at offset 512: a row of 64 bytes from scratch 0 to scratch 1024. -/
def copyCells : List (Nat × Byte) := [(0x209, 4), (0x210, 64), (0x214, 1), (0x220, 1), (0x221, 1)]

/-- A descriptor of a fill. -/
def fillCells : List (Nat × Byte) := [(0x209, 4), (0x210, 64), (0x214, 1), (0x221, 1), (0x22C, 7)]

/-- With no load in flight and no dirty byte anywhere. -/
theorem is_calm {s : State} {r : TRef} {c : Ctx} (h1 : s.loads = []) (h2 : s.dirty = []) (h3 : s.atoms = [] := by rfl) : calm s r c :=
  ⟨⟨by simp [h1], by simp [h3]⟩, by simp [h2]⟩

/-- With no entry in use and no atomic under way a channel has room. -/
theorem room_for {s : State} {k : ChanKey} {d : DieId} (h : s.srcEntries = [] := by rfl) (ha : s.atoms = [] := by rfl) : s.roomFor k d = true := by
  simp [State.roomFor, State.entriesOn, State.entriesDue, State.unsentTo, State.entry, h, ha]

theorem room {s : State} {c : Ctx} {ch : BitVec 4} {ds : List DieId} (h : s.srcEntries = [] := by rfl) (ha : s.atoms = [] := by rfl) : chanRoom s c ch ds :=
  fun _ => ⟨by simp [State.unsentBefore, ha], fun _ _ => room_for h ha⟩

theorem test_copy_words (h : Obligations.CopyWords) : Runs (.cpy 0 15 16 0) (holding copyCells (paged [512])) ∧ Runs (.cpyf 0 0 16 17) (holding fillCells (demo [512, 0]))
    ∧ Runs (.cpyg 0 0 16 0) (holding (copyCells ++ [(0x228, 1)]) (demo [512])) := by
  obtain ⟨_, ⟨_, e, -⟩, -⟩ := h (holding copyCells (paged [512])) (.cpy 0 15 16 0) placedRef (around (one [512])) .cpy 15 16 0 (at_word rfl rfl rfl (mayUse rfl)) rfl
    (is_calm rfl rfl) ⟨rfl, by decide⟩ (fun x => absurd rfl x) computed (.inr computed) computed
    (fun x hx => by rw [List.mem_singleton.1 hx]; decide +kernel) rfl room (show 0 + _ ≤ 256 by decide +kernel)
  obtain ⟨_, ⟨_, e2, -⟩, -⟩ := h (holding fillCells (demo [512, 0])) (.cpyf 0 0 16 17) placedRef (around (one [512, 0])) .cpyf 0 16 17 (at_word rfl rfl rfl (mayUse rfl)) rfl
    (is_calm rfl rfl) ⟨rfl, by decide⟩ (fun _ => ⟨rfl, by decide⟩) computed (.inr computed) computed
    (fun x hx => by cases hx) rfl room (show 0 + _ ≤ 256 by decide +kernel)
  obtain ⟨_, ⟨_, e3, -⟩, -⟩ := h (holding (copyCells ++ [(0x228, 1)]) (demo [512])) (.cpyg 0 0 16 0) placedRef (around (one [512])) .cpyg 0 16 0 (at_word rfl rfl rfl (mayUse rfl)) rfl
    (is_calm rfl rfl) ⟨rfl, by decide⟩ (fun x => absurd rfl x) computed (.inr computed) computed
    (fun x hx => by rw [List.mem_singleton.1 hx]; decide +kernel) rfl room (show 0 + _ ≤ 256 by decide +kernel)
  exact ⟨⟨_, e⟩, ⟨_, e2⟩, ⟨_, e3⟩⟩

/-- An operation of one row of 4 bytes to scratch 0. -/
def single (kind : EngineKind) (src : Side) (started : Bool) : EngineOp :=
  { (around (one [])).engineOf 1 kind 0 src (.scratch 0) 1 4 (some 32) none with started := started }

/-- The state in which that operation is next. -/
def running (kind : EngineKind) (src : Side) (started : Bool) : State := { demo [] with subject := [1, 0, 0, 4], engines := [single kind src started] }

theorem running_last (kind : EngineKind) (src : Side) (hk : ∀ t, kind ≠ .accclr t) : lastRow (running kind src true) (single kind src true) placedTeam :=
  ⟨rfl, rfl, rfl, rfl, rfl, rfl, rfl, rfl, rfl, rfl, show 0 < 4 by decide, rfl, rfl, rfl, rfl, fun x hx => by rw [List.mem_singleton.1 hx]; exact hk, rfl⟩

theorem test_engine_operations (h : Obligations.EngineOperationsRun) :
    Runs .engineOpStart (running .cpy (.scratch 252) false) ∧ Runs .engineOpStart { running .cpy (.scratch 252) false with engines := List.replicate 64 { single .cpy .none true with op := 2 } ++ [single .cpy .none false] }
    ∧ Runs .copyBytesLand (running .cpy (.scratch 252) true) ∧ Runs .copyBytesLand (running (.cpyf 7) .none true)
    ∧ Runs .copyBytesLand (running (.accrd 3 0 0 255 127 1 0 .fp32) .none true) := by
  have p {s : State} (hs : s.tagHit 1 0 32 32 = false) : ∀ p, some 32 = some p → (0 + 4 ≤ p ∨ p + 32 ≤ 0) ∧ s.tagHit 1 0 p 32 = false := fun p hp => by cases hp; exact ⟨by decide, hs⟩
  have e := (h.1 (running .cpy (.scratch 252) false) (single .cpy (.scratch 252) false) rfl rfl rfl rfl (by decide)).1 rfl (by decide) rfl
  have e2 := (h.1 { running .cpy (.scratch 252) false with engines := List.replicate 64 { single .cpy .none true with op := 2 } ++ [single .cpy .none false] }
    (single .cpy .none false) rfl rfl rfl rfl (by decide)).2 (.inr (.inl (by decide)))
  obtain ⟨_, e3, -⟩ := (h.2 _ _ placedTeam 0 (running_last .cpy (.scratch 252) (fun _ x => by cases x)) rfl (by decide) rfl (p rfl)).1 252 rfl rfl (by decide)
  obtain ⟨_, e4, -⟩ := (h.2 _ _ placedTeam 0 (running_last (.cpyf 7) .none (fun _ x => by cases x)) rfl (by decide) rfl (p rfl)).2.1 7 rfl rfl
  obtain ⟨_, e5, -⟩ := (h.2 _ _ placedTeam 0 (running_last (.accrd 3 0 0 255 127 1 0 .fp32) .none (fun _ x => by cases x)) rfl (by decide) rfl (p rfl)).2.2 3 0 255 127 1 0 .fp32 rfl rfl
    (by decide) rfl
  exact ⟨⟨_, e⟩, ⟨_, e2⟩, ⟨_, e3⟩, ⟨_, e4⟩, ⟨_, e5⟩⟩

/-- A put to the region of another device: its destination is a fabric address. -/
def putCells : List (Nat × Byte) := [(0x20C, 64), (0x20E, 0xFE), (0x210, 64), (0x214, 1), (0x220, 1)]

/-- A multicast of 16 bytes of scratch to the die of slot 0. -/
def castCells : List (Nat × Byte) := [(0x208, 1), (0x218, 16), (0x21C, 1)]

/-- A reduction of one FP32 element with one other contributor. -/
def reduceCells : List (Nat × Byte) := [(0x208, 2), (0x20D, 1), (0x20E, 1), (0x220, 1), (0x228, 0xFF), (0x229, 0xFF), (0x22A, 0xFF), (0x22B, 0xFF)]

/-- The die map of context 1 with one slot. -/
def mapped (s : State) : State := { s with dieMap := [{ asid := 1, slot := 0, at_ := { dev := 0, die := 1 }, base := 2 ^ 37 }] }

/-- An operation of channel 1 that is not over. -/
def early : ChanOp := { op := 1, key := .team 1 0 1, ord := 0, left := 1, awaits := false, refused := false, broken := false, late := false, reported := false }

theorem test_channel_commands (h : Obligations.ChannelCommands) :
    Runs (.rcpy 0 2 16 0) (paired (holding putCells (demo [512]))) ∧ Runs (.rmc 0 2 16 0) (mapped (holding castCells (demo [512]))) ∧ Runs (.rred 0 15 16 0) (holding reduceCells (paged [512]))
    ∧ Runs (.join 0 15) (demo []) ∧ Runs (.drain 0 1 16) (hurdled [0] [(6, 1)]) ∧ Runs (.drain 0 1 16) { hurdled [0] [(6, 1)] with chanOps := [early] }
    ∧ Runs (.rmc 0 2 16 0) (holding (castCells.drop 1) (demo [512])) := by
  obtain ⟨_, ⟨_, e, -⟩, -⟩ := (h (paired (holding putCells (demo [512]))) (.rcpy 0 2 16 0) placedRef (around (one [512])) (at_word rfl rfl rfl (mayUse rfl))).1 0 2 16 0 rfl
    (is_calm rfl rfl) ⟨rfl, by decide⟩ (fun x => absurd rfl x) computed computed computed computed
    (.inr computed) computed rfl room (show 0 + 1 ≤ 256 by decide)
  obtain ⟨_, ⟨_, e2, -⟩, -⟩ := ((h (mapped (holding castCells (demo [512]))) (.rmc 0 2 16 0) placedRef (around (one [512])) (at_word rfl rfl rfl (mayUse rfl))).2.1 0 2 16 0 rfl
    (is_calm rfl rfl) ⟨rfl, by decide⟩ (fun x => absurd rfl x) computed computed computed computed
    computed computed (.inr computed) computed computed rfl room (show 0 + 1 ≤ 256 by decide)).1 computed
  have e7 := ((h (holding (castCells.drop 1) (demo [512])) (.rmc 0 2 16 0) placedRef (around (one [512])) (at_word rfl rfl rfl (mayUse rfl))).2.1 0 2 16 0 rfl
    (is_calm rfl rfl) ⟨rfl, by decide⟩ (fun x => absurd rfl x) computed computed computed computed
    computed computed (.inr computed) computed computed rfl room (show 0 + 1 ≤ 256 by decide)).2 computed
  obtain ⟨_, _, ⟨_, e3, -⟩, -⟩ := (h (holding reduceCells (paged [512])) (.rred 0 15 16 0) placedRef (around (one [512])) (at_word rfl rfl rfl (mayUse rfl))).2.2.1 0 15 16 0 rfl
    (is_calm rfl rfl) ⟨rfl, by decide⟩ (fun x => absurd rfl x) computed computed computed computed
    computed computed computed computed computed computed computed (.inl computed)
    computed computed rfl room (fun _ _ => room) (show 0 + 2 ≤ 256 by decide)
  obtain ⟨_, e4, -⟩ := (h (demo []) (.join 0 15) placedRef (around (one [])) (at_word rfl rfl rfl (mayUse rfl))).2.2.2.1 0 15 rfl rfl rfl (by decide) rfl rfl
  obtain ⟨_, e5, -⟩ := ((h (hurdled [0] [(6, 1)]) (.drain 0 1 16) placedRef (around (one [0])) (at_word rfl rfl rfl (mayUse rfl))).2.2.2.2 0 1 16 bare rfl ⟨rfl, by decide⟩ rfl
    rfl rfl rfl (fun _ x => by cases x)).1 (fun _ x => by cases x) rfl
  obtain ⟨_, _, e6, -⟩ := ((h { hurdled [0] [(6, 1)] with chanOps := [early] } (.drain 0 1 16) placedRef (around (one [0])) (at_word rfl rfl rfl (mayUse rfl))).2.2.2.2 0 1 16 bare rfl
    ⟨rfl, by decide⟩ rfl rfl rfl rfl (fun _ x => by cases x)).2 rfl
  exact ⟨⟨_, e⟩, ⟨_, e2⟩, ⟨_, e3⟩, ⟨_, e4⟩, ⟨_, e5⟩, ⟨_, e6⟩, let ⟨_, e, _⟩ := e7; ⟨_, e⟩⟩

/-- A reservation of the placed team: the operand buffer (0), the B store (1) or the tiles (3). -/
def kept (handle space len : Nat) : Reservation :=
  { cluster := 0, handle := handle, grid := 1, team := 0, space := space, base := 0, len := len, stride := 0, format := 0, block := 0, sstride := 0, scaleOff := none
    oidxOff := none, ovalOff := none, ovalCount := 0, releasing := false }

/-- The descriptor of a reservation of one tile, and of 128 bytes of the operand buffer. -/
def tileCells : List (Nat × Byte) := [(0x210, 1), (0x218, 3)]

theorem test_buffers (h : Obligations.BufferWords) : Runs (.obres 0 16) (holding tileCells (demo [512])) ∧ Runs (.obres 0 16) (holding [(0x210, 128)] (demo [512]))
    ∧ Runs (.obrel 0 16) { demo [63] with reservations := [kept 63 0 128] } ∧ Runs (.accclr 0 16) { demo [3] with reservations := [kept 0 3 4] } := by
  obtain ⟨_, e, -⟩ := (h (holding tileCells (demo [512])) (.obres 0 16) placedRef (around (one [512])) (at_word rfl rfl rfl (mayUse rfl))).1 0 16 0 rfl ⟨rfl, by decide⟩
    at_rest rfl computed computed computed (fun x => absurd x computed) (fun _ _ x => by cases x) computed rfl
  obtain ⟨_, e2, -⟩ := (h (holding [(0x210, 128)] (demo [512])) (.obres 0 16) placedRef (around (one [512])) (at_word rfl rfl rfl (mayUse rfl))).1 0 16 0 rfl ⟨rfl, by decide⟩
    at_rest rfl computed computed computed (fun x => absurd x computed) (fun _ _ x => by cases x) computed rfl
  have e3 := (h { demo [63] with reservations := [kept 63 0 128] } (.obrel 0 16) placedRef (around (one [63])) (at_word rfl rfl rfl (mayUse rfl))).2.1 0 16 _ rfl rfl
  obtain ⟨_, e4, -⟩ := (h { demo [3] with reservations := [kept 0 3 4] } (.accclr 0 16) placedRef (around (one [3])) (at_word rfl rfl rfl (mayUse rfl))).2.2 0 16 rfl rfl
    (fun _ x => by cases x) (fun _ x => by cases x)
  exact ⟨⟨_, e⟩, ⟨_, e2⟩, ⟨_, e3⟩, ⟨_, e4⟩⟩

/-- The descriptor of a readout of one element of tile 3 to scratch 0. -/
def readCells : List (Nat × Byte) := [(0x20C, 3), (0x20D, 1), (0x214, 255), (0x216, 1), (0x218, 127), (0x21A, 1)]

theorem test_accumulators (h : Obligations.AccumulatorReadout) : Runs (.accrd 0 0 16 0) { holding readCells (demo [512]) with reservations := [kept 0 3 4] }
    ∧ Runs .accrdReadout (running (.accrd 3 0 0 255 127 1 0 .cleared) .none false) ∧ Runs .accrdReadout (running (.accrd 3 0 0 255 127 1 0 .fp32) .none false) := by
  obtain ⟨_, ⟨_, e, -⟩, -⟩ := h.1 { holding readCells (demo [512]) with reservations := [kept 0 3 4] } placedRef (around (one [512])) 0 0 16 0 (at_word rfl rfl rfl (mayUse rfl))
    (is_calm rfl rfl) ⟨rfl, by decide⟩ (fun x => absurd rfl x) computed computed computed computed
    computed computed computed computed computed computed computed computed
    computed rfl room (show 0 + 1 ≤ 256 by decide)
  have e2 := (h.2 (running (.accrd 3 0 0 255 127 1 0 .cleared) .none false) (single (.accrd 3 0 0 255 127 1 0 .cleared) .none false) 3 0 0 255 127 1 0 .cleared rfl rfl rfl rfl rfl).1 rfl (.inl rfl)
  obtain ⟨_, e3, -⟩ := (h.2 (running (.accrd 3 0 0 255 127 1 0 .fp32) .none false) (single (.accrd 3 0 0 255 127 1 0 .fp32) .none false) 3 0 0 255 127 1 0 .fp32 rfl rfl rfl rfl rfl).2
    (fun x => absurd x.1 (by decide)) rfl rfl (fun x hx t => by rw [List.mem_singleton.1 hx]; exact fun y => by cases y)
  exact ⟨⟨_, e⟩, ⟨_, e2⟩, ⟨_, e3⟩⟩

/-- A parameter block of a 1 by 1 by 1 product of FP16 into tile 0, no slots, no hurdle. -/
def blockCells : List (Nat × Byte) :=
  [(0x201, 1), (0x204, 1), (0x206, 1), (0x208, 1), (0x220, 255), (0x221, 255), (0x230, 255), (0x231, 255), (0x232, 255), (0x233, 255)]

/-- A 1 by 1 by k product of the placed team. -/
def product (k : Nat) (until_ : Option Nat) : MmaReq :=
  { mmaOf (around (one [])) 1 0 (kept 0 0 8192) (kept 1 1 8192) [] with m := 1, n := 1, k := k, running := until_, hurdle := none }

/-- The state with that product. -/
def multiplying (k : Nat) (until_ : Option Nat) : State := { demo [] with subject := [0], mmas := [product k until_] }

/-- A pass of it can be computed. -/
theorem pass_ok (k : Nat) (h : (match (multiplying k (some 0)).computePass (product k (some 0)) with | .ok _ => true | .error _ => false) = true) :
    ∃ ps, (multiplying k (some 0)).computePass (product k (some 0)) = .ok ps := by
  cases e : (multiplying k (some 0)).computePass (product k (some 0)) with
  | ok ps => exact ⟨ps, rfl⟩
  | error _ => rw [e] at h; cases h

/-- The product of one element in a format whose last pass is over. -/
def ending (fmt : Nat) : MmaReq := { product 1 (some 0) with aFmt := fmt, bFmt := fmt }

/-- The state with it. -/
def endingIn (fmt : Nat) : State := { demo [] with subject := [0], mmas := [ending fmt] }

theorem test_matrices (h : Obligations.MatrixMultiply) :
    Runs (.mma 0 16) { holding blockCells (demo [512]) with reservations := [kept 0 0 128, kept 1 1 64, kept 2 3 4] } ∧ Runs .mmaPass (multiplying 1 none)
    ∧ Runs (.mmaPassEnd 0 none) (multiplying 1 (some 1)) ∧ Runs (.mmaPassEnd 0 (some 0)) (multiplying 1 (some 0)) ∧ Runs (.mmaPassEnd 0 none) (multiplying 513 (some 0)) := by
  obtain ⟨_, _, e, -⟩ := h.1 { holding blockCells (demo [512]) with reservations := [kept 0 0 128, kept 1 1 64, kept 2 3 4] } placedRef (around (one [512])) 0 16
    (at_word rfl rfl rfl (mayUse rfl)) (is_calm rfl rfl) ⟨rfl, by decide⟩ (kept 0 0 128) (kept 1 1 64) computed computed
    computed rfl rfl computed computed computed computed (fun x hx => by have y : some x = none := hx.symm.trans computed; cases y) computed
    (by decide) (show 0 + _ ≤ 256 by decide +kernel)
  obtain ⟨_, e2, -⟩ := h.2.1 (multiplying 1 none) (product 1 none) rfl rfl rfl rfl (fun x => by cases x)
  have e3 := (h.2.2 (multiplying 1 (some 1)) 0 (product 1 (some 1)) 1 rfl rfl).1 (by decide) none
  obtain ⟨_, e4, -⟩ := ((h.2.2 (multiplying 1 (some 0)) 0 (product 1 (some 0)) 0 rfl rfl).2 (by decide)).1 0 placedTeam placedGrid rfl rfl rfl rfl
  obtain ⟨ps, hp⟩ := pass_ok 513 computed
  obtain ⟨_, e5, -⟩ := ((h.2.2 (multiplying 513 (some 0)) 0 (product 513 (some 0)) 0 rfl rfl).2 (by decide)).2.1 ps hp (by decide)
  exact ⟨⟨_, e⟩, ⟨_, e2⟩, ⟨_, e3⟩, ⟨_, e4⟩, ⟨_, e5⟩⟩

/-- The last pass of a product of zeros ends, whatever its format's arithmetic. -/
theorem test_products_end (h : Obligations.MatrixMultiply) :
    Runs (.mmaPassEnd 0 none) (endingIn 0) ∧ Runs (.mmaPassEnd 0 none) (endingIn 5) ∧ Runs (.mmaPassEnd 0 none) (endingIn 6) ∧ Runs (.mmaPassEnd 0 none) (endingIn 7) := by
  have last (fmt : Nat) (hn : (ending fmt).n ≤ if (ending fmt).aFmt = 7 then 64 else 128) (hp : (endingIn fmt).notePass (ending fmt) = endingIn fmt) :=
    ((h.2.2 (endingIn fmt) 0 (ending fmt) 0 rfl rfl).2 (Nat.zero_le _)).2.2 (show 0 < 1 by decide) (show 1 ≤ 0 + 512 by decide) (show 1 ≤ 256 by decide) hn (fun _ hx => by cases hx) hp
      (fun _ _ _ x => by rcases x with x | x <;> cases x) (fun x => by cases x) (fun _ x => by cases x) (fun _ _ x => by cases x)
  obtain ⟨_, e, -⟩ := (last 0 (by decide) rfl).1 [[.num false 0 (-133)]] [[.num false 0 (-133)]] (by decide) rfl rfl rfl rfl (by decide)
  have codes (fmt : Nat) (hf : 5 ≤ fmt ∧ fmt ≤ 7) (hn : (ending fmt).n ≤ if (ending fmt).aFmt = 7 then 64 else 128)
      (hp : (endingIn fmt).notePass (ending fmt) = endingIn fmt) (ha : (endingIn fmt).passCodes (ending fmt) false 0 1 = .ok [[0]]) (hb : (endingIn fmt).passCodes (ending fmt) true 0 1 = .ok [[0]]) :
      Runs (.mmaPassEnd 0 none) (endingIn fmt) := by
    obtain ⟨_, e, -⟩ := (last fmt hn hp).2 [[0]] [[0]] hf.1 hf.2 rfl rfl ha hb (fun x hx => by
      have : x = [0] := by simpa using hx
      subst this; rfl)
    exact ⟨_, e⟩
  exact ⟨⟨_, e⟩, codes 5 (by decide) (by decide) rfl rfl rfl, codes 6 (by decide) (by decide) rfl rfl rfl, codes 7 (by decide) (by decide) rfl rfl rfl⟩

/-! ## Ragged operands -/

/-- A shape record at address 4096: two sequences of one row of one FP32 column each, the data at 8192. -/
def recordCells : List (Nat × Byte) :=
  [(0x1000, 2), (0x1001, 16), (0x1002, 1), (0x1004, 2), (0x1008, 1), (0x100C, 4), (0x1014, 2), (0x1019, 0x20), (0x1020, 64), (0x1024, 255), (0x1025, 255), (0x1026, 255),
   (0x1027, 255), (0x1044, 1), (0x1048, 2)]

/-- Its snapshot under lock 5. -/
def shape5 : Shape :=
  { bound := 5, rank := 2, format := 16, heads := 1, t := 2, width := 1, rstride := 4, hstride := 0, s := 2, dataVa := 8192, recordVa := 4096, extent := 76, boff := 64, poff := 0xFFFFFFFF
    bounds := [0, 1, 2], posBase := [] }

/-- The slot bound to it. -/
def slot0 : RaggedSlot := { core := some 0, slot := 0, grid := 1, team := 0, va := 4096, lock := 5, shape := shape5, closing := false }

/-- The record in memory with bytes of scratch. -/
def recorded (cells : List (Nat × Byte)) (ws : List W32) : State := { paged ws with mem := recordCells ++ cells.map fun x => (scratchKey 0 x.1, x.2) }

/-- The record bound to slot 0. -/
def bound (cells : List (Nat × Byte)) (ws : List W32) : State := { recorded cells ws with ragged := [slot0] }

/-- Four bytes of ones. -/
def ones (k : Nat) : List (Nat × Byte) := [(k, 255), (k + 1, 255), (k + 2, 255), (k + 3, 255)]

/-- Descriptors of RGLD, of SEGRED and SEGSCAN, and of SEGNORM in modes 0 and 1, to scratch 1024. -/
def gatherCells : List (Nat × Byte) := [(0x201, 1), (0x208, 1), (0x210, 1), (0x215, 4), (0x218, 4)] ++ ones 0x21C

def segCells : List (Nat × Byte) := [(0x201, 4), (0x208, 4), (0x20D, 255), (0x20E, 1), (0x214, 2), (0x21C, 1)] ++ ones 0x238

def normCells (slot : Byte) (mode : Byte) : List (Nat × Byte) :=
  [(0x201, 4), (0x20C, slot), (0x20D, slot), (0x20E, 1), (0x214, 1), (0x21C, 1), (0x222, mode), (0x229, 8), (0x234, 1)] ++ ones 0x238

/-- No read of a range touches a hole, as a check that computes. -/
def reads (s : State) (core asid : Nat) (system : Bool) (va n : Nat) : Bool :=
  (pageChunks va n).all fun y => ((s.walkKeys core asid y.1).all fun a => !s.inHole (devKey a)) && match s.resolve core asid system y.1 y.2 .read with
    | .ok p => !s.inHole p.key
    | .error _ => true

theorem clear_of {s : State} {core asid : Nat} {system : Bool} {va n : Nat} (h : reads s core asid system va n = true) : clearOf s core asid system va n := by
  intro y hy
  have e := List.all_eq_true.1 h y hy
  rw [Bool.and_eq_true] at e
  refine ⟨fun a ha => by simpa using List.all_eq_true.1 e.1 a ha, fun p hp => ?_⟩
  have e2 := e.2
  rw [hp] at e2
  simpa using e2

/-- The checks of SEGNORM on such a descriptor, as one check that computes. -/
def normOk (slot mode : Byte) : Bool :=
  let s := bound (normCells slot mode) [512]
  let c := around (one [512])
  let f := segDesc (s.teamRead c.team 512 64)
  let src : Hull := { side := sideOf f.sspace f.src, n := f.count, stride := f.sstride, row := 4 * f.cols, write := false }
  let dst : Hull := { side := sideOf f.dspace f.dst, n := f.count, stride := f.dstride, row := 4 * f.cols, write := true }
  decide (f.rest = true) && decide (f.dspace ≤ 1) && decide (f.sspace ≤ 1) && decide (1 ≤ f.count) && decide (f.count ≤ 256) && decide (1 ≤ f.cols) && decide (f.cols ≤ 65536)
    && decide (sideFits f.dspace f.dst = true) && decide (sideFits f.sspace f.src = true) && decide (f.op = 0) && decide (f.head = 0) && decide (f.flags = 0xFFFFFFFF)
    && decide (f.prog % 32 = 0 ∧ f.prog + 32 ≤ 4096) && decide (s.rangeChecks c [src, dst] = []) && decide (c.hullsMeet src dst = false)

theorem test_ragged_words (h : Obligations.RaggedWords) :
    Runs (.rbind 0 16 18) (recorded [] [4096, 0, 15]) ∧ Runs (.runbind 0 16) (bound [] [0]) ∧ Runs (.rgld 0 0 16 0) (bound gatherCells [512])
    ∧ Runs (.segred 0 1 16 0) (bound segCells [512]) ∧ Runs (.segscan 0 1 16 0) (bound segCells [512]) ∧ Runs (.segnorm 0 15 16 0) (bound (normCells 255 0) [512])
    ∧ Runs (.segnorm 0 15 16 0) (bound (normCells 0 1) [512]) := by
  have e := (h (recorded [] [4096, 0, 15]) (.rbind 0 16 18) placedRef (around (one [4096, 0, 15])) (at_word rfl rfl rfl (mayUse rfl))).1 0 16 18 { shape5 with bound := 1 } rfl
    computed (fun _ x => by cases x) (by decide) computed (clear_of computed)
  have e2 := (h (bound [] [0]) (.runbind 0 16) placedRef (around (one [0])) (at_word rfl rfl rfl (mayUse rfl))).2.1 0 16 slot0 rfl rfl rfl
  obtain ⟨_, ⟨_, e3, -⟩, -⟩ := (h (bound gatherCells [512]) (.rgld 0 0 16 0) placedRef (around (one [512])) (at_word rfl rfl rfl (mayUse rfl))).2.2.1 0 0 16 0 slot0 rfl
    (is_calm rfl rfl) ⟨rfl, by decide⟩ (fun x => absurd rfl x) rfl (.inl computed) computed computed
    computed computed computed computed (.inl computed) (.inl computed) computed
    (.inr computed) computed computed rfl room (fun x => absurd x computed) (by unfold lockRoom; decide +kernel)
  obtain ⟨_, ⟨_, e4, -⟩, -⟩ := (h (bound segCells [512]) (.segred 0 1 16 0) placedRef (around (one [512])) (at_word rfl rfl rfl (mayUse rfl))).2.2.2.1 0 1 16 0 slot0 false
    (.inl ⟨rfl, rfl⟩) (is_calm rfl rfl) ⟨rfl, by decide⟩ (fun x => absurd rfl x) rfl computed computed
    (.inr computed) computed computed rfl room (by unfold lockRoom; decide +kernel)
  obtain ⟨_, ⟨_, e5, -⟩, -⟩ := (h (bound segCells [512]) (.segscan 0 1 16 0) placedRef (around (one [512])) (at_word rfl rfl rfl (mayUse rfl))).2.2.2.1 0 1 16 0 slot0 true
    (.inr ⟨rfl, rfl⟩) (is_calm rfl rfl) ⟨rfl, by decide⟩ (fun x => absurd rfl x) rfl computed computed
    (.inr computed) computed computed rfl room (by unfold lockRoom; decide +kernel)
  have n (x y : Byte) (hc : normOk x y = true) := by
    simp only [normOk, Bool.and_eq_true, decide_eq_true_eq] at hc
    obtain ⟨⟨⟨⟨⟨⟨⟨⟨⟨⟨⟨⟨⟨⟨h1, h2⟩, h3⟩, h4⟩, h5⟩, h6⟩, h7⟩, h8⟩, h9⟩, k1⟩, k2⟩, k3⟩, k4⟩, k5⟩, k6⟩ := hc
    exact (h (bound (normCells x y) [512]) (.segnorm 0 15 16 0) placedRef (around (one [512])) (at_word rfl rfl rfl (mayUse rfl))).2.2.2.2 0 15 16 0 rfl
      (is_calm rfl rfl) ⟨rfl, by decide⟩ (fun x => absurd rfl x) h1 h2 h3 h4 h5 h6 h7 h8 h9 k1 k2 k3 (.inr k4) k5 k6 rfl room
  obtain ⟨_, ⟨_, e6, -⟩, -⟩ := (n 255 0 computed (by unfold lockRoom; decide +kernel)).1 computed computed computed
  obtain ⟨_, ⟨_, e7, -⟩, -⟩ := (n 0 1 computed (by unfold lockRoom; decide +kernel)).2 slot0 slot0 (.inl computed) computed computed rfl rfl
  exact ⟨⟨_, e⟩, ⟨_, e2⟩, ⟨_, e3⟩, ⟨_, e4⟩, ⟨_, e5⟩, ⟨_, e6⟩, ⟨_, e7⟩⟩

/-- An operation of two rows of 4 bytes, 8 apart, to scratch 0. -/
def double (kind : EngineKind) (src : Side) : EngineOp := { single kind src true with rows := 2, dstride := 8 }

/-- The state in which its first row is next. -/
def rows (kind : EngineKind) (src : Side) : State := { recorded [] [] with subject := [1, 0, 0, 4], engines := [double kind src] }

/-- An answer that is a list of bytes, as a check that computes. -/
theorem is_bytes {x : Except (Nat × Nat) (List Byte)} {p : List Byte} (h : (match x with | .ok q => decide (q = p) | .error _ => false) = true) : x = .ok p := by
  cases x with
  | ok q => exact congrArg _ (of_decide_eq_true h)
  | error _ => cases h

/-- What a row of the operation reads is on its die and in no hole, its tables as in memory, as a check that computes. -/
def rowReads (kind : EngineKind) (src : Side) : Bool :=
  let s := rows kind src
  (s.asksOf (double kind src) 0 0 4).isEmpty && ((double kind src).sources 0 0 4).all (fun x => reads s 0 1 true x.1 x.2)
    && (double kind src).shapes.all fun x => decide (x.extent ≤ (s.readVa 0 1 true x.recordVa x.extent).length) && decide (withTables x (s.readVa 0 1 true x.recordVa x.extent) = x)

theorem rows_next (kind : EngineKind) (src : Side) (hw : rowReads kind src = true) : nextRow (rows kind src) (double kind src) placedTeam 0 := by
  simp only [rowReads, Bool.and_eq_true, List.isEmpty_iff, List.all_eq_true, decide_eq_true_eq] at hw
  exact ⟨rfl, rfl, rfl, rfl, rfl, rfl, show 0 + 1 < 2 by decide, rfl, show 0 < 4 by decide, rfl, rfl, rfl, ⟨0, rfl, rfl⟩, show 0 % 256 + 4 ≤ 256 by decide, rfl, rfl,
    hw.1.1, fun x hx => clear_of (hw.1.2 x hx), fun x hx => hw.2 x hx⟩

theorem test_segment_results (h : Obligations.SegmentResults) :
    Runs .copyBytesLand (rows (.rgld shape5 2 0 0 1 none) .none) ∧ Runs .copyBytesLand (rows (.rgld shape5 0 0 0 1 none) .none)
    ∧ Runs .copyBytesLand (rows (.segred shape5 2 0 2 0 1 0 none) .none) ∧ Runs .copyBytesLand (rows (.segscan shape5 true 0 2 0 1 0) .none)
    ∧ Runs .copyBytesLand (rows (.segnorm none none 0 0 0 1 0) (.scratch 252)) := by
  obtain ⟨_, _, e, -⟩ := ((h _ _ _ 0 (rows_next (.rgld shape5 2 0 0 1 none) .none computed)).1 _ _ _ _ _ rfl rfl).1 (by decide)
  obtain ⟨_, _, e2, -⟩ := ((h _ _ _ 0 (rows_next (.rgld shape5 0 0 0 1 none) .none computed)).1 _ _ _ _ _ rfl rfl).2 [0, 0, 0, 0] (by decide) rfl
    (is_bytes computed)
  obtain ⟨_, _, e3, -⟩ := (h _ _ _ 0 (rows_next (.segred shape5 2 0 2 0 1 0 none) .none computed)).2.1 _ _ _ _ _ _ _ (fun _ _ => 0) rfl rfl (by decide) rfl
    (fun t j h1 h2 h3 => by
      obtain rfl : t = 0 := Nat.lt_one_iff.1 h2
      obtain rfl : j = 0 := Nat.lt_one_iff.1 h3
      exact ⟨[0, 0, 0, 0], is_bytes computed, by decide +kernel⟩)
  obtain ⟨_, _, e4, -⟩ := (h _ _ _ 0 (rows_next (.segscan shape5 true 0 2 0 1 0) .none computed)).2.2.1 _ _ _ _ _ _ _ (fun _ _ => 0) rfl rfl rfl (by decide) (by decide)
    (fun t j h1 h2 h3 => by
      obtain rfl : t = 0 := Nat.le_zero.1 h2
      obtain rfl : j = 0 := Nat.lt_one_iff.1 h3
      exact ⟨[0, 0, 0, 0], is_bytes computed, by decide +kernel⟩)
  obtain ⟨_, _, e5, -⟩ := (h _ _ _ 0 (rows_next (.segnorm none none 0 0 0 1 0) (.scratch 252) computed)).2.2.2 _ _ _ _ 252 rfl rfl (by decide) rfl
  exact ⟨⟨_, e⟩, ⟨_, e2⟩, ⟨_, e3⟩, ⟨_, e4⟩, ⟨_, e5⟩⟩

/-! ## The walker and the Relay unit -/

/-- A walk object at 4096 of one tile, its state and parts as given, adding. -/
def walkCells (state parts : Byte) : List (Nat × Byte) :=
  [(0x1000, 1), (0x1004, 1), (0x1008, 1), (0x100C, 1), (0x1010, 1), (0x1012, parts), (0x1018, state)]

/-- A packet of the device's own channel 0 of the placed team from die 0 to die 0. -/
def packet (kind : PKind) (body : Body) : Packet :=
  { src := .team 1 0 0, srcAt := { dev := 0, die := 0 }, dst := { dev := 0, die := 0 }, asid := 1, kind := kind, seq := 1, epoch := 0, op := 1, part := 0, body := body }

/-- The request of a walker word on its way, with the walks under way at the object. -/
def walked (w : WalkReq) (state parts : Byte) (ws : List Walk) : State :=
  { demo [] with mem := walkCells state parts, net := [packet .areq (.walk 4096 4096 w)], atoms := [request 4096 (.walk w) none], walks := ws }

/-- A walk of that object. -/
def stroll (given : List Nat) : Walk := { place := 4096, die := 0, given := given, ends := 0, hurdles := [] }

theorem walked_turn (w : WalkReq) (state parts : Byte) (ws : List Walk) : inTurn (walked w state parts ws) 0 (packet .areq (.walk 4096 4096 w)) :=
  ⟨rfl, rfl, rfl, rfl, rfl, rfl, rfl, rfl⟩

theorem test_walker (h : Obligations.WalkerWords) :
    Runs (.walk 16) (paged [65408]) ∧ Runs (.wend 16 18) (paged [4096, 0, 16])
    ∧ Runs (.channelPacketArrive (.inFlight 0)) (walked .walk 0 1 []) ∧ Runs (.channelPacketArrive (.inFlight 0)) (walked .next 1 1 [stroll []])
    ∧ Runs (.channelPacketArrive (.inFlight 0)) (walked .next 1 1 [stroll [0]]) ∧ Runs (.channelPacketArrive (.inFlight 0)) (walked (.red 5 false 0) 1 1 [stroll [0]])
    ∧ Runs (.channelPacketArrive (.inFlight 0)) (walked (.fin 0) 1 2 [stroll [0]]) ∧ Runs (.channelPacketArrive (.inFlight 0)) (walked (.fin 0) 1 1 [stroll [0]])
    ∧ Runs (.arspReceive (.inFlight 0)) { walked .next 1 1 [] with net := [packet .arsp (.value 0 [])] } := by
  obtain ⟨_, _, e, -⟩ := h.1 (paged [65408]) (.walk 16) placedRef (around (one [65408])) _ _ _ (near 65408) (at_word rfl rfl rfl (mayUse rfl)) rfl (is_calm rfl rfl)
    rfl (.inl (by decide)) rfl rfl rfl rfl (fun _ _ x => by cases x) rfl rfl
  obtain ⟨_, _, e2, -⟩ := h.1 (paged [4096, 0, 16]) (.wend 16 18) placedRef (around (one [4096, 0, 16])) _ _ _ (near 4096) (at_word rfl rfl rfl (mayUse rfl)) rfl (is_calm rfl rfl)
    rfl (.inl (by decide)) rfl rfl rfl rfl (fun _ _ x => by cases x; exact ⟨rfl, by decide⟩) rfl rfl
  have a (w state parts ws) (hh : ∀ k < 128, (walked w state parts ws).inHole (4096 + k) = false) :=
    h.2.1 (walked w state parts ws) 0 (packet .areq (.walk 4096 4096 w)) 4096 4096 (request 4096 (.walk w) none) w (walked_turn w state parts ws) rfl rfl rfl rfl (hh 0 (by decide)) hh
  obtain ⟨_, e3, -⟩ := (a .walk 0 1 [] computed).1 rfl computed computed (by decide)
  obtain ⟨_, _, e4, -⟩ := ((a .next 1 1 [stroll []] computed).2.1 (stroll []) rfl computed computed .nil (fun _ x => by cases x) computed).1
    computed
  obtain ⟨_, e5, -⟩ := ((a .next 1 1 [stroll [0]] computed).2.1 (stroll [0]) rfl computed computed (List.pairwise_singleton _ _)
    (fun t x => by rw [List.mem_singleton.1 x]; decide +kernel) computed).2 computed
  obtain ⟨_, e6, -⟩ := (a (.red 5 false 0) 1 1 [stroll [0]] computed).2.2.1 5 false 0 (stroll [0]) rfl computed computed computed
    (fun _ => ⟨rfl, by decide, by decide⟩) computed
  obtain ⟨_, e7, -⟩ := ((a (.fin 0) 1 2 [stroll [0]] computed).2.2.2 0 (stroll [0]) placedTeam rfl rfl rfl computed computed computed).1 computed
  obtain ⟨_, e8, -⟩ := ((a (.fin 0) 1 1 [stroll [0]] computed).2.2.2 0 (stroll [0]) placedTeam rfl rfl rfl computed computed computed).2 computed rfl rfl
  obtain ⟨_, e9, -⟩ := h.2.2 { walked .next 1 1 [] with net := [packet .arsp (.value 0 [])] } 0 (packet .arsp (.value 0 [])) (request 4096 (.walk .next) none) .next 0 rfl rfl rfl
    ⟨1, 0, 0, rfl⟩ rfl rfl (fun _ x => by cases x)
  exact ⟨⟨_, e⟩, ⟨_, e2⟩, ⟨_, e3⟩, ⟨_, e4⟩, ⟨_, e5⟩, ⟨_, e6⟩, ⟨_, e7⟩, ⟨_, e8⟩, ⟨_, e9⟩⟩

/-- An endpoint of the placed team: one slot of 16-byte rows at scratch 0, its hurdle at 1024. -/
def endpoint0 (full : List Nat) : Endpoint :=
  { asid := 1, id := 0, grid := 1, team := 0, core := 0, away := false, recordOff := 512, inbox := 0, cap := 1, rowBytes := 16, hurdle := 1024, spill := 0, spillCap := 0
    fallback := 1, full := full, spillRoom := 0, spilled := 0, seq := 0x7FFFFFFF, freeing := [] }

/-- A table of the placed team on core 0: one row of 8 BF16 elements, its slots as given, at scratch 0, the status at 256, the output at 2048. -/
def table0 (slots : List SlotState) (deadline : Option Nat) : Reassembly :=
  { core := 0, table := 0, epoch := 1, held := true, counting := true, grid := 1, team := 0, asid := 1, system := true, lock := 9, out := .scratch 2048, ostride := 16, format := 0
    k := slots.length, rows := 1, elems := 8, slotBuf := 0, hurdle := 1024, timeout := 1, stats := 256, routed := false, deadline := deadline
    weights := List.replicate slots.length 0x3F800000, slots := slots, written := [false], late := 0, timeouts := 0, drops := 0, wfaults := 0, history := [] }

/-- Descriptors of EPDEF (an endpoint of one slot of 16 bytes), of RASM (one row, one slot) and of ROUTE. -/
def epdefCells : List (Nat × Byte) := [(0x208, 1), (0x20A, 16), (0x20D, 4)]

def rasmCells : List (Nat × Byte) := [(0x201, 8), (0x20D, 1), (0x20F, 1), (0x210, 1), (0x212, 8), (0x219, 4), (0x21C, 1), (0x221, 1)]

def routeCells : List (Nat × Byte) := ones 0x100 ++ [(0x209, 1), (0x20C, 1), (0x20E, 16), (0x210, 1)]

theorem test_relay_words (h : Obligations.RelayWords) :
    Runs (.epdef 0 16) { demo [512] with endpoints := [endpoint0 []] } ∧ Runs (.epdef 0 16) (holding epdefCells (demo [512])) ∧ Runs (.rasm 0 16) (holding rasmCells (demo [512]))
    ∧ Runs (.route 0 3 16 0) { holding routeCells (demo [512]) with tables := [table0 [.waiting] none] }
    ∧ Runs (.rret 0 15 16 17) { holding [(15, 0x80)] (demo [0, 1024]) with endpoints := [endpoint0 [0]] } := by
  have e := ((h { demo [512] with endpoints := [endpoint0 []] } (.epdef 0 16) placedRef (around (one [512])) (at_word rfl rfl rfl (mayUse rfl))).1 0 16 rfl ⟨rfl, by decide⟩
    at_rest).1 (endpoint0 []) computed computed rfl rfl
  obtain ⟨_, _, e2, -⟩ := ((h (holding epdefCells (demo [512])) (.epdef 0 16) placedRef (around (one [512])) (at_word rfl rfl rfl (mayUse rfl))).1 0 16 rfl ⟨rfl, by decide⟩
    at_rest).2 computed computed computed computed computed computed computed
    computed computed (by unfold hurdleAddress; decide +kernel) rfl (by decide) computed rfl
  obtain ⟨_, _, e3, -⟩ := (h (holding rasmCells (demo [512])) (.rasm 0 16) placedRef (around (one [512])) (at_word rfl rfl rfl (mayUse rfl))).2.1 0 16 rfl ⟨rfl, by decide⟩
    at_rest computed rfl
  obtain ⟨_, ⟨_, e4, -⟩, -⟩ := ((h { holding routeCells (demo [512]) with tables := [table0 [.waiting] none] } (.route 0 3 16 0) placedRef (around (one [512]))
    (at_word rfl rfl rfl (mayUse rfl))).2.2.1 0 3 16 0 (table0 [.waiting] none) rfl (is_calm rfl rfl) ⟨rfl, by decide⟩ (fun x => absurd rfl x) rfl computed rfl rfl rfl rfl
    computed computed computed computed computed computed computed computed computed
    (fun j hj => by
      obtain rfl : j = 0 := Nat.lt_one_iff.1 hj
      exact .inl computed)
    rfl (fun _ _ _ => room_for) (show 0 + 2 ≤ 256 by decide)).1
  obtain ⟨_, e5, -⟩ := (h { holding [(15, 0x80)] (demo [0, 1024]) with endpoints := [endpoint0 [0]] } (.rret 0 15 16 17) placedRef (around (one [0, 1024]))
    (at_word rfl rfl rfl (mayUse rfl))).2.2.2 0 15 16 17 (endpoint0 [0]) rfl at_rest rfl computed rfl rfl computed computed
    computed rfl rfl
  exact ⟨⟨_, e⟩, ⟨_, e2⟩, ⟨_, e3⟩, ⟨_, e4⟩, ⟨_, e5⟩⟩

/-- A row for an endpoint, and a return or notice for row 0 of table 0. -/
def row0 (forward : Bool) : RelayRow :=
  { asid := 1, srcDev := 0, srcCore := 0, table := 0, epoch := 1, row := 0, slot := 0, weight := 0x3F800000, forward := forward, forwarded := false, endpoint := 0
    data := List.replicate 16 7 }

def back (data : List Byte) : RelayReturn := { dev := 0, core := 0, table := 0, epoch := 1, row := 0, slot := 0, data := data }

/-- A row has come to the endpoint. -/
def incoming (full : List Nat) (forward : Bool) : State :=
  { demo [] with subject := [0], rowsIn := [row0 forward], endpoints := [endpoint0 full], hurdles := [{ bare with off := 1024 }] }

/-- A notice or a returned row has come to a table with two slots. -/
def returning (data : List Byte) : State :=
  { demo [] with subject := [0], noticesIn := [back data], returnsIn := [back data], tables := [table0 [.waiting, .waiting] none] }

/-- A table whose deadline is given. -/
def timed (deadline : Nat) : State := { demo [] with subject := [0, 0], tables := [table0 [.waiting, .returned] (some deadline)] }

/-- A table of one row of two slots, the first still waited for. -/
def almost (deadline : Option Nat) : Reassembly := table0 [.waiting, .returned] deadline

/-- What ends it is there: a notice, a returned row, its deadline. -/
def closing (deadline : Option Nat) : State :=
  { demo [] with subject := [0, 0], noticesIn := [back []], returnsIn := [back (List.replicate 16 1)], tables := [almost deadline] }

theorem test_relay_steps (h : Obligations.RelaySteps) :
    Runs .relayRowArrive (incoming [] false) ∧ Runs .relayRowArrive (incoming [0] false) ∧ Runs .relayRowArrive (incoming [0] true) ∧ Runs .relayDropNotice (returning [])
    ∧ Runs .relayReturnArrive (returning (List.replicate 16 1)) ∧ Runs .reassemblyDeadline (timed 1) ∧ Runs .reassemblyDeadline (timed 0)
    ∧ Runs .relayDropNotice (closing none) ∧ Runs .relayReturnArrive (closing none) ∧ Runs .reassemblyDeadline (closing (some 0)) := by
  obtain ⟨_, e, -⟩ := (h.1 (incoming [] false) (row0 false) [] rfl rfl).1 (endpoint0 []) placedTeam 0 { bare with off := 1024 } rfl rfl rfl rfl rfl (by decide) (fun x => by cases x)
    (fun _ x => by cases x) rfl rfl (.inr (by decide)) rfl
  have f : ∀ j < 1, j ∈ [0] := by decide
  have e2 := (h.1 (incoming [0] false) (row0 false) [] rfl rfl).2.1 (.inr ⟨endpoint0 [0], rfl, .inr ⟨rfl, f, .inl rfl⟩⟩) rfl
  have e3 := (h.1 (incoming [0] true) (row0 true) [] rfl rfl).2.2 (endpoint0 [0]) rfl rfl rfl f rfl rfl (by decide) rfl
  have r (data : List Byte) := h.2.1 (returning data) (back data) [] (table0 [.waiting, .waiting] none) placedTeam rfl rfl rfl rfl rfl rfl rfl rfl (show 0 < 1 by decide) (show 0 < 2 by decide)
    rfl rfl rfl (fun j hj _ => .inl (Nat.lt_one_iff.1 hj)) rfl ⟨1, by decide, show 1 ≠ 0 by decide, rfl⟩
  obtain ⟨_, e4, -⟩ := (r []).1 rfl
  obtain ⟨_, e5, -⟩ := (r (List.replicate 16 1)).2 rfl rfl (.inr (by decide)) rfl
  have e6 := (h.2.2.2 (timed 1) (table0 [.waiting, .returned] (some 1)) 1 rfl rfl rfl rfl).1 (by decide)
  obtain ⟨_, _, e7, -⟩ := (h.2.2.2 (timed 0) (table0 [.waiting, .returned] (some 0)) 0 rfl rfl rfl rfl).2 (by decide)
  have l (d : Option Nat) (hd : (closing d).table? 0 0 = some (almost d)) := h.2.2.1 (closing d) (almost d) placedTeam 2048 ⟨hd, rfl, rfl, rfl, rfl, .inl rfl, rfl, rfl, rfl, .inl (Nat.le_of_ble_eq_true rfl), .inl (Nat.le_of_ble_eq_true rfl), rfl,
    fun r hr => by
      obtain rfl : r = 0 := Nat.lt_one_iff.1 hr
      exact ⟨rfl, .inr (Nat.le_of_ble_eq_true rfl), .inr (Nat.le_of_ble_eq_true rfl), .inr (Nat.le_of_ble_eq_true rfl)⟩⟩
  have last (data : List Byte) : lastSlot (almost none) (back data) := ⟨rfl, rfl, rfl, show 0 < 1 by decide, show 0 < 2 by decide, rfl, rfl, fun y hy hn => by
    obtain rfl : y = 1 := by change y < 2 at hy; change y ≠ 0 at hn; omega
    exact fun x => by cases x⟩
  obtain ⟨_, e8, -⟩ := (l none rfl).1 (back []) [] rfl (last []) rfl
  obtain ⟨_, e9, -⟩ := (l none rfl).2.1 (back (List.replicate 16 1)) [] rfl (last _) rfl rfl
  obtain ⟨_, ea, -⟩ := (l (some 0) rfl).2.2 0 0 rfl rfl rfl (by decide) (show 0 < 1 by decide) rfl
  exact ⟨⟨_, e⟩, ⟨_, e2⟩, ⟨_, e3⟩, ⟨_, e4⟩, ⟨_, e5⟩, ⟨_, e6⟩, ⟨_, e7⟩, ⟨_, e8⟩, ⟨_, e9⟩, ⟨_, ea⟩⟩

/-! ## Launching, starting, the mailbox -/

/-- The placed grid with room for 128 spawned threads. -/
def roomy : Grid := { placedGrid with desc := { placedGrid.desc with spawn := 128 } }

/-- A heat of entry 0 of the placed team with so many arguments from an index on. -/
def heat0 (base n deadline : Nat) : Heat := { core := 0, grid := 1, team := 0, entry := 0, base := base, args := List.replicate n 7, deadline := deadline }

/-- The thread of the tests, its entry operand 0, in that grid with heats open. -/
def spawning (m : Team) (hs : List Heat) : State := { demo [] with grids := [roomy], teams := [m], heats := hs }

/-- The surroundings there. -/
def aroundRoomy (m : Team) : Ctx := { around (one []) with grid := roomy, team := m }

/-- A grid descriptor at 4096: one team of kernel 0 of code 1. -/
def descCells : List (Nat × Byte) := [(0x1000, 1), (0x1004, 1), (0x100D, 255)]

/-- The pages of the tests, in core 0's and in the chip's own translations. -/
def allPages : List TlbEntry := pages ++ [⟨192, 1, 0, 65536, 0x1F⟩]

/-- Context 1 with a window, a return-stack area, and bytes of memory. -/
def served (cells : List (Nat × Byte)) (s : State) : State :=
  { s with tlb := allPages, mem := cells, contexts := [{ asid := 1, root := none, window := some (0, 65536, 256), save := none }], rstackArea := some (0, 2 ^ 20) }

/-- An object that can be read is some list of bytes. -/
theorem readable {s : State} {a va n : Nat} {y : Bool} (h : (s.readObject a y va n).isSome = true) : ∃ bs, s.readObject a y va n = some bs := Option.isSome_iff_exists.1 h

/-- A descriptor is read and in order, as a check that computes. -/
theorem asked_desc {s : State} (h : (match s.readObject 1 true 4096 320 with
      | some bs => match s.checkDesc 1 true bs false with
        | (.ok, some k) => (s.readObject 1 true (fld bs 0x10 8) k.params).isSome
        | _ => false
      | none => false) = true) :
    ∃ bs k ps, s.readObject 1 true 4096 320 = some bs ∧ s.checkDesc 1 true bs false = (.ok, some k) ∧ s.readObject 1 true (fld bs 0x10 8) k.params = some ps := by
  split at h
  · split at h
    · obtain ⟨ps, hp⟩ := Option.isSome_iff_exists.1 h
      exact ⟨_, _, ps, ‹_›, ‹_›, hp⟩
    · cases h
  · cases h

/-- A descriptor is read and refused with UNKNOWN_ID, as a check that computes. -/
theorem refused_desc {s : State} (h : (match s.readObject 1 true 4096 320 with
      | some bs => match s.checkDesc 1 true bs false with
        | (.unknownId, none) => true
        | _ => false
      | none => false) = true) :
    ∃ bs, s.readObject 1 true 4096 320 = some bs ∧ s.checkDesc 1 true bs false = (.unknownId, none) := by
  split at h
  · split at h
    · exact ⟨_, ‹_›, ‹_›⟩
    · cases h
  · cases h

theorem test_spawn_and_launch (h : Obligations.SpawnAndLaunch) :
    Runs (.spawn 20 16 17) (spawning placedTeam [heat0 0 62 0]) ∧ Runs (.spawn 20 16 17) (spawning placedTeam [heat0 0 63 0])
    ∧ Runs (.spawn 20 16 17) (spawning placedTeam [heat0 128 1 0]) ∧ Runs (.spawn 20 16 17) (spawning placedTeam (List.replicate 16 { heat0 0 1 0 with entry := 4 }))
    ∧ Runs (.spawn 20 16 17) (spawning { placedTeam with cursor := 129 } []) ∧ Runs (.spawn 20 16 17) (spawning placedTeam []) ∧ Runs (.heat 16) (demo [255])
    ∧ Runs .heatDeadline { spawning placedTeam [heat0 64 1 1] with subject := [0, 0] } ∧ Runs .heatDeadline { spawning placedTeam [heat0 64 1 0] with subject := [0, 0] }
    ∧ Runs (.launch 0 16 0) (served descCells (demo [4096])) ∧ Runs (.launch 0 16 0) (served [(0x1004, 1)] (demo [4096])) := by
  have w (m : Team) (hs : List Heat) (hm : m.grid = 1 ∧ m.idx = 0 ∧ m.core = some 0 := by exact ⟨rfl, rfl, rfl⟩)
      (hc : (spawning m hs).ctx? placedRef = some (aroundRoomy m) := by rfl) (ht : (spawning m hs).team? 1 0 = some m := by rfl) :=
    h.1 (spawning m hs) placedRef (aroundRoomy m) 20 16 17 m (issues rfl hc rfl ⟨rfl, rfl, rfl, show 4 < (placedCode [0]).size by decide, rfl⟩ (mayUse rfl)) ht rfl (show 0 < (placedCode [0]).size by decide)
  have e := ((w placedTeam [heat0 0 62 0]).1 (heat0 0 62 0) rfl).1 (by decide) (by decide)
  obtain ⟨_, e2, -⟩ := ((w placedTeam [heat0 0 63 0]).1 (heat0 0 63 0) rfl).2.1 (by decide) (by decide)
  have e3 := ((w placedTeam [heat0 128 1 0]).1 (heat0 128 1 0) rfl).2.2 (by decide)
  have e4 := ((w placedTeam (List.replicate 16 { heat0 0 1 0 with entry := 4 })).2 (by decide)).1 (by decide)
  have e5 := ((w { placedTeam with cursor := 129 } []).2 rfl).2.1 (by decide) (by decide)
  have e6 := ((w placedTeam []).2 rfl).2.2 (by decide) (by decide) computed
  have e7 := h.2.1 (demo [255]) placedRef (around (one [255])) 16 (at_word rfl rfl rfl (mayUse rfl))
  have e8 := (h.2.2.1 { spawning placedTeam [heat0 64 1 1] with subject := [0, 0] } (heat0 64 1 1) rfl).1 (by decide)
  obtain ⟨_, _, e9, -⟩ := (h.2.2.1 { spawning placedTeam [heat0 64 1 0] with subject := [0, 0] } (heat0 64 1 0) rfl).2 placedTeam _ (by decide) rfl rfl (by decide)
  have l (cells) (h1 : _) (h2 : _) (h3 : _) (h4 : _) (h5 : _) := h.2.2.2 (served cells (demo [4096])) placedRef (around (one [4096])) 0 16 0 (at_word rfl rfl rfl (mayUse rfl)) (is_calm rfl rfl) rfl h1 h2 h3 h4
    (fun x => absurd rfl x) rfl (clear_of h5)
  have d : ∃ bs k ps, (served descCells (demo [4096])).readObject 1 true 4096 320 = some bs ∧ (served descCells (demo [4096])).checkDesc 1 true bs false = (.ok, some k)
      ∧ (served descCells (demo [4096])).readObject 1 true (fld bs 0x10 8) k.params = some ps :=
    asked_desc computed
  obtain ⟨bs, k, ps, h1, h2, h3⟩ := d
  obtain ⟨_, _, ea, -⟩ := (l descCells (by decide) rfl computed computed computed bs h1).1 k ps h2 h3 (by decide)
  have d2 : ∃ bs, (served [(0x1004, 1)] (demo [4096])).readObject 1 true 4096 320 = some bs ∧ (served [(0x1004, 1)] (demo [4096])).checkDesc 1 true bs false = (.unknownId, none) :=
    refused_desc computed
  obtain ⟨bs2, h4, h5⟩ := d2
  obtain ⟨_, eb, -⟩ := (l [(0x1004, 1)] (by decide) rfl computed computed computed bs2 h4).2 .unknownId none h5 (by decide) rfl
  exact ⟨⟨_, e⟩, ⟨_, e2⟩, ⟨_, e3⟩, ⟨_, e4⟩, ⟨_, e5⟩, ⟨_, e6⟩, ⟨_, e7⟩, ⟨_, e8⟩, ⟨_, e9⟩, ⟨_, ea⟩, ⟨_, eb⟩⟩

/-- A device whose start has come to step instance k, which runs by way p. -/
def booting (k : Nat) (p : Plan) : State :=
  { State.reset with boot := { Boot.reset with service := .starting, entries := freshRecord.modify k (fun e => { e with attempts := 1, status := 5 })
                                               plan := (List.replicate 92 none).set k (some p) } }

/-- The same at FUSE_LOAD, with POWER_RAMP to run after it. -/
def fused : State := { booting 1 .normal with boot := { (booting 1 .normal).boot with
    entries := (Boot.reset.allPassed.entries.modify 1 (fun e => { e with status := 5 })).modify 2 (fun e => { e with status := 0 }), plan := ((List.replicate 92 none).set 1 (some .normal)).set 2 (some .normal) } }

/-- The same with firmware in slot A. -/
def flashed (i : Option Image) : State := { booting 0 .normal with boot := { (booting 0 .normal).boot with slotA := i } }

/-- A device in reduced service of which only SERVE_FULL is left. -/
def reduced : State := { State.reset with boot := { Boot.reset.allPassed with service := .reduced, plan := (List.replicate 91 none) ++ [some .normal] } }

/-- A device in recovery. -/
def recovering : State := { State.reset with boot := { Boot.reset with service := .recovery } }

/-- A device in full service at a clock of so many MHz. -/
def clocked (mhz : Nat) : State := { demo [] with boot := { (demo []).boot with clock := mhz } }

theorem test_start (h : Obligations.StartSequence) :
    Runs .deviceStart (demo []) ∧ Runs .deviceStart State.reset ∧ Runs (.powerRamp true 0) (booting 1 .normal) ∧ Runs (.vilcorTrain 23 false 1023) (booting 89 .alternate)
    ∧ Runs (.hostLink true 0 64) (booting 65 .alternate) ∧ (∀ i, Runs (.fwLoad true 9 i) (booting 90 .normal)) ∧ Runs (.fuseLoad true 3) fused
    ∧ Runs .romCheck (demo []) ∧ Runs .romCheck (booting 0 .normal) ∧ (∀ i, slotGood (some i) = true → Runs .romCheck (flashed (some i)))
    ∧ Runs .serveFull reduced ∧ Runs (.recoveryLinkRetry ⟨[], [(16, 63), (4, 64)]⟩) recovering ∧ Runs (.recoveryLinkRetry ⟨[], [(2, 64)]⟩) recovering ∧ Runs (.powerWindow 2600001) (clocked 1201) ∧ Runs (.powerWindow 2600001) (clocked 1200)
    ∧ Runs (.powerWindow 2600000) (clocked 1200) ∧ Runs (.powerWindow 2499999) (clocked 1750) := by
  obtain ⟨h1, h2, h3, h4, h5, h6, h7⟩ := h
  obtain ⟨_, e2, -⟩ := h2 State.reset rfl rfl
  have e3 := (h3 (booting 1 .normal) (.powerRamp true 0) 2 true 0 rfl).1 (by decide)
  obtain ⟨_, e4, -⟩ := (h3 (booting 89 .alternate) (.vilcorTrain 23 false 1023) 89 false 1023 rfl).2 _ (by decide) rfl rfl
  obtain ⟨_, e5, -⟩ := (h3 (booting 65 .alternate) (.hostLink true 0 64) 65 true 0 rfl).2 _ (by decide) rfl rfl
  have e6 := (h4 (demo [])).1 (by decide)
  obtain ⟨_, e7, -, -, -⟩ := (h4 (booting 0 .normal)).2 _ (by decide) rfl
  have e8 (i : Image) (hg : slotGood (some i) = true) : Runs .romCheck (flashed (some i)) := by
    obtain ⟨u, e, -, g, -⟩ := (h4 (flashed (some i))).2 _ rfl rfl
    have := (g hg rfl).1
    exact ⟨u, e⟩
  obtain ⟨_, e9, -⟩ := h5 reduced _ rfl (by decide) (by decide) rfl
  have ea := (h6 recovering ⟨[], [(16, 63), (4, 64)]⟩ rfl rfl).2 4 64 (by simp) ⟨.inr (.inr rfl), .inl rfl⟩ (fun w r hm ht => by
    rcases List.mem_cons.1 hm with e | hm
    · cases e; exact absurd ht.2 (by decide)
    · cases List.mem_singleton.1 hm; exact .inr ⟨rfl, Nat.le_refl _⟩)
  have ef := (h6 recovering ⟨[], [(2, 64)]⟩ rfl rfl).1 (fun w r hm ht => by cases List.mem_singleton.1 hm; exact absurd ht.1 (by decide))
  obtain ⟨_, eg, -, -, -, -, -, g⟩ := (h3 fused (.fuseLoad true 3) 1 true 3 rfl).2 _ (by decide) rfl rfl
  have := g _ .normal rfl rfl rfl (by decide) rfl (by decide)
  have eh (i : Image) : Runs (.fwLoad true 9 i) (booting 90 .normal) := by
    obtain ⟨u, e, -⟩ := (h3 (booting 90 .normal) (.fwLoad true 9 i) 90 (true && imageAccepted i) 9 rfl).2 _ (by decide) rfl rfl
    exact ⟨u, e⟩
  have eb := (h7 (clocked 1201) 2600001 (.inr rfl)).1 (by decide) (by decide)
  obtain ⟨_, ec, -⟩ := (h7 (clocked 1200) 2600001 (.inr rfl)).2.1 (by decide) (by decide)
  have ed := (h7 (clocked 1200) 2600000 (.inr rfl)).2.2.1 (by decide) (by decide)
  obtain ⟨_, ee, -⟩ := (h7 (clocked 1750) 2499999 (.inr rfl)).2.2.2 (by decide)
  exact ⟨⟨_, h1 (demo []) (by decide)⟩, ⟨_, e2⟩, ⟨_, e3⟩, ⟨_, e4⟩, ⟨_, e5⟩, eh, ⟨_, eg⟩, ⟨_, e6⟩, ⟨_, e7⟩, e8, ⟨_, e9⟩, ⟨_, ea⟩, ⟨_, ef⟩, ⟨_, eb⟩, ⟨_, ec⟩,
    ⟨_, ed⟩, ⟨_, ee⟩⟩

/-- A device in full service with its host link up. -/
def linked : State := { demo [] with boot := { (demo []).boot with link := some (16, 64) } }

theorem test_mailbox (h : Obligations.Mailbox) :
    Runs .getCaps State.reset ∧ Runs .getCaps linked ∧ Runs .getBringup linked ∧ Runs .clearBringup linked ∧ Runs (.getAttest 5) linked
    ∧ Runs (.imageLoad { version := 1, length := 0, digest := 0, key := 0, sig := 0, body := [] }) linked ∧ Runs (.mailboxUnknownCommand 7) linked ∧ Runs .reset linked := by
  obtain ⟨⟨_, e2, -⟩, ⟨_, e3, -⟩, e4, e5, e6, e7, ⟨_, e8, -⟩⟩ := h.2 linked ⟨by decide, by decide⟩
  obtain ⟨_, e5, -⟩ := e5 5 (by decide)
  exact ⟨⟨_, h.1 State.reset .getCaps trivial (fun x => x.2 rfl)⟩, ⟨_, e2⟩, ⟨_, e3⟩, ⟨_, e4 (by decide)⟩, ⟨_, e5⟩, ⟨_, e6 _⟩, ⟨_, e7 7 (by decide)⟩, ⟨_, e8⟩⟩

/-! ## Queues, ring entries, graphs, placement -/

/-- A state with ring 3 as given and its number the subject. -/
def withRing (x : HostQueue) (s : State) : State := { s with queues := State.reset.queues.set 3 x, subject := [3] }

/-- Ring 3 bound to context 1, its 16 entries at 8192, one at HEAD. -/
def ring3 : HostQueue := { base := 8192, size := 16, tail := 1, asid := some 1, system := true }

/-- The bytes of an object of n bytes, zero but for those given by offset. -/
def object (n : Nat) (fs : List (Nat × Byte)) : List Byte := (List.range n).map fun k => ((fs.find? fun x => x.1 = k).map (·.2)).getD 0

/-- Such bytes as cells from a place on. -/
def cellsAt (place : Nat) (fs : List (Nat × Byte)) : List (Nat × Byte) := fs.map fun x => (place + x.1, x.2)

/-- A graph object of one node: a join, with an edge from it to the exit, or a grid of kernel 0 of code 1; done: its done word's address is 4096. -/
def joinGraph (edges done : Byte) : List (Nat × Byte) :=
  [(0, 0x41), (1, 0x5A), (2, 0x47), (3, 0x48), (4, 1), (8, 1), (10, edges), (0x10, 64), (0x14, 80), (0x24, 96), (0x29, done), (74, 1), (82, 0xFF), (83, 0xFF)]

def gridGraph : List (Nat × Byte) := [(8, 1), (0x10, 64), (64, 128), (128, 1), (132, 1), (141, 255)]

/-- Graph 1 of context 1. -/
def graph1 (bytes : List Byte) (outstanding : Nat) : Graph := { id := 1, asid := 1, system := true, bytes := bytes, instances := outstanding, outstanding := outstanding }

/-- Ring 3 on a device with graph 1. -/
def kicking (outstanding : Nat) : State := withRing ring3 { served [] (demo []) with graphs := [graph1 (object 64 []) outstanding] }

/-- RMA queue 2 as given. -/
def withRma (x : RmaQueue) : State := { demo [] with rmas := State.reset.rmas.set 2 x }

theorem test_queue_registers (h : Obligations.QueueRegisters) :
    Runs (.qbaseWrite 3 63) (withRing ring3 (demo [])) ∧ Runs (.qsizeWrite 3 16) (withRing {} (demo [])) ∧ Runs (.qsizeWrite 3 8) (withRing {} (demo []))
    ∧ Runs (.tailWrite 64 16) { demo [] with priv := ring3 } ∧ Runs (.qstatusW1c 3 7) (withRing {} (demo [])) ∧ Runs (.registerWrite 3 0xFF) (withRing {} (demo []))
    ∧ Runs (.kick 3 0 false) (withRing ring3 (demo [])) ∧ Runs (.kick 3 0 true) (withRing ring3 (demo [])) ∧ (∃ x, (kicking 4).takeKick ring3 (1 <<< 52) = x)
    ∧ Runs (.kick 3 (1 <<< 52) true) (kicking 3) ∧ Runs (.rmaRingConfigWrite 2 .base 64) (withRma {}) ∧ Runs (.rmaRingConfigWrite 2 .size 65536) (withRma {})
    ∧ Runs (.rmaRingConfigWrite 2 .size 15) (withRma {}) ∧ Runs (.rmaTailWrite 2 1) (withRma {}) ∧ Runs (.rstatusW1c 2 15) (withRma {})
    ∧ Runs (.queueReadWrite .fault 1) (demo []) ∧ Runs (.queueConfigWrite .fault .base 64) (demo []) ∧ Runs (.queueConfigWrite .fault .base 65) (demo [])
    ∧ Runs (.queueConfigWrite .kill .size 32) (demo []) ∧ Runs (.queueConfigWrite .kill .size 8) (demo []) ∧ Runs (.queueConfigWrite .event .size 16) { demo [] with eventQ := { write := 1 } } := by
  obtain ⟨h1, h2, h3, h4⟩ := h
  have z := h1 (withRing {} (demo [])) 3 {} rfl
  have e1 := (h1 (withRing ring3 (demo [])) 3 ring3 rfl).1 63
  have e2 := (z.2.1 16).1 ⟨rfl, .inr ⟨4, by decide, by decide, rfl⟩⟩
  have low (n : Nat) (h0 : n ≠ 0) (hn : n < 2 ^ 4) : ¬ringSize n := fun x => by
    rcases x with y | ⟨k, a, -, c⟩
    · exact h0 y
    · exact absurd (c ▸ Nat.pow_le_pow_right (by decide) a : 2 ^ 4 ≤ n) (Nat.not_le.2 hn)
  have e3 := (z.2.1 8).2 fun x => low 8 (by decide) (by decide) x.2
  have e4 := (h1 { demo [] with priv := ring3 } 64 ring3 rfl).2.2.1 16
  have k1 := h2 (withRing ring3 (demo [])) 3 ring3 0 (by decide) rfl
  have k2 := k1.2.1 .unknownId ⟨_, rfl⟩ (by decide)
  obtain ⟨_, k3⟩ := ((h2 (kicking 4) 3 ring3 (1 <<< 52) (by decide) rfl).2.2.2 _ 1 [] (by decide) rfl (by rfl)).1 (by decide)
  obtain ⟨_, _, k4, -⟩ := ((h2 (kicking 3) 3 ring3 (1 <<< 52) (by decide) rfl).2.2.2 _ 1 [] (by decide) rfl (by rfl)).2 (by decide) computed
  have y := h3 (withRma {}) 2 {} rfl
  have r2 := (y.2.1 65536).1 ⟨rfl, .inr ⟨16, by decide, by decide, by decide⟩⟩
  have r3 := (y.2.1 15).2 fun x => low 15 (by decide) (by decide) x.2
  have q3 := ((h4 (demo [])).2.2.1 32).2.2.1 rfl (.inr ⟨5, by decide, by decide, by decide⟩)
  have q4 := ((h4 (demo [])).2.2.1 8).2.2.2.1 rfl (low 8 (by decide) (by decide))
  exact ⟨⟨_, e1⟩, ⟨_, e2⟩, ⟨_, e3⟩, ⟨_, e4⟩, ⟨_, z.2.2.2.1 7⟩, ⟨_, z.2.2.2.2 0xFF⟩, ⟨_, k1.1⟩, ⟨_, k2⟩, ⟨_, k3⟩, ⟨_, k4⟩, ⟨_, y.1 64⟩, ⟨_, r2⟩, ⟨_, r3⟩, ⟨_, y.2.2.1 1⟩, ⟨_, y.2.2.2 15⟩,
    ⟨_, ((h4 (demo [])).1 1).1⟩, ⟨_, ((h4 (demo [])).2.1 64).1 rfl rfl⟩, ⟨_, ((h4 (demo [])).2.1 65).2.1 rfl (by decide)⟩, ⟨_, q3⟩, ⟨_, q4⟩,
    ⟨_, ((h4 { demo [] with eventQ := { write := 1 } }).2.2.2 16).2.2.2.2 (by decide) .size⟩⟩

/-- Ring 3 with an entry at HEAD and other bytes of memory. -/
def entered (fs more : List (Nat × Byte)) : State := withRing ring3 (served (more ++ cellsAt 8192 fs) (demo []))

/-- The entry stands there, in order. -/
theorem at_head (fs more : List (Nat × Byte)) (op : Nat) (h : ((entered fs more).readObject 1 true 8192 64 == some (object 64 fs) && reads (entered fs more) chipUnit 1 true 8192 64 && entryOp (object 64 fs) == op
      && !entryReserved (object 64 fs) && entryDone (object 64 fs) % 8 == 0) = true) : entryAtHead (entered fs more) 3 op ring3 (object 64 fs) := by
  simp only [Bool.and_eq_true, beq_iff_eq, Bool.not_eq_true'] at h
  exact ⟨by decide, rfl, ⟨1, rfl, h.1.1.1.1, clear_of h.1.1.1.2⟩, .inr rfl, by decide, by decide, (fun _ x => by cases x), (fun _ _ x => by cases x), h.1.1.2, h.1.2, h.2⟩

/-- A code object of 80 bytes without kernels, its digest that of no bytes (FIPS 180-4). -/
def codeObject : List (Nat × Byte) :=
  [(0, 0x41), (1, 0x5A), (2, 0x43), (3, 0x4F), (4, 1)] ++ cellsAt 0x30 (((List.range 32).zip
    [0xe3, 0xb0, 0xc4, 0x42, 0x98, 0xfc, 0x1c, 0x14, 0x9a, 0xfb, 0xf4, 0xc8, 0x99, 0x6f, 0xb9, 0x24, 0x27, 0xae, 0x41, 0xe4, 0x64, 0x9b, 0x93, 0x4c, 0xa4, 0x95, 0x99, 0x1b,
     0x78, 0x52, 0xb8, 0x55]).map fun x => (x.1, x.2))

/-- The device with code 2 of context 1, which nothing uses, and graphs 1 and 2. -/
def stocked (fs : List (Nat × Byte)) : State :=
  { entered fs [] with codes := [placedCode [0], { placedCode [0] with id := 2 }], graphs := [graph1 [] 1, { graph1 [] 0 with id := 2 }] }

theorem at_head_stocked (fs : List (Nat × Byte)) (op : Nat) (h : ((stocked fs).readObject 1 true 8192 64 == some (object 64 fs) && reads (stocked fs) chipUnit 1 true 8192 64 && entryOp (object 64 fs) == op
      && !entryReserved (object 64 fs) && entryDone (object 64 fs) % 8 == 0) = true) : entryAtHead (stocked fs) 3 op ring3 (object 64 fs) := by
  simp only [Bool.and_eq_true, beq_iff_eq, Bool.not_eq_true'] at h
  exact ⟨by decide, rfl, ⟨1, rfl, h.1.1.1.1, clear_of h.1.1.1.2⟩, .inr rfl, by decide, by decide, (fun _ x => by cases x), (fun _ _ x => by cases x), h.1.1.2, h.1.2, h.2⟩

theorem test_code_entries (h : Obligations.RingEntries) :
    Runs .loadCode (entered [(0, 1), (9, 0x10)] (cellsAt 4096 codeObject)) ∧ Runs .loadCode (entered [(0, 1), (10, 3)] []) ∧ Runs .unloadCode (stocked [(0, 2), (2, 9)])
    ∧ Runs .unloadCode (stocked [(0, 2), (2, 1)]) ∧ Runs .unloadCode (stocked [(0, 2), (2, 2)]) := by
  obtain ⟨_, e, -⟩ := ((h (entered [(0, 1), (9, 0x10)] (cellsAt 4096 codeObject)) ring3 (object 64 [(0, 1), (9, 0x10)])).1 (at_head _ _ 1 computed)).1
    (object 80 codeObject) (object 80 codeObject) 2 computed computed computed computed computed (by decide) (by decide)
    (fun c hc => by rw [List.mem_singleton.1 hc]; decide) (fun j h1 h2 => ⟨_, List.mem_singleton.2 rfl, (Nat.le_antisymm (Nat.le_of_lt_succ h2) h1).symm⟩)
    (clear_of computed)
  obtain ⟨_, e2, -⟩ := ((h (entered [(0, 1), (10, 3)] []) ring3 (object 64 [(0, 1), (10, 3)])).1 (at_head _ _ 1 computed)).2 computed (clear_of computed)
  have u (fs) (hf : entryAtHead (stocked fs) 3 2 ring3 (object 64 fs)) := (h (stocked fs) ring3 (object 64 fs)).2.1 hf
  obtain ⟨_, e3, -⟩ := (u [(0, 2), (2, 9)] (at_head_stocked _ 2 computed)).1 (fun c hc x => by
    rcases List.mem_cons.1 hc with rfl | hc
    · exact absurd x computed
    · rw [List.mem_singleton.1 hc] at x; exact absurd x computed)
  obtain ⟨_, e4, -⟩ := ((u [(0, 2), (2, 1)] (at_head_stocked _ 2 computed)).2 ⟨_, .head _, by decide +kernel, rfl⟩).1 computed
  obtain ⟨_, e5, -⟩ := ((u [(0, 2), (2, 2)] (at_head_stocked _ 2 computed)).2 ⟨_, .tail _ (.head _), by decide +kernel, rfl⟩).2 computed
  exact ⟨⟨_, e⟩, ⟨_, e2⟩, ⟨_, e3⟩, ⟨_, e4⟩, ⟨_, e5⟩⟩

theorem test_graph_entries (h : Obligations.RingEntries) :
    Runs .uploadGraph (entered [(0, 3), (9, 0x10)] (cellsAt 4096 (joinGraph 1 0))) ∧ Runs .uploadGraph (entered [(0, 3), (9, 0x10)] (cellsAt 4096 [(0x24, 64)]))
    ∧ Runs .releaseGraph (stocked [(0, 4), (2, 9)]) ∧ Runs .releaseGraph (stocked [(0, 4), (2, 1)]) ∧ Runs .releaseGraph (stocked [(0, 4), (2, 2)]) := by
  obtain ⟨_, e, -⟩ := ((h (entered [(0, 3), (9, 0x10)] (cellsAt 4096 (joinGraph 1 0))) ring3 (object 64 [(0, 3), (9, 0x10)])).2.2.1 (at_head _ _ 3 computed)
    ((object 96 (joinGraph 1 0)).take 64) (object 96 (joinGraph 1 0)) 1 computed computed computed (clear_of computed)).1 computed (by decide) (by decide)
    (fun _ x => by cases x) (fun j h1 h2 => absurd h1 (by omega))
  obtain ⟨_, e2, -⟩ := ((h (entered [(0, 3), (9, 0x10)] (cellsAt 4096 [(0x24, 64)])) ring3 (object 64 [(0, 3), (9, 0x10)])).2.2.1 (at_head _ _ 3 computed)
    (object 64 [(0x24, 64)]) (object 64 [(0x24, 64)]) 1 computed computed computed (clear_of computed)).2 .format computed (by decide)
  have r (fs) (hf : entryAtHead (stocked fs) 3 4 ring3 (object 64 fs)) := (h (stocked fs) ring3 (object 64 fs)).2.2.2.1 hf
  obtain ⟨_, e3, -⟩ := (r [(0, 4), (2, 9)] (at_head_stocked _ 4 computed)).1 computed
  obtain ⟨_, e4, -⟩ := ((r [(0, 4), (2, 1)] (at_head_stocked _ 4 computed)).2 (graph1 [] 1) computed).1 (by decide)
  obtain ⟨_, e5, -⟩ := ((r [(0, 4), (2, 2)] (at_head_stocked _ 4 computed)).2 { graph1 [] 0 with id := 2 } computed).2 (by decide)
  exact ⟨⟨_, e⟩, ⟨_, e2⟩, ⟨_, e3⟩, ⟨_, e4⟩, ⟨_, e5⟩⟩

/-- Ring 3 with a WAIT_VALUE pending for a value at 4096. -/
def held (value : Byte) : State := withRing { ring3 with pending := [(0, object 64 [(0, 6), (9, 0x10), (0x18, value)])] } (served [] (demo []))

theorem test_other_entries (h : Obligations.RingEntries) :
    Runs .ringLaunch (entered [(0, 5), (8, 1)] []) ∧ Runs .ringLaunch (entered [(0, 5), (9, 0x10)] descCells) ∧ Runs .waitValue (entered [(0, 6), (9, 0x10)] [])
    ∧ Runs .waitValue (entered [(0, 6), (9, 0x10), (0x18, 1)] []) ∧ Runs .waitValueSatisfied (held 1) ∧ Runs .waitValueSatisfied (held 0)
    ∧ Runs .writeValue (entered [(0, 7), (9, 0x10), (0x18, 1)] []) ∧ Runs .ringEntryReserved (entered [(0, 8)] []) ∧ Runs .ringEntryReserved (withRing { ring3 with base := 0x30000 } (demo [])) := by
  obtain ⟨_, e, -⟩ := ((h (entered [(0, 5), (8, 1)] []) ring3 (object 64 [(0, 5), (8, 1)])).2.2.2.2.1 (at_head _ _ 5 computed)).1 computed
  obtain ⟨bs, k, ps, h1, h2, h3⟩ := asked_desc (s := entered [(0, 5), (9, 0x10)] descCells) computed
  obtain ⟨_, _, e2, -⟩ := ((h (entered [(0, 5), (9, 0x10)] descCells) ring3 (object 64 [(0, 5), (9, 0x10)])).2.2.2.2.1 (at_head _ _ 5 computed)).2 bs k ps computed h1 h2 h3
    computed (clear_of computed)
  obtain ⟨_, e3, -⟩ := ((h (entered [(0, 6), (9, 0x10)] []) ring3 (object 64 [(0, 6), (9, 0x10)])).2.2.2.2.2.1 (at_head _ _ 6 computed) (List.replicate 8 0) computed (clear_of computed)).1
    computed
  obtain ⟨_, e4, -⟩ := ((h (entered [(0, 6), (9, 0x10), (0x18, 1)] []) ring3 (object 64 [(0, 6), (9, 0x10), (0x18, 1)])).2.2.2.2.2.1 (at_head _ _ 6 computed) (List.replicate 8 0)
    computed (clear_of computed)).2 computed
  have w (v : Byte) (ho : entryOp (object 64 [(0, 6), (9, 0x10), (0x18, v)]) = 6) (hr : (held v).readObject 1 true (fld (object 64 [(0, 6), (9, 0x10), (0x18, v)]) 8 8) 8 = some (List.replicate 8 0))
      (hc : reads (held v) chipUnit 1 true (fld (object 64 [(0, 6), (9, 0x10), (0x18, v)]) 8 8) 8 = true) :=
    (h (held v) { ring3 with pending := [(0, object 64 [(0, 6), (9, 0x10), (0x18, v)])] } []).2.2.2.2.2.2.1 0 (object 64 [(0, 6), (9, 0x10), (0x18, v)]) (List.replicate 8 0)
      (show 3 < 64 by decide) rfl rfl ho hr (clear_of hc)
  have e5 := (w 1 computed computed computed).1 computed
  obtain ⟨_, _, e6, -⟩ := (w 0 computed computed computed).2 computed
  obtain ⟨_, e7, -⟩ := (h (entered [(0, 7), (9, 0x10), (0x18, 1)] []) ring3 (object 64 [(0, 7), (9, 0x10), (0x18, 1)])).2.2.2.2.2.2.2.1 (at_head _ _ 7 computed) rfl 4096
    computed computed computed computed
  obtain ⟨_, _, e8, -⟩ := ((h (entered [(0, 8)] []) ring3 (object 64 [(0, 8)])).2.2.2.2.2.2.2.2 (show 3 < 64 by decide) rfl).1 computed computed computed
  have e9 := ((h (withRing { ring3 with base := 0x30000 } (demo [])) { ring3 with base := 0x30000 } []).2.2.2.2.2.2.2.2 (show 3 < 64 by decide) rfl).2 computed (fun a x => by cases x; exact clear_of computed)
  exact ⟨⟨_, e⟩, ⟨_, e2⟩, ⟨_, e3⟩, ⟨_, e4⟩, ⟨_, e5⟩, ⟨_, e6⟩, ⟨_, e7⟩, ⟨_, e8⟩, ⟨_, e9⟩⟩

/-- Instance 1 of graph 1. -/
def inst1 (started : Bool) (nodes : List NodeState) (edges : List Bool) : GraphInst :=
  { uid := 1, graph := 1, number := 1, asid := 1, system := true, prio := 0, patches := [], started := started, nodes := nodes, edges := edges, failed := [] }

/-- The device with that instance of a graph object. -/
def graphed (n : Nat) (fs : List (Nat × Byte)) (i : GraphInst) : State :=
  { served [] (demo []) with subject := [1, 0], graphs := [graph1 (object n fs) 1], insts := [i] }

theorem test_task_graphs (h : Obligations.TaskGraphs) :
    Runs .graphInstanceStart (graphed 96 (joinGraph 0 0) (inst1 false [.waiting] [])) ∧ Runs .graphInstanceStart (graphed 96 (joinGraph 0 0) (inst1 true [.ended] []))
    ∧ Runs .edgeClean (graphed 96 (joinGraph 1 0) (inst1 true [.ended] [false])) ∧ Runs .graphNodeStart (graphed 96 (joinGraph 1 0) (inst1 true [.waiting] [false]))
    ∧ Runs .graphNodeStart (graphed 448 gridGraph (inst1 true [.waiting] [])) ∧ Runs .graphInstanceComplete (graphed 96 (joinGraph 1 0) (inst1 true [.ended] [true]))
    ∧ Runs .graphInstanceComplete (graphed 96 (joinGraph 1 0x10) (inst1 true [.ended] [true])) := by
  have g (n fs i) (hu : i.uid = 1) (hg : i.graph = 1) := h (graphed n fs i) i (graph1 (object n fs) 1) (by show List.find? _ [i] = _; simp [graphed, State.subj, hu]) (by
    show List.find? _ [graph1 (object n fs) 1] = _; simp [graph1, hg])
  obtain ⟨_, _, e, -⟩ := (g 96 (joinGraph 0 0) (inst1 false [.waiting] []) rfl rfl).1 rfl (.inr fun j hj _ => List.mem_singleton.1 hj ▸ Nat.le_refl _) computed
    (fun k hk => by
      obtain rfl : k = 0 := Nat.lt_one_iff.1 (Nat.lt_of_lt_of_le hk computed)
      decide +kernel) computed
  have e2 := (g 96 (joinGraph 0 0) (inst1 true [.ended] []) rfl rfl).2.1 (.inl rfl)
  obtain ⟨_, e3, -⟩ := (g 96 (joinGraph 1 0) (inst1 true [.ended] [false]) rfl rfl).2.2.1 computed rfl computed computed
  have c : ∀ e, e < gEdges (object 96 (joinGraph 1 0)) → consumer (object 96 (joinGraph 1 0)) e = 0 → (inst1 true [.waiting] [false]).edges[e]? = some true := fun e he hc => by
    obtain rfl : e = 0 := Nat.lt_one_iff.1 (Nat.lt_of_lt_of_le he computed)
    exact absurd hc computed
  have e4 := ((g 96 (joinGraph 1 0) (inst1 true [.waiting] [false]) rfl rfl).2.2.2.1 rfl computed rfl c).1 computed
  obtain ⟨_, _, e5, -⟩ := ((g 448 gridGraph (inst1 true [.waiting] []) rfl rfl).2.2.2.1 rfl computed rfl
    (fun e he => absurd (Nat.lt_of_lt_of_le he (show gEdges (object 448 gridGraph) ≤ 0 by decide +kernel)) (Nat.not_lt_zero e))).2 computed computed
  have f (done : Byte) (h1 : gEdges (object 96 (joinGraph 1 done)) ≤ 1) (h2 : gNodes (object 96 (joinGraph 1 done)) ≤ 1) :=
    (g 96 (joinGraph 1 done) (inst1 true [.ended] [true]) rfl rfl).2.2.2.2 rfl
    (fun e he _ => by
      obtain rfl : e = 0 := Nat.lt_one_iff.1 (Nat.lt_of_lt_of_le he h1)
      rfl)
    (fun k hk _ => by
      obtain rfl : k = 0 := Nat.lt_one_iff.1 (Nat.lt_of_lt_of_le hk h2)
      rfl) rfl
  have e6 := (f 0 computed computed).1 computed
  obtain ⟨_, e7, -⟩ := (f 0x10 computed computed).2 4096 computed computed computed (by decide)
  exact ⟨⟨_, e⟩, ⟨_, e2⟩, ⟨_, e3⟩, ⟨_, e4⟩, ⟨_, e5⟩, ⟨_, e6⟩, ⟨_, e7⟩⟩

/-- A grid of one team that waits for cluster 0, with a carve code of its own. -/
def idle (id carve : Nat) : Grid := { placedGrid with id := id, desc := { placedGrid.desc with carve := carve }, unplaced := [{ cluster := 0, first := 0, count := 1 }] }

/-- A device with such a grid and nothing resident. -/
def empty (carve : Nat) : State := { served [] (demo []) with grids := [idle 1 carve], teams := [], threads := [] }

/-- The placed team evicted. -/
def away : Team := { placedTeam with core := none }

/-- A device whose team is away and has a thread to run. -/
def evicted : State := { served [] (demo []) with teams := [away] }

/-- A device whose team has nothing to do and keeps the core from a grid that needs carve code 1; its context has a save area. -/
def pressed : State :=
  { served [] (alone { one [] with status := .exited }) with
    subject := [1, 0], grids := [placedGrid, idle 2 1], contexts := [{ asid := 1, root := none, window := some (0, 65536, 256), save := some (0, 2 ^ 20) }] }

/-- The thread that keeps the core waits on a hurdle, two entries on its return stack. -/
def stacked : Thread := { waiting none with ref := placedRef, stack := [(64, 16), (4, 0)] }

def pressedDeep : State := { pressed with threads := [stacked], hurdles := [bare] }

theorem test_placement (h : Obligations.TeamPlacement) :
    Runs (.teamPlace 1 [0]) (empty 0xFF) ∧ Runs (.carveChange 0 1) (empty 1) ∧ Runs (.teamResume 1 [(0, 0)]) evicted ∧ Runs .teamEvict pressed
    ∧ (∃ u : State, exec .teamEvict pressedDeep = .next u ∧ leNat (memRead u.mem (placedTeam.stackKey 0 1) 4) = 64) ∧ Runs .starterPick { demo [] with cycle := 2, subject := [0, 0] } ∧ Runs .gridSlotFreed { demo [] with grids := [{ placedGrid with queued := true }] } := by
  obtain ⟨h1, h2, h3, h4, h5, h6⟩ := h
  obtain ⟨_, _, _, e, -⟩ := h1 (empty 0xFF) (idle 1 0xFF) (around (one [])).kernel 0 { core := 0, scratch := 0, localSlot := 0, rstackSlot := 0 } 0
    { idle 1 0xFF with unplaced := [] } computed computed rfl rfl computed computed rfl computed
  obtain ⟨_, e2, -⟩ := h2 (empty 1) 0 1 (idle 1 1) (around (one [])).kernel (.head _) rfl (.inl (by decide)) computed computed (by decide) computed
    computed computed
  obtain ⟨_, _, e3, -⟩ := h3 evicted placedGrid (around (one [])).kernel away 0 0 computed computed rfl computed rfl computed computed
    (fun y hy hp => by rw [List.mem_singleton.1 hy] at hp; exact absurd hp (by decide)) (fun v hv => by
      rw [show evicted.threadsOf placedGrid.id away.idx = [one []] by decide +kernel] at hv
      rw [List.mem_singleton.1 hv]
      exact ⟨(fun _ _ _ _ x => by cases x), (fun _ x => by cases x)⟩)
  obtain ⟨_, _, e4, -⟩ := h4 pressed placedTeam placedGrid (idle 2 1, none) rfl computed computed rfl computed computed computed
    computed computed
  obtain ⟨_, _, f4, -, -, -, -, g4, -⟩ := h4 pressedDeep placedTeam placedGrid (idle 2 1, none) rfl computed computed rfl computed computed computed
    computed computed
  have k4 := g4 stacked computed (fun x => by cases x) rfl rfl rfl 0 (64, 16) (by decide) rfl computed
  obtain ⟨_, _, e5, -⟩ := h5 { demo [] with cycle := 2, subject := [0, 0] } computed
  obtain ⟨_, _, e6, -⟩ := h6 { demo [] with grids := [{ placedGrid with queued := true }] } _ (by decide) rfl (fun _ _ x => by cases x)
  exact ⟨⟨_, e⟩, ⟨_, e2⟩, ⟨_, e3⟩, ⟨_, e4⟩, ⟨_, f4, k4.1⟩, ⟨_, e5⟩, ⟨_, e6⟩⟩

/-- The placed thread stopped with a failed check, or waiting for trap entry. -/
def broken : Fail := { cause := .permission, addr := 5 }

def stoppedAt (st : TStatus) : Thread := { one [] with status := st }

/-- A fault record and a host queue with room for 16 of them. -/
def fault7 : FaultRec := { seq := 7, grid := 1, team := 0, asid := 1, addr := 0x20000, kind := 0, level := 1, pc := 0, joined := 0, posted := false }

def roomy16 : OutQueue := { size := 16 }

/-- A grid whose one team has retired, a child whose end the placed team's hurdle awaits. -/
def spent (onEnd : GridEnd) : Grid := { placedGrid with id := 2, onEnd := onEnd }

/-- What holds of every member of a list holds where it has none. -/
theorem none_in {α : Type} {l : List α} {p : α → Prop} (h : l = []) : ∀ x ∈ l, p x := by simp [h]

/-- The last unit of a cycle of die 0 in which a thread of the placed team has taken a killing cause. -/
def dyingNow : State := { alone (stoppedAt .exited) with turn := 383, teams := [{ placedTeam with dying := some { cause := 7 } }] }

theorem test_stops (h : Obligations.StopsAndRecords) :
    Runs (.preciseStopEnd placedRef) (alone (stoppedAt (.stopped .pass))) ∧ Runs (.preciseStopEnd placedRef) (withTrap (alone (stoppedAt (.stopped (.fail broken)))))
    ∧ Runs (.preciseStopEnd placedRef) (alone (stoppedAt (.stopped (.fail broken)))) ∧ Runs (.trapEntry placedRef) (withTrap (alone (stoppedAt (.trapWait broken))))
    ∧ Runs (.trapEntry placedRef) { withTrap (alone (stoppedAt (.trapWait broken))) with faultRecs := [fault7] } ∧ Runs (.preciseStopEnd placedRef) (demo [])
    ∧ Runs .teamRetire { alone (stoppedAt .exited) with subject := [1, 0] } ∧ Runs .teamRetire { demo [] with subject := [1, 0] }
    ∧ Runs .gridRetire { demo [] with subject := [2], grids := [placedGrid, spent .none] } ∧ Runs .gridRetire { hurdled [] [(6, 1)] with subject := [2], grids := [placedGrid, spent (.hurdle 1 0 0)] }
    ∧ Runs .faultRecordPost { demo [] with faultRecs := [fault7] } ∧ Runs .faultRecordPost { demo [] with faultRecs := [fault7], faultQ := roomy16 }
    ∧ Runs .killRecordPost { demo [] with killQ := { roomy16 with held := [[1, 2]] } } ∧ ∃ u : State, step dyingNow = .next u := by
  obtain ⟨h1, hk, h2, h3, h4, h5, h6⟩ := h
  have s (st) := h1 (alone (stoppedAt st)) placedRef (around (stoppedAt st)) rfl
  have st (st) := h1 (withTrap (alone (stoppedAt st))) placedRef (aroundTrap (stoppedAt st)) rfl
  have e1 := (s (.stopped .pass)).1 rfl rfl
  have o (x : Thread) : ∀ t ∈ [x], t.ref = placedRef → t = x := fun t ht _ => List.mem_singleton.1 ht
  have e2 := (st (.stopped (.fail broken))).2.1 broken 8 rfl (o _) rfl rfl (by decide) (by decide) rfl rfl rfl
  obtain ⟨_, _, _, e3, -⟩ := (s (.stopped (.fail broken))).2.2.1 broken rfl (o _) rfl rfl (by decide) (by decide) rfl
  have e4 := ((st (.trapWait broken)).2.2.2.1 broken 8 rfl rfl).2 rfl rfl
  have e5 := ((h1 { withTrap (alone (stoppedAt (.trapWait broken))) with faultRecs := [fault7] } placedRef (aroundTrap (stoppedAt (.trapWait broken))) rfl).2.2.2.1 broken 8 rfl rfl).1
    (.inl rfl)
  have e6 := (h1 (demo []) placedRef (around (one [])) rfl).2.2.2.2 rfl rfl
  obtain ⟨_, e7, -⟩ := h2 { alone (stoppedAt .exited) with subject := [1, 0] } placedTeam placedGrid rfl rfl computed (none_in rfl) (none_in rfl) (none_in rfl)
    (none_in rfl) (none_in rfl) (none_in rfl) rfl rfl rfl
  obtain ⟨_, _, ef, -⟩ := hk dyingNow { placedTeam with dying := some { cause := 7 } } placedGrid { cause := 7 } 0 computed rfl rfl rfl rfl rfl rfl rfl rfl rfl
  have e8 := h3 { demo [] with subject := [1, 0] } placedTeam (one []) rfl computed (by decide)
  have p (n : Bool) : ∀ y ∈ [placedGrid, spent (if n then .none else .hurdle 1 0 0)], ∀ i, y.parent ≠ some (2, i) := fun y hy i => by
    rcases List.mem_cons.1 hy with rfl | hy
    · exact fun x => by cases x
    · rw [List.mem_singleton.1 hy]; exact fun x => by cases x
  have m : ∀ t ∈ [placedTeam], t.grid ≠ 2 := by decide
  have e9 := (h4 { demo [] with subject := [2], grids := [placedGrid, spent .none] } (spent .none) rfl rfl rfl rfl m (p true) (fun _ x => by cases x) (fun _ x => by cases x)).1 rfl rfl
  obtain ⟨_, ea, -⟩ := (h4 { hurdled [] [(6, 1)] with subject := [2], grids := [placedGrid, spent (.hurdle 1 0 0)] } (spent (.hurdle 1 0 0)) rfl rfl rfl rfl m (p false)
    (fun _ x => by cases x) (fun _ x => by cases x)).2 1 0 0 placedTeam bare rfl rfl rfl rfl rfl rfl
  have eb := (h5 { demo [] with faultRecs := [fault7] } fault7 rfl).1 (fun x => x.1 rfl)
  obtain ⟨_, ec, -⟩ := (h5 { demo [] with faultRecs := [fault7], faultQ := roomy16 } fault7 rfl).2 ⟨by decide, by decide⟩
  obtain ⟨_, ed, -⟩ := h6 { demo [] with killQ := { roomy16 with held := [[1, 2]] } } [1, 2] [] rfl (by decide) (by decide)
  exact ⟨⟨_, e1⟩, ⟨_, e2⟩, ⟨_, e3⟩, ⟨_, e4⟩, ⟨_, e5⟩, ⟨_, e6⟩, ⟨_, e7⟩, ⟨_, e8⟩, ⟨_, e9⟩, ⟨_, ea⟩, ⟨_, eb⟩, ⟨_, ec⟩, ⟨_, ed⟩, ⟨_, ef⟩⟩

/-! ## The channel protocol, reductions, RMA queues -/

/-- A channel's entry at die 0 of this device. -/
def entryAt (st : EntryState) (replay : List (Nat × Packet)) (syncs : Nat) (nacked : List (BitVec 32 × Nat)) : SrcEntry :=
  { key := .team 1 0 0, dst := { dev := 0, die := 0 }, state := st, nextSeq := 2, waiting := [], replay := replay, syncs := syncs, since := 0, nacked := nacked }

/-- What die 0 holds of it. -/
def dstAt (epoch : BitVec 8) (expected : BitVec 32) (owes : Bool) : DstEntry :=
  { key := .team 1 0 0, srcDev := 0, die := 0, epoch := epoch, expected := expected, held := [], ports := [], owesAck := owes }

/-- A packet that stores a byte. -/
def storing (seq : BitVec 32) : Packet := { packet .data (.write (.place 4096 4096) [7]) with seq := seq }

/-- The device with packets in flight and channel entries. -/
def fabric (ps : List Packet) (es : List SrcEntry) (ds : List DstEntry) : State := { demo [] with net := ps, srcEntries := es, dstEntries := ds, cycle := 70000, dieClock := [70000, 70000, 70000, 70000] }

/-- It is calm where its entries hold nothing back. -/
theorem is_calm_fabric (ps : List Packet) (ds : List DstEntry) (st : EntryState) (re : List (Nat × Packet)) (n : Nat) (na : List (BitVec 32 × Nat)) :
    calmChannels (fabric ps [entryAt st re n na] ds) :=
  ⟨rfl, rfl, rfl, fun e he => by rw [List.mem_singleton.1 he]; rfl⟩

/-- A device with one switch die, so that every packet comes in by port 0, whose buffer is full; packet 3 arrives. -/
def full : State :=
  let s := fabric [storing 3] [] [{ dstAt 0 1 false with held := List.replicate 1024 (storing 2), ports := [(2, 0)] }]
  { s with boot := { s.boot with entries := s.boot.entries.modify 4 fun e => { e with status := 3 } } }

/-- A packet that stores 16 bytes. -/
def wide : Packet := packet .data (.write (.place 4096 4096) (List.replicate 16 7))

theorem test_arrivals (h : Obligations.ChannelProtocol) :
    Runs (.channelPacketArrive (.inFlight 0)) (fabric [storing 1] [] []) ∧ Runs (.channelPacketArrive (.inFlight 0)) (fabric [storing 1] [] [dstAt 0 2 false])
    ∧ Runs (.channelPacketArrive (.inFlight 0)) (fabric [storing 65536] [] []) ∧ Runs (.channelPacketArrive (.inFlight 0)) (fabric [storing 1] [] [dstAt 1 1 false])
    ∧ Runs (.ackSend { src := .team 1 0 0, dst := { dev := 0, die := 0 } }) (fabric [] [] [dstAt 0 2 true]) ∧ Runs (.channelPacketArrive (.inFlight 0)) full
    ∧ Runs (.channelPacketArrive (.inFlight 0)) (fabric [wide] [] []) := by
  have w (q ds) := h.1 (fabric [storing q] [] ds) 0 (storing q) 4096 4096 [7] rfl rfl rfl rfl
  obtain ⟨_, e, -⟩ := (w 1 []).1 ⟨rfl, rfl, rfl, rfl, rfl, rfl, rfl, rfl⟩ computed computed (fun x => by cases x)
  obtain ⟨_, _, e2, -⟩ := (w 1 [dstAt 0 2 false]).2.2.1 rfl computed rfl
  obtain ⟨_, e3, -⟩ := ((w 65536 []).2.2.2.1 rfl computed computed (fun _ x => by cases x) (fun _ x => by cases x) rfl).1 (show 0 < 1024 by decide)
  have e4 := (w 1 [dstAt 1 1 false]).2.2.2.2 computed rfl
  have y : ∀ q ∈ List.replicate 1024 (storing 2), q.seq ≠ 1 ∧ q.seq ≠ 3 := fun q hq => by
    rw [List.eq_of_mem_replicate hq]; exact ⟨by decide, by decide⟩
  obtain ⟨_, _, e6, -⟩ := ((h.1 full 0 (storing 3) 4096 4096 [7] rfl rfl rfl rfl).2.2.2.1 rfl computed computed (fun q hq => (y q hq).2) (fun q hq => (y q hq).1) rfl).2
    computed
  obtain ⟨_, e7, -⟩ := (h.1 (fabric [wide] [] []) 0 wide 4096 4096 (List.replicate 16 7) rfl rfl rfl rfl).2.1 ⟨rfl, rfl, rfl, rfl, rfl, rfl, rfl, rfl⟩ rfl rfl rfl rfl rfl computed
    computed
  obtain ⟨_, _, e5, -⟩ := h.2.1 (fabric [] [] [dstAt 0 2 true]) (dstAt 0 2 true) _ rfl rfl rfl rfl
  exact ⟨⟨_, e⟩, ⟨_, e2⟩, ⟨_, e3⟩, ⟨_, e4⟩, ⟨_, e5⟩, ⟨_, e6⟩, ⟨_, e7⟩⟩

theorem test_answers (h : Obligations.ChannelProtocol) :
    let p (k : PKind) := packet k .empty
    Runs (.ackReceive (.inFlight 0)) (fabric [p .ack] [entryAt .active [(0, storing 1)] 0 []] []) ∧ Runs (.nackReceive (.inFlight 0)) (fabric [p .nack] [entryAt .active [(0, storing 1)] 0 []] [])
    ∧ Runs (.violReceive (.inFlight 0)) (fabric [p .viol] [entryAt .active [(0, storing 1)] 0 []] [])
    ∧ Runs (.syncAckReceive (.inFlight 0)) (fabric [p .syncAck] [entryAt .resync [(0, storing 1)] 1 []] []) := by
  intro p
  have w (k : PKind) (st) (n) := h.2.2.1 (fabric [p k] [entryAt st [(0, storing 1)] n []] []) 0 (p k) (is_calm_fabric _ _ _ _ _ _)
  have a (k : PKind) (st) (n) (hs : st ≠ EntryState.broken) : answerInFlight (fabric [p k] [entryAt st [(0, storing 1)] n []] []) 0 k (p k) := ⟨rfl, rfl, ⟨_, _, _, rfl⟩, rfl, hs⟩
  obtain ⟨_, e, -⟩ := (w .ack .active 0).1 (a _ _ _ (by decide)) computed
  obtain ⟨_, e2, -⟩ := (w .nack .active 0).2.1 (0, storing 1) (a _ _ _ (by decide)) (.head _) rfl
  obtain ⟨_, e3, -⟩ := (w .viol .active 0).2.2.1 (0, storing 1) (a _ _ _ (by decide)) rfl rfl
  obtain ⟨_, e4, -⟩ := (w .syncAck .resync 1).2.2.2 (a _ _ _ (by decide)) rfl computed
  exact ⟨⟨_, e⟩, ⟨_, e2⟩, ⟨_, e3⟩, ⟨_, e4⟩⟩

theorem test_channel_timers (h : Obligations.ChannelProtocol) :
    let x : EntryId := { src := .team 1 0 0, dst := { dev := 0, die := 0 } }
    Runs (.nackReplay x 1) (fabric [] [entryAt .active [(0, storing 1)] 0 [(1, 5)]] []) ∧ Runs (.channelGapTimeout x) (fabric [] [entryAt .active [(4464, storing 1)] 0 []] [])
    ∧ Runs (.channelGapTimeout x) (fabric [] [entryAt .active [(4463, storing 1)] 0 []] []) ∧ Runs (.syncReqRetry x) (fabric [] [entryAt .active [] 0 []] [])
    ∧ Runs (.syncReqRetry x) (fabric [] [entryAt .resync [(0, storing 1)] 7 []] []) ∧ Runs (.syncReqRetry x) (fabric [] [entryAt .resync [(0, storing 1)] 8 []] []) := by
  intro x
  have w (e) := h.2.2.2.1 (fabric [] [e] []) x
  obtain ⟨_, e, -⟩ := (w (entryAt .active [(0, storing 1)] 0 [(1, 5)])).1 1 5 rfl (.head _) computed
  have e2 := (w (entryAt .active [(4464, storing 1)] 0 [])).2.1 (.inr fun w hw => by rw [List.mem_singleton.1 hw]; decide +kernel)
  obtain ⟨_, _, e3, -⟩ := (w (entryAt .active [(4463, storing 1)] 0 [])).2.2.1 rfl ⟨_, .head _, by decide +kernel⟩
  have e4 := (w (entryAt .active [] 0 [])).2.2.2.1 (.inl (by decide))
  obtain ⟨_, _, e5, -⟩ := (w (entryAt .resync [(0, storing 1)] 7 [])).2.2.2.2.1 rfl computed computed
  obtain ⟨_, e6, -⟩ := (w (entryAt .resync [(0, storing 1)] 8 [])).2.2.2.2.2 (is_calm_fabric _ _ _ _ _ _) rfl computed computed
  exact ⟨⟨_, e⟩, ⟨_, e2⟩, ⟨_, e3⟩, ⟨_, e4⟩, ⟨_, e5⟩, ⟨_, e6⟩⟩

theorem test_paths (h : Obligations.ChannelProtocol) :
    let p (k : PKind) := packet k .empty
    Runs (.syncReqReceive (.inFlight 0)) (fabric [p .syncReq] [] []) ∧ Runs (.closeReceive (.inFlight 0)) (fabric [p .close] [] [dstAt 0 2 false])
    ∧ Runs (.noPathReport { dev := 0, die := 0 }) (fabric [storing 1] [entryAt .active [(0, storing 1)] 0 []] []) ∧ Runs (.pathReturn { dev := 0, die := 0 }) (demo [])
    ∧ Runs (.linkDown 3 [0]) (fabric [storing 1] [] []) ∧ Runs .linkDegraded { demo [] with portsDown := [3], subject := [3] } := by
  intro p
  obtain ⟨_, _, e, -⟩ := (h.2.2.2.2.1 (fabric [p .syncReq] [] []) 0 (p .syncReq) rfl rfl rfl).1 rfl
  have e2 := (h.2.2.2.2.1 (fabric [p .close] [] [dstAt 0 2 false]) 0 (p .close) rfl rfl rfl).2 rfl
  obtain ⟨_, e3, -⟩ := (h.2.2.2.2.2.1 (fabric [storing 1] [entryAt .active [(0, storing 1)] 0 []] []) { dev := 0, die := 0 }).1 (is_calm_fabric _ _ _ _ _ _)
  obtain ⟨_, e4, -⟩ := h.2.2.2.2.2.2.1 (fabric [storing 1] [] []) 3 [0]
  obtain ⟨_, e5, -⟩ := h.2.2.2.2.2.2.2 { demo [] with portsDown := [3], subject := [3] }
  exact ⟨⟨_, e⟩, ⟨_, e2⟩, ⟨_, e3⟩, ⟨_, (h.2.2.2.2.2.1 (demo []) _).2⟩, ⟨_, e4⟩, ⟨_, e5⟩⟩

/-- A contribution of one element to collective 3 of context 1. -/
def contribution (index rop : Nat) : Contribution :=
  { asid := 1, coll := 3, gen := 0, ncon := 3, index := index, rop := rop, elems := 1, timeout := 1, dev := 0, op := index, data := [1, 0, 0, 0] }

/-- Its slot at the switch, with contributions in. -/
def rredSlot (got : List Contribution) (expired : Bool) (deadline : Nat) : RredSlot :=
  { switch := 1, asid := 1, coll := 3, gen := 0, ncon := 3, rop := 0, elems := 1, partialSum := [5, 0, 0, 0], got := got, members := [], deadline := deadline, expired := expired
    closing := false }

/-- The device with a contribution on its way and slots. -/
def reducing (cs : List Contribution) (xs : List RredSlot) : State := { demo [] with subject := [0], contribs := cs.map fun c => (0, c), rred := xs }

/-- A contribution of another device. -/
def foreign (index : Nat) : Contribution := { contribution index 0 with dev := 5 }

theorem test_reduction_slots (h : Obligations.ReductionSlots) :
    Runs (.rredContributionArrive none) (reducing [contribution 0 0] []) ∧ Runs (.rredContributionArrive none) (reducing [contribution 0 0] (List.replicate 512 { rredSlot [] false 9 with gen := 1 }))
    ∧ Runs (.rredContributionArrive none) (reducing [contribution 0 0] [rredSlot [] true 9]) ∧ Runs (.rredContributionArrive none) (reducing [contribution 1 2] [rredSlot [contribution 0 0] false 9])
    ∧ Runs (.rredContributionArrive none) (reducing [contribution 1 0] [rredSlot [contribution 0 0] false 9])
    ∧ Runs (.rredContributionArrive none) (reducing [foreign 2] [rredSlot [foreign 0, foreign 1] false 9])
    ∧ Runs .rredSlotExpire (reducing [] [rredSlot [contribution 0 0] false 9]) ∧ Runs .rredSlotExpire (reducing [] [{ rredSlot [] false 0 with closing := true }])
    ∧ Runs .rredSlotExpire (reducing [] [rredSlot [foreign 0] false 0]) ∧ Runs .rredExpiredMarkEnd (reducing [] [rredSlot [] true 0]) := by
  have w (c xs) (hb : _) := h.1 (reducing [c] xs) 0 0 c rfl rfl hb
  have e := ((w (contribution 0 0) [] rfl).1 rfl).1 (by decide) (by decide)
  have e1 := ((w (contribution 0 0) (List.replicate 512 { rredSlot [] false 9 with gen := 1 }) rfl).1 computed).2 computed
  have e2 := ((w (contribution 0 0) [rredSlot [] true 9] rfl).2 _ rfl).1 rfl |>.1 (.inr rfl)
  have e3 := ((w (contribution 1 2) [rredSlot [contribution 0 0] false 9] rfl).2 _ rfl).2.1 rfl (.inr (.inl (by decide))) |>.1 (.inr rfl)
  obtain ⟨_, _, e4, -⟩ := (((w (contribution 1 0) [rredSlot [contribution 0 0] false 9] rfl).2 _ rfl).2.2 rfl (by decide) rfl rfl rfl (by decide) (by decide)).1 (by decide)
  have e5 := ((((w (foreign 2) [rredSlot [foreign 0, foreign 1] false 9] rfl).2 _ rfl).2.2 rfl (by decide) rfl rfl rfl (by decide) (by decide)).2 rfl (by decide)).1 (by decide) (by decide)
  have v (xs) := h.2.2 (reducing [] xs) 0
  have e6 := ((v [rredSlot [contribution 0 0] false 9] _ rfl rfl).1 rfl).1 (.inl (by decide))
  have e7 := ((v [{ rredSlot [] false 0 with closing := true }] _ rfl rfl).1 rfl).1 (.inr rfl)
  have e8 := (((v [rredSlot [foreign 0] false 0] _ rfl rfl).1 rfl).2 (by decide) rfl).1 (by decide)
  have e9 := (v [rredSlot [] true 0] _ rfl rfl).2 rfl (by decide)
  exact ⟨⟨_, e⟩, ⟨_, e1⟩, ⟨_, e2⟩, ⟨_, e3⟩, ⟨_, e4⟩, ⟨_, e5⟩, ⟨_, e6⟩, ⟨_, e7⟩, ⟨_, e8⟩, ⟨_, e9⟩⟩

/-- The RRED of contribution 1, its result to 4096, naming the hurdle at 0 or a progress record at 32. -/
def reduction (hurdle prog : Option Nat) : EngineOp :=
  { single (.rred (contribution 1 0)) (.scratch 256) true with dst := .global 4096, ord := 1, hurdle := hurdle, prog := prog }

/-- The device with it. -/
def reducingOwn (cs : List Contribution) (xs : List RredSlot) (e : EngineOp) : State :=
  { paged [] with subject := [0], contribs := cs.map fun c => (0, c), rred := xs, engines := [e], hurdles := [bare] }

theorem own_contributing (cs : List Contribution) (xs : List RredSlot) (hx : ∀ z ∈ xs, z.closing = false) :
    contributing (reducingOwn cs xs (reduction (some 0) none)) 1 (reduction (some 0) none) placedTeam 0 :=
  ⟨rfl, ⟨_, rfl⟩, rfl, rfl, rfl, rfl, (fun x => by cases x), rfl, rfl, (fun x h t => by rw [List.mem_singleton.1 h]; exact fun y => by cases y), hx⟩

theorem test_reduction_ends (h : Obligations.ReductionSlots) :
    let own (cs xs) := reducingOwn cs xs (reduction (some 0) none)
    Runs (.rredContributionArrive none) (own [contribution 1 0] [rredSlot [] true 9]) ∧ Runs (.rredContributionArrive none) (own [contribution 1 2] [rredSlot [foreign 0] false 9])
    ∧ Runs (.rredContributionArrive none) (own [contribution 1 0] [rredSlot [foreign 0, foreign 2] false 9]) ∧ Runs .rredSlotExpire (own [] [rredSlot [contribution 1 0] false 0])
    ∧ Runs .rredSlotExpire (reducingOwn [] [rredSlot [contribution 1 0] false 0] (reduction none (some 32))) := by
  intro own
  have w (c xs) (hx : ∀ z ∈ xs, z.closing = false) := (h.1 (own [c] xs) 0 0 c rfl rfl rfl).2
  obtain ⟨_, e, -⟩ := ((w (contribution 1 0) [rredSlot [] true 9] (by decide) _ rfl).1 rfl).2 _ placedTeam 0 rfl (own_contributing _ _ (by decide))
  obtain ⟨_, e2, -⟩ := ((w (contribution 1 2) [rredSlot [foreign 0] false 9] (by decide) _ rfl).2.1 rfl (.inr (.inl (by decide)))).2 _ placedTeam 0 rfl (own_contributing _ _ (by decide))
  obtain ⟨_, _, _, e3, -⟩ := (((w (contribution 1 0) [rredSlot [foreign 0, foreign 2] false 9] (by decide) _ rfl).2.2 rfl (by decide) rfl rfl rfl (by decide) (by decide)).2 rfl (by decide)).2
    (reduction (some 0) none) 4096 (near 4096) rfl (by decide) rfl ⟨_, rfl⟩ rfl rfl rfl (by decide) (by decide) (by decide) (by decide) rfl rfl (by decide) rfl rfl rfl rfl
  obtain ⟨_, e4, -⟩ := ((h.2.2 (own [] [rredSlot [contribution 1 0] false 0]) 0 _ rfl rfl).1 rfl).2 (by decide) rfl |>.2.1 _ _ placedTeam 0 rfl rfl (own_contributing _ _ (by decide))
  obtain ⟨_, e5, -⟩ := ((h.2.2 (reducingOwn [] [rredSlot [contribution 1 0] false 0] (reduction none (some 32))) 0 _ rfl rfl).1 rfl).2 (by decide) rfl |>.2.2 _ _ placedTeam 32 rfl rfl rfl rfl rfl
    ⟨_, rfl⟩ rfl rfl
  exact ⟨⟨_, e⟩, ⟨_, e2⟩, ⟨_, e3⟩, ⟨_, e4⟩, ⟨_, e5⟩⟩

/-- The RRED whose result's one packet is to be acknowledged, its slot closing. -/
def written : EngineOp := { reduction (some 0) none with rowBytes := 1, pieces := [{ row := 0, lo := 0, len := 1, sent := true, landed := false }] }

def closingSlot : State :=
  { fabric [packet .ack .empty] [entryAt .active [(0, storing 1)] 0 []] [] with engines := [written], hurdles := [bare], rred := [{ rredSlot [contribution 1 0] false 9 with closing := true }] }

theorem test_result_written (h : Obligations.ReductionSlots) : Runs (.ackReceive (.inFlight 0)) closingSlot := by
  obtain ⟨_, e, -⟩ := h.2.1 closingSlot 0 (packet .ack .empty) (storing 1) 0 4096 4096 [7] written placedTeam 0 ⟨rfl, rfl, ⟨_, _, _, rfl⟩, rfl, by decide +kernel⟩ computed rfl
    ⟨rfl, ⟨_, rfl⟩, rfl, rfl, rfl, rfl, (fun x => by cases x), rfl, rfl, fun x hx t => by rw [List.mem_singleton.1 hx]; exact (fun y => by cases y), fun _ x => by cases x⟩
    rfl rfl rfl (by decide) rfl rfl rfl rfl rfl rfl rfl rfl rfl rfl
  exact ⟨_, e⟩

/-- RMA queue 2 bound to context 1, its 16 entries at 8192, one at HEAD. -/
def rma2 : RmaQueue := { base := 8192, size := 16, tail := 1, asid := some 1, system := true }

/-- The device with that queue, an entry at HEAD and channel entries. -/
def rmaWith (x : RmaQueue) (fs : List (Nat × Byte)) (es : List SrcEntry) : State :=
  { served (cellsAt 8192 fs) (withRma x) with subject := [2], srcEntries := es, boot := { (withRma x).boot with devices := 2 } }

theorem at_rma (fs : List (Nat × Byte)) (es : List SrcEntry) (op : Nat) (h : ((rmaWith rma2 fs es).readObject 1 true 8192 64 == some (object 64 fs) && reads (rmaWith rma2 fs es) chipUnit 1 true 8192 64
      && entryOp (object 64 fs) == op) = true) :
    rmaAtHead (rmaWith rma2 fs es) 2 op rma2 (object 64 fs) := by
  simp only [Bool.and_eq_true, beq_iff_eq] at h
  exact ⟨rfl, ⟨1, rfl, h.1.1, clear_of h.1.2⟩, .inr rfl, by decide, by decide, rfl, rfl, h.2⟩

/-- A PUT or a GET of 4 bytes at 4096 and region 0 of die 0 of device 1; a WAIT for a count of queue 3, its LOCAL and REMOTE not zero. -/
def moving (op : Byte) : List (Nat × Byte) := [(0, op), (4, 4), (9, 0x10), (0x14, 0x40), (0x16, 0xFE)]

def awaiting (count : Byte) : List (Nat × Byte) := [(0, 3), (2, 3), (9, 0x10), (0x11, 1), (0x18, count)]

/-- The queue's entry for die 0 of device 1, BROKEN. -/
def noWay : SrcEntry := { key := .rma 2, dst := { dev := 1, die := 0 }, state := .broken, nextSeq := 1, waiting := [], replay := [], syncs := 0, since := 0, nacked := [] }

theorem test_rma_entries (h : Obligations.RmaEntries) :
    Runs .rmaPut (rmaWith rma2 (moving 1) []) ∧ Runs .rmaGet (rmaWith rma2 (moving 2) []) ∧ Runs .rmaPut (rmaWith rma2 (moving 1) [noWay]) ∧ Runs .rmaGet (rmaWith rma2 (moving 2) [noWay])
    ∧ Runs .rmaWait (rmaWith rma2 (awaiting 1) []) ∧ Runs .rmaWait (rmaWith rma2 (awaiting 0) []) ∧ Runs .rmaWaitSatisfied (rmaWith { rma2 with waits := some (3, 1) } [] [])
    ∧ Runs .rmaWaitSatisfied (rmaWith { rma2 with waits := some (3, 0) } [] []) ∧ Runs .rmaEntryReserved (rmaWith rma2 [(0, 4)] []) := by
  have w (fs es) := h (rmaWith rma2 fs es) rma2 (object 64 fs)
  obtain ⟨_, e, -⟩ := (w (moving 1) []).1 [0, 0, 0, 0] (at_rma (moving 1) [] 1 computed)
    ⟨by decide +kernel, by decide +kernel, rfl, rfl, rfl, rfl, rfl, by decide +kernel⟩ computed (clear_of computed)
  obtain ⟨_, e2, -⟩ := (w (moving 2) []).2.1 (at_rma (moving 2) _ 2 computed) ⟨by decide +kernel, by decide +kernel, rfl, rfl, rfl, rfl, rfl, by decide +kernel⟩
  obtain ⟨_, e3, -⟩ := (w (moving 1) [noWay]).2.2.1 (at_rma (moving 1) _ 1 computed) computed computed
  obtain ⟨_, e4, -⟩ := (w (moving 2) [noWay]).2.2.2.1 (at_rma (moving 2) _ 2 computed) computed computed
  have q3 (fs es) : (rmaWith rma2 fs es).rmas[3]? = some ({} : RmaQueue) := rfl
  have e5 := ((w (awaiting 1) []).2.2.2.2.1 (at_rma _ _ 3 computed) computed computed computed computed).1 (fun y hy => by
    rw [show fld (object 64 (awaiting 1)) 2 2 = 3 by decide +kernel, q3] at hy
    cases hy
    decide +kernel)
  have e6 := ((w (awaiting 0) []).2.2.2.2.1 (at_rma _ _ 3 computed) computed computed computed computed).2 ⟨({} : RmaQueue), by decide +kernel, by decide +kernel⟩ rfl rfl
  have v (c : W64) := (h (rmaWith { rma2 with waits := some (3, c) } [] []) { rma2 with waits := some (3, c) } []).2.2.2.2.2.1 3 c rfl rfl
  have e7 := (v 1).1 (fun y hy => by cases hy; decide)
  have e8 := (v 0).2 ⟨({} : RmaQueue), rfl, by decide⟩ rfl rfl
  obtain ⟨_, e9, -⟩ := (w [(0, 4)] []).2.2.2.2.2.2 4 (at_rma _ _ 4 computed) (.inr (.inl (by decide)))
  exact ⟨⟨_, e⟩, ⟨_, e2⟩, ⟨_, e3⟩, ⟨_, e4⟩, ⟨_, e5⟩, ⟨_, e6⟩, ⟨_, e7⟩, ⟨_, e8⟩, ⟨_, e9⟩⟩

/-! ## The privileged ring -/

/-- A command at HEAD of the privileged ring, which is at host address 0, with other bytes of memory. -/
def commanded (fs : List (Nat × Byte)) (s : State) : State :=
  { s with mem := cellsAt (hostKey 0) fs, priv := { size := 16, tail := 1 }, contexts := [{ asid := 1, root := some 0, window := none, save := none }] }

/-- It stands there, in order. -/
theorem at_priv (fs : List (Nat × Byte)) (s : State) (op : Nat) (hs : s.boot.service = .full) (h : (memRead (cellsAt (hostKey 0) fs) (hostKey 0) 64 == object 64 fs
      && privOp (object 64 fs) == op && !privReserved (object 64 fs) && privDone (object 64 fs) % 8 == 0) = true) : commandAtHead (commanded fs s) op (object 64 fs) := by
  simp only [Bool.and_eq_true, beq_iff_eq, Bool.not_eq_true'] at h
  exact ⟨.inr hs, (show (16 : W32) ≠ 0 by decide), (show (0 : W32) ≠ 1 by decide), rfl, h.1.1.1, h.1.1.2, h.1.2, h.2⟩

/-- A command that ends has run. -/
theorem ended {i : Instr} {s t : State} {bs : List Byte} {st : Status} (h : endsWith i s t bs st) : Runs i s := let ⟨u, e, _⟩ := h; ⟨u, e⟩

/-- The device without teams. -/
def bareDevice : State := { demo [] with teams := [], threads := [], grids := [] }

theorem test_queue_commands (h : Obligations.PrivilegedCommands) :
    Runs .bindQueue (commanded [(0, 1), (10, 3), (16, 2)] (demo [])) ∧ Runs .bindQueue (commanded [(0, 1), (10, 3), (16, 1), (18, 1)] (demo []))
    ∧ Runs .bindQueue (commanded [(0, 1), (10, 3), (16, 1)] (withRing ring3 (demo []))) ∧ Runs .bindQueue (commanded [(0, 1), (8, 1), (10, 2), (16, 1)] (withRma {}))
    ∧ Runs .bindQueue (commanded [(0, 1), (8, 1), (10, 2), (16, 1)] (withRma rma2)) := by
  have w (fs s a f hs hc ha hf h1) (n : Nat) := h.1 (commanded fs s) (object 64 fs) n a f (at_priv fs s 1 hs hc) ha hf h1
  have e := ((w [(0, 1), (10, 3), (16, 2)] (demo []) 2 0 rfl computed (by decide) (by decide) computed 3).1 {} computed rfl (by decide)).1 computed
  have e2 := ((w [(0, 1), (10, 3), (16, 1), (18, 1)] (demo []) 1 1 rfl computed (by decide) (by decide) computed 3).1 {} computed rfl (by decide)).2.1
    computed rfl rfl
  have e3 := ((w [(0, 1), (10, 3), (16, 1)] (withRing ring3 (demo [])) 1 0 rfl computed (by decide) (by decide) computed 3).1 ring3 computed rfl (by decide)).2.2
    computed (.inl (by decide))
  have e4 := ((w [(0, 1), (8, 1), (10, 2), (16, 1)] (withRma {}) 1 0 rfl computed (by decide) (by decide) computed 2).2 {} computed rfl (by decide)
    computed).1 rfl rfl rfl
  have e5 := ((w [(0, 1), (8, 1), (10, 2), (16, 1)] (withRma rma2) 1 0 rfl computed (by decide) (by decide) computed 2).2 rma2 computed rfl (by decide)
    computed).2 (by decide)
  exact ⟨ended e, ended e2, ended e3, ended e4, ended e5⟩

theorem test_context_commands (h : Obligations.PrivilegedCommands) :
    Runs .setAsid (commanded [(0, 2), (8, 2), (17, 0x10)] (demo [])) ∧ Runs .setLocalWindow (commanded [(0, 3), (8, 2)] (demo []))
    ∧ Runs .setLocalWindow (commanded [(0, 3), (8, 1), (25, 1), (34, 1)] (demo [])) ∧ Runs .setLocalWindow (commanded [(0, 3), (8, 1), (25, 1), (34, 1)] bareDevice)
    ∧ Runs .setSaveArea (commanded [(0, 4), (8, 1), (26, 1)] (demo [])) ∧ Runs .setRstackArea (commanded [(0, 16), (18, 1)] (demo []))
    ∧ Runs .setRstackArea (commanded [(0, 16), (18, 1)] bareDevice) := by
  obtain ⟨-, h2, h3, h4, h16, -⟩ := h
  obtain ⟨_, -, e⟩ := h2 (commanded [(0, 2), (8, 2), (17, 0x10)] (demo [])) _ (at_priv _ _ 2 rfl computed) computed computed
  have e2 := (h3 (commanded [(0, 3), (8, 2)] (demo [])) _ (at_priv _ _ 3 rfl computed) computed).1 computed
  have w (s hs) := (h3 (commanded [(0, 3), (8, 1), (25, 1), (34, 1)] s) _ (at_priv _ _ 3 hs computed) computed).2
  have e3 := (w (demo []) rfl computed computed computed computed computed computed computed).1
    ⟨_, .head _, by decide +kernel⟩
  obtain ⟨_, -, e4⟩ := (w bareDevice rfl computed computed computed computed computed computed computed).2 rfl
    (fun _ x => by cases x)
  obtain ⟨_, -, e5⟩ := h4 (commanded [(0, 4), (8, 1), (26, 1)] (demo [])) _ (at_priv _ _ 4 rfl computed) computed computed
  have e6 := (h16 (commanded [(0, 16), (18, 1)] (demo [])) _ (at_priv _ _ 16 rfl computed) computed computed).1 (fun x => by cases x)
  have e7 := (h16 (commanded [(0, 16), (18, 1)] bareDevice) _ (at_priv _ _ 16 rfl computed) computed computed).2 rfl (fun _ x => by cases x)
  exact ⟨ended e, ended e2, ended e3, ended e4, ended e5, ended e6, ended e7⟩

/-- Region 2 of die 1 for context 1. -/
def region2 (active : Bool) : Region :=
  { asid := 1, die := 1, number := 2, system := true, base := 0, len := 4096, accepted := 0, devmask := 2, read := true, write := true, atomic := false, active := active }

/-- A write of device 1 to it, held at die 1. -/
def heldWrite : DstEntry :=
  { key := .team 1 0 0, srcDev := 1, die := 1, epoch := 0, expected := 1, owesAck := false, ports := [],
    held := [{ packet .data (.write (.accepted 2 8 [] true) [1]) with seq := 3, srcAt := { dev := 1, die := 0 }, dst := { dev := 0, die := 1 } }] }

theorem test_map_commands (h : Obligations.PrivilegedCommands) :
    Runs .setDieMap (commanded [(0, 5), (8, 1), (10, 3), (18, 1)] (demo [])) ∧ Runs .setDieMap (commanded [(0, 5), (8, 1), (10, 3), (18, 1), (20, 1)] (demo []))
    ∧ Runs .regionRegister (commanded [(0, 6), (8, 1), (10, 1), (12, 2), (25, 0x10), (32, 2), (40, 3)] (demo []))
    ∧ Runs .regionRegister (commanded [(0, 6), (8, 1), (10, 1), (12, 2), (25, 0x10), (32, 2), (40, 3)] { demo [] with regions := [region2 false] })
    ∧ Runs .regionRevoke (commanded [(0, 7), (8, 1), (10, 1), (12, 2)] { demo [] with regions := [region2 true] })
    ∧ Runs .regionRevoke (commanded [(0, 7), (8, 1), (10, 1), (12, 2)] { demo [] with regions := [region2 true], dstEntries := [heldWrite] }) := by
  obtain ⟨-, -, -, -, -, h5, h6, h7, -⟩ := h
  have e := (h5 (commanded [(0, 5), (8, 1), (10, 3), (18, 1)] (demo [])) _ 1 3 0 1 (at_priv _ _ 5 rfl computed) (by decide) (by decide) (by decide) (by decide) computed
    computed).1 computed
  have e2 := (h5 (commanded [(0, 5), (8, 1), (10, 3), (18, 1), (20, 1)] (demo [])) _ 1 3 0 1 (at_priv _ _ 5 rfl computed) (by decide) (by decide) (by decide) (by decide)
    computed computed).2 computed computed computed computed
  have w (s hs hk) := h6 (commanded [(0, 6), (8, 1), (10, 1), (12, 2), (25, 0x10), (32, 2), (40, 3)] s) _ 1 1 2 (at_priv _ _ 6 hs computed) (by decide) (by decide) (by decide)
    computed hk computed computed computed
  obtain ⟨_, -, -, -, -, -, -, -, -, -, -, -, e3⟩ := (w (demo []) rfl computed).1 rfl rfl
  have e4 := (w { demo [] with regions := [region2 false] } rfl computed).2 (region2 false) rfl rfl rfl rfl rfl
  have v (s hs hk) := h7 (commanded [(0, 7), (8, 1), (10, 1), (12, 2)] s) _ 1 1 2 (region2 true) (at_priv _ _ 7 hs computed) (by decide) (by decide) (by decide) computed hk
  obtain ⟨_, -, -, -, e5⟩ := (v { demo [] with regions := [region2 true] } rfl computed rfl rfl rfl rfl).1 rfl
  have e6 := (v { demo [] with regions := [region2 true], dstEntries := [heldWrite] } rfl computed rfl rfl rfl rfl).2 computed
  exact ⟨ended e, ended e2, ended e3, ended e4, ended e5, ended e6⟩

theorem test_channel_resets (h : Obligations.PrivilegedCommands) :
    Runs .channelReset (commanded [(0, 8), (8, 5)] (demo [])) ∧ Runs .channelReset (commanded [(0, 8), (8, 1)] (demo []))
    ∧ Runs .channelReset (commanded [(0, 8), (8, 1)] { demo [] with srcEntries := [entryAt .broken [] 8 []] }) ∧ Runs .readViolq (commanded [(0, 13), (9, 1), (16, 1)] { demo [] with violQ := [[1, 2], [3]] }) := by
  obtain ⟨-, -, -, -, -, -, -, -, h8, h13, -⟩ := h
  have e := (h8 (commanded [(0, 8), (8, 5)] (demo [])) _ 5 0 0 (at_priv _ _ 8 rfl computed) (by decide) computed computed (by decide)).1 computed
  have w (s hs) := h8 (commanded [(0, 8), (8, 1)] s) _ 1 0 0 (at_priv _ _ 8 hs computed) (by decide) computed computed (by decide)
  have e2 := (w (demo []) rfl).2.1 computed (fun _ x => by cases x)
  obtain ⟨_, -, -, -, -, -, e3⟩ := (w { demo [] with srcEntries := [entryAt .broken [] 8 []] } rfl).2.2 (entryAt .broken [] 8 []) computed rfl rfl rfl rfl rfl
  obtain ⟨_, -, -, -, e4⟩ := h13 (commanded [(0, 13), (9, 1), (16, 1)] { demo [] with violQ := [[1, 2], [3]] }) _ (at_priv _ _ 13 rfl computed)
  exact ⟨ended e, ended e2, ended e3, ended e4⟩

theorem test_kill_commands (h : Obligations.PrivilegedCommands) :
    Runs .kill (commanded [(0, 9), (8, 5)] (demo [])) ∧ Runs .kill (commanded [(0, 9), (8, 1)] (demo [])) ∧ Runs .kill (commanded [(0, 9), (8, 1)] (empty 0xFF))
    ∧ Runs .debug (commanded [(0, 12), (8, 5)] (demo [])) ∧ Runs .debug (commanded [(0, 12), (8, 1), (16, 1)] (demo [])) := by
  obtain ⟨-, -, -, -, -, -, -, -, -, -, h9, -, -, h12, -⟩ := h
  have e := (h9 (commanded [(0, 9), (8, 5)] (demo [])) _ (at_priv _ _ 9 rfl computed) computed computed).1 computed
  obtain ⟨_, _, e2, -⟩ := (h9 (commanded [(0, 9), (8, 1)] (demo [])) _ (at_priv _ _ 9 rfl computed) computed computed).2.1 placedGrid placedTeam
    computed computed (fun _ x => by cases x) computed rfl
  obtain ⟨_, _, e3, -⟩ := (h9 (commanded [(0, 9), (8, 1)] (empty 0xFF)) _ (at_priv _ _ 9 rfl computed) computed computed).2.2 (idle 1 0xFF)
    computed computed (fun _ x => by cases x) computed ⟨_, .head _, by decide +kernel, by decide +kernel⟩
  have e4 := (h12 (commanded [(0, 12), (8, 5)] (demo [])) _ (at_priv _ _ 12 rfl computed) computed).1 computed
  have e5 := (h12 (commanded [(0, 12), (8, 1), (16, 1)] (demo [])) _ (at_priv _ _ 12 rfl computed) computed).2 computed
  exact ⟨ended e, ended e2, ended e3, ended e4, ended e5⟩

/-- The thread stopped under fault 7, which the host has seen; the kernel has a trap entry. -/
def underFault (kind : Nat) : State := { withTrap (alone (stoppedAt (.faulted 7 0))) with faultRecs := [{ fault7 with kind := kind, posted := true }] }

theorem test_fault_replies (h : Obligations.PrivilegedCommands) :
    Runs .faultReply (commanded [(0, 10), (8, 6)] (underFault 0)) ∧ Runs .faultReply (commanded [(0, 10), (8, 7), (16, 2)] (underFault 0))
    ∧ Runs .faultReply (commanded [(0, 10), (8, 7)] (underFault 0)) ∧ Runs .faultReply (commanded [(0, 10), (8, 7), (16, 2)] (underFault 4))
    ∧ Runs .faultReply (commanded [(0, 10), (8, 7), (16, 1)] (underFault 0)) := by
  obtain ⟨-, -, -, -, -, -, -, -, -, -, -, h10, -⟩ := h
  have w (fs k hc) := h10 (commanded fs (underFault k)) _ { fault7 with kind := k, posted := true } (stoppedAt (.faulted 7 0)) 0 (at_priv fs (underFault k) 10 rfl hc)
  have o (fs k) : ∀ w ∈ (commanded fs (underFault k)).threads, ∀ b, w.status = .faulted 7 b → w = stoppedAt (.faulted 7 0) := fun w hw _ _ => List.mem_singleton.1 hw
  have e := (w [(0, 10), (8, 6)] 0 computed).1 (fun f hf => by rw [List.mem_singleton.1 hf]; decide +kernel)
  have e2 := ((w [(0, 10), (8, 7), (16, 2)] 0 computed).2 rfl rfl computed).1 (.inr ⟨by decide +kernel, by decide⟩)
  have e3 := (((w [(0, 10), (8, 7)] 0 computed).2 rfl rfl computed).2 rfl rfl (o _ _) computed).1 computed
  have e4 := (((w [(0, 10), (8, 7), (16, 2)] 4 computed).2 rfl rfl computed).2 rfl rfl (o _ _) computed).2.1 computed rfl
  have e5 := (((w [(0, 10), (8, 7), (16, 1)] 0 computed).2 rfl rfl computed).2 rfl rfl (o _ _) computed).2.2 (aroundTrap (stoppedAt (.faulted 7 0))) 8
    computed (by decide) rfl rfl rfl rfl rfl
  exact ⟨ended e, ended e2, ended e3, ended e4, ended e5⟩

/-- The device with a store of the placed thread under way, below the mark 1. -/
def underWay : State := { demo [] with wtb := [{ op := 0, core := 0, chan := none, explicit := false, thread := placedRef, place := 4096, bytes := [1], seen := [] }] }

theorem test_invalidations (h : Obligations.PrivilegedCommands) :
    Runs .tlbInvalidate (commanded [(0, 11), (8, 2)] (demo [])) ∧ Runs .tlbInvalidate (commanded [(0, 11), (8, 1), (10, 1)] (demo []))
    ∧ Runs .tlbInvalidate (commanded [(0, 11), (10, 1), (17, 0x10)] (demo [])) ∧ Runs .tlbInvalidate (commanded [(0, 11), (8, 2)] { underWay with nextOp := 1 }) := by
  obtain ⟨-, -, -, -, -, -, -, -, -, -, -, -, h11, -⟩ := h
  have w (fs s a hs hc) (ha : a < 65536) := (h11 (commanded fs s) _ a ha).1 (at_priv fs s 11 hs hc)
  have e := (w [(0, 11), (8, 2)] (demo []) 0 rfl computed (by decide) rfl rfl rfl rfl rfl).1 computed
  have e2 := (w [(0, 11), (8, 1), (10, 1)] (demo []) 1 rfl computed (by decide) rfl rfl rfl rfl rfl).2.1 computed computed
  obtain ⟨_, -, -, -, e3⟩ := (w [(0, 11), (10, 1), (17, 0x10)] (demo []) 1 rfl computed (by decide) rfl rfl rfl rfl rfl).2.2 computed computed
    (.inl computed)
  have e4 := (h11 (commanded [(0, 11), (8, 2)] { underWay with nextOp := 1 }) _ 0 (by decide)).2.1 _ (.head _) (by decide) (at_priv _ _ 11 rfl computed) computed
  exact ⟨ended e, ended e2, ended e3, ⟨_, e4⟩⟩

/-- The device with TLB_INVALIDATE of all contexts pending behind mark 1. -/
def invalidating (s : State) : State := { s with priv := { size := 16, tail := 1, pending := [(1, object 64 [(0, 11), (8, 2)])] } }

theorem test_invalidation_waits (h : Obligations.PrivilegedCommands) : Runs .tlbInvalidate (invalidating underWay) ∧ Runs .tlbInvalidate (invalidating (demo [])) := by
  obtain ⟨-, -, -, -, -, -, -, -, -, -, -, -, h11, -⟩ := h
  have e := ((h11 (invalidating underWay) (object 64 [(0, 11), (8, 2)]) 0 (by decide)).2.2 1 rfl computed).1 computed
  have e2 := ((h11 (invalidating (demo [])) (object 64 [(0, 11), (8, 2)]) 0 (by decide)).2.2 1 rfl computed).2 computed
  exact ⟨⟨_, e⟩, ended e2⟩

theorem test_trace_and_dump (h : Obligations.PrivilegedCommands) :
    Runs .traceConfig (commanded [(0, 14)] (demo [])) ∧ Runs .traceConfig (commanded [(0, 14), (8, 1), (9, 7), (24, 64), (33, 1)] (demo []))
    ∧ Runs .dump (commanded [(0, 15), (8, 1)] (demo [])) ∧ Runs .dump (commanded [(0, 15), (8, 1)] evicted) ∧ Runs .dump (commanded [(0, 15), (8, 1), (25, 0x10), (33, 1)] evicted)
    ∧ Runs .privUnknownCommand (commanded [(0, 17)] (demo [])) := by
  obtain ⟨-, -, -, -, -, -, -, -, -, -, -, -, -, -, h14, h15, h0⟩ := h
  have e := (h14 (commanded [(0, 14)] (demo [])) _ (at_priv _ _ 14 rfl computed)).1 computed
  obtain ⟨_, _, -, -, -, -, -, -, -, -, -, -, -, e2⟩ := (h14 (commanded [(0, 14), (8, 1), (9, 7), (24, 64), (33, 1)] (demo [])) _ (at_priv _ _ 14 rfl computed)).2 0 7 (by decide) (by decide) rfl rfl
    computed computed computed ⟨6, by decide, by decide, by decide +kernel⟩ computed computed
  have e3 := (h15 (commanded [(0, 15), (8, 1)] (demo [])) _ placedTeam (at_priv _ _ 15 rfl computed) computed computed).1 (by decide) computed
  have w (fs hc h1 h2) := (h15 (commanded fs evicted) _ away (at_priv fs evicted 15 rfl hc) h1 h2).2 (one []) rfl
  have e4 := (w [(0, 15), (8, 1)] computed computed computed computed rfl (by decide)).1 computed
  obtain ⟨_, -, -, -, e5⟩ := (w [(0, 15), (8, 1), (25, 0x10), (33, 1)] computed computed computed computed rfl (by decide)).2 computed
    (by decide) (by decide) (by decide) (by decide)
  have e6 := h0 (commanded [(0, 17)] (demo [])) (object 64 [(0, 17)]) (.inr rfl) (by decide) (by decide) rfl computed computed (.inr (.inl computed))
  exact ⟨ended e, ended e2, ended e3, ended e4, ended e5, ended e6⟩

/-! ## Translations, traces, words, steps -/

/-- A trace ring of die 0 for every kind of record, at 65536. -/
def ring0 : TraceRing := { die := 0, base := 65536, size := 64, period := 256, samples := true, events := true, power := true, write := 0, lost := 0, overflow := false }

theorem test_translations (h : Obligations.TranslationAndTrace) :
    Runs (.tlbi 16 18) (demo [0, 0, 0x20000]) ∧ Runs (.tlbi 16 18) (demo [0, 0, 0x10001]) ∧ Runs (.tlbi 16 18) (demo [4096, 0, 1])
    ∧ Runs (.atsInvalidation 3 none) (demo []) ∧ Runs (.atsInvalidation 0 none) { demo [] with hostMap := [(0, some 0)], mmas := [] }
    ∧ Runs (.hostMemAccess 4096 none 8) linked ∧ Runs (.hostMemAccess 4096 (some [1]) 1) linked ∧ Runs (.hostMemAccess 4096 (some [1]) 1) (demo []) ∧ Runs (.hostMemoryWrite 5 [1, 2]) (demo []) := by
  have w (ws : List W32) (hu) := h.1 (demo ws) placedRef (around (one ws)) 16 18 (demo_issues ws (.tlbi 16 18) hu) rfl rfl rfl rfl rfl
  have e := (w [0, 0, 0x20000] (mayUse rfl)).1 rfl
  have e2 := (w [0, 0, 0x10001] (mayUse rfl)).2.1 rfl
  obtain ⟨_, e3, -⟩ := (w [4096, 0, 1] (mayUse rfl)).2.2 rfl (.inl (by decide))
  have e4 := (h.2.1 (demo []) 3 none).2 rfl rfl rfl rfl rfl
  have e5 := (h.2.1 { demo [] with hostMap := [(0, some 0)], mmas := [] } 0 none).2 rfl rfl rfl rfl rfl
  obtain ⟨e6, _, e7, -⟩ := (h.2.2.1 linked 4096 8 [1]).2.1 (by decide) computed
  obtain ⟨_, e8, -⟩ := (h.2.2.1 (demo []) 5 0 [1, 2]).2.2
  obtain ⟨_, _, e9, -⟩ := (h.2.2.1 linked 4096 1 [1]).2.1 (by decide) computed
  have ea := (h.2.2.1 (demo []) 4096 1 []).1 (by decide) (some [1])
  exact ⟨⟨_, e⟩, ⟨_, e2⟩, ⟨_, e3⟩, ⟨_, e4⟩, ⟨_, e5⟩, ⟨_, e6⟩, ⟨_, e9⟩, ⟨_, ea⟩, ⟨_, e8⟩⟩

/-- The device tracing, its thread as given, at a cycle. -/
def tracing (t : Thread) (cycle : Nat) : State := { alone t with trace := [ring0], subject := [0, 0], cycle := cycle, dieClock := [cycle, cycle, cycle, cycle] }

/-- The thread having issued in a cycle. -/
def issuedIn (cycle : Nat) : Thread := { one [] with lastIssue := some cycle }

/-- The device without teams, its reference timers at so many ticks. -/
def ticked (n : Nat) : State := { tracing (one []) 5 with teams := [], refTimer := [n, n, n, n] }

theorem test_trace_records (h : Obligations.TranslationAndTrace) :
    Runs (.powerSample 0 [1, 2, 3, 4, 5, 6]) (ticked 100) ∧ Runs (.powerSample 0 [1, 2, 3, 4, 5, 6]) (ticked 99) ∧ Runs .traceSample (tracing (one []) 255)
    ∧ Runs .traceSample (tracing (issuedIn 256) 256) := by
  have w (s : State) (ht hw) := h.2.2.2.2 s ring0 ht rfl hw
  obtain ⟨_, e, -⟩ := (w (ticked 100) rfl (by decide) rfl rfl rfl).1 [1, 2, 3, 4, 5, 6] rfl (by decide) (by decide) rfl rfl rfl
  have e4 := h.2.2.2.1 (ticked 99) 0 [1, 2, 3, 4, 5, 6] (.inl (by decide))
  have e2 := ((w (tracing (one []) 255) rfl (by decide) rfl rfl rfl).2 0 rfl rfl rfl).1 (.inl (by decide))
  obtain ⟨_, e3, -⟩ := ((w (tracing (issuedIn 256) 256) rfl (by decide) rfl rfl rfl).2 0 rfl rfl rfl).2 (issuedIn 256) (by decide) (by decide) rfl rfl rfl rfl rfl
  exact ⟨⟨_, e⟩, ⟨_, e4⟩, ⟨_, e2⟩, ⟨_, e3⟩⟩

theorem test_host_pages_in_use (h : Obligations.TranslationAndTrace) :
    Runs (.atsInvalidation 0 none) { demo [] with hostMap := [(0, some 0)], wtb := [{ op := 0, core := 0, chan := none, explicit := false, thread := placedRef, place := hostKey 8, bytes := [1], seen := [] }] } :=
  ⟨_, (h.2.1 _ 0 none).1 computed⟩

theorem test_round_trip (h : Obligations.DecodeOfEncode) : decode (bytesOfWord 0x54A00802 ++ [1]) = .ok (.movk 20 2, [1]) := h.1 (.movk 20 2) 0x54A00802 [1] rfl rfl

theorem test_only_words_decode (h : Obligations.DecodeOfEncode) : ∃ w, encode (.movk 20 2) = some w ∧ bytesOfWord 0x54A00802 = bytesOfWord w ++ [] := (h.2 _ _ _ rfl).2

/-- An occurrence that comes with so many waits before it. -/
def later (n : Nat) : Occurrence := { what := .getCaps, subject := [], after := n }

theorem test_steps (h : Obligations.StepRunsDecodedWord) :
    step State.reset = exec .deviceStart State.reset
    ∧ step { demo [] with agenda := [later 0] } = exec .getCaps { demo [] with agenda := [], subject := [] }
    ∧ (∃ u, step (State.reset.withFetchWord 32 0x54A00802) = exec (.movk 20 2) u) ∧ (∃ u, step (State.reset.withFetchWord 32 1) = finish (State.reset.withFetchWord 32 1) u)
    ∧ step (demo []) = exec .starterPick { (demo []).nextTurn with subject := [0, 0] }
    ∧ step { demo [] with agenda := [later 1] } = exec .starterPick { ({ demo [] with agenda := [later 0] } : State).nextTurn with subject := [0, 0] } := by
  have w (x : Nat) := h.2.2.1 (State.reset.withFetchWord 32 x) (State.reset.withFetchWord 32 x) placedRef [] []
    { around (startThread placedRef 0 512 16384 0 0) with code := placedCode [BitVec.ofNat 32 x] } (BitVec.ofNat 32 x)
    (fun e => by cases e) (.inl ⟨rfl, rfl⟩) rfl (fun q hq => by rw [List.mem_singleton.1 hq]; exact ⟨startThread placedRef 0 512 16384 0 0, rfl, rfl, rfl⟩)
  obtain ⟨u, e, -⟩ := (w 0x54A00802 rfl rfl).1 (.movk 20 2) rfl
  obtain ⟨v, e2, -⟩ := (w 1 rfl rfl).2 _ rfl
  exact ⟨h.1 _ rfl, h.2.1 { demo [] with agenda := [later 0] } _ [] (by decide) rfl rfl, ⟨u, e⟩, ⟨_, e2⟩, h.2.2.2 (demo []) (demo []) (by decide) (.inl ⟨rfl, rfl⟩) rfl,
    h.2.2.2 { demo [] with agenda := [later 1] } { demo [] with agenda := [later 0] } (by decide) (.inr ⟨later 1, [], rfl, by decide, rfl⟩) rfl⟩

theorem test_record_kept (h : Obligations.BootRecordKept) (r : Obligations.BootRecordAtReset) : ∀ t, step State.reset = .next t → recordKept t.boot := fun t => h State.reset t r.1

theorem test_first_step : ∃ t, step State.reset = .next t := ⟨_, rfl⟩

/-! ## Ill-formed instructions -/

/-- R26: a pair from an odd register, a quad from one that is no multiple of four, a pair base of a load, a 64-bit shift. -/
theorem test_misaligned_refused : Instr.wellFormed (.add64 3 4 8) = false ∧ Instr.wellFormed (.ldg 0 .w128 6 2 0) = false ∧ Instr.wellFormed (.ldg 0 .w32 6 3 0) = false
    ∧ Instr.wellFormed (.unpk4 6 4 8) = false ∧ Instr.wellFormed (.atom .add 0 .w64 5 2) = false := ⟨rfl, rfl, rfl, rfl, rfl⟩

/-- R35: operations that a width lacks, CAS and XCHG without a result; R34: register B where the code does not take it. -/
theorem test_pairings_refused : Instr.wellFormed (.atom .fmin 0 .w64 4 2) = false ∧ Instr.wellFormed (.atom .inc 0 .f16x2 4 2) = false ∧ Instr.wellFormed (.red .cas .w32 4 2) = false
    ∧ Instr.wellFormed (.cvt .f32F64 2 4 1) = false := ⟨rfl, rfl, rfl, rfl⟩

/-! ## Words, field by field as section 02 lays them out -/

/-- The word decodes to the instruction. -/
def Reads (w : W32) (i : Instr) : Prop := decode (bytesOfWord w) = .ok (i, [])

/-- TRAP, TLBI, WIN, BRA, CALL, JMPI, GRD, XLANE, CRED, FREDX, SPAWN, HEAT, LAUNCH. -/
theorem test_words_of_control :
    Reads 0b000000000110000000_10000000000001 (.trap 0x2001)
    ∧ Reads 0b000000001010000000_0010010_0010001 (.tlbi 18 17)
    ∧ Reads 0b000000010000000000000000000_10101 (.win 21)
    ∧ Reads 0b000001_101_1_1000000000000000000001 (.bra 5 true 0x200001)
    ∧ Reads 0b0000101110_1111111111111111111110 (.call 0x3FFFFE)
    ∧ Reads 0b000011000000000000_1111111_0000000 (.jmpi 127)
    ∧ Reads 0b000100_110_0_011_0000000000000000000 (.grd 6 false 3)
    ∧ Reads 0b000101001_11_0000001_0000010_0000100 (.xlane .flip 1 2 4)
    ∧ Reads 0b00010101_111_1000000_0000001_0000000 (.cred .xor 64 1)
    ∧ Reads 0b000101100_10_0000001_1000000_0000000 (.fredx .max 1 64)
    ∧ Reads 0b00011000000_0010000_0000001_0000010 (.spawn 16 1 2)
    ∧ Reads 0b000110000010000000_1000010_0000000 (.heat 66)
    ∧ Reads 0b0001110000_1001_0000_0010010_0000101 (.launch 9 18 5) :=
  ⟨rfl, rfl, rfl, rfl, rfl, rfl, rfl, rfl, rfl, rfl, rfl, rfl, rfl⟩

/-- IADD, ANDN, ADD64, CLZ, ICMP, SEL, IADDI, MOVI, SRD, MOVK. -/
theorem test_words_of_integer :
    Reads 0b00100000000_0000001_0000010_0000100 (.iadd 1 2 4)
    ∧ Reads 0b00100001101_1000000_0100000_0010000 (.andn 64 32 16)
    ∧ Reads 0b00100011001_0000010_0000100_0001000 (.add64 2 4 8)
    ∧ Reads 0b00100100100_0000001_1000000_0000000 (.clz 1 64)
    ∧ Reads 0b001010_01001_00_10_001_0000010_0000100 (.icmp .geu .or 1 2 4)
    ∧ Reads 0b001011_001_1_0_0000010_0000100_0001000 (.sel 1 true 2 4 8)
    ∧ Reads 0b001101_0000001_0000010_100000000100 (.iaddi 1 2 0x804)
    ∧ Reads 0b010011_0000001_1000000000000000010 (.movi 1 0x40002)
    ∧ Reads 0b010101_0000001_00000000000_00010111 (.srd 1 .partition)
    ∧ Reads 0b010101_1000000_0000000100000_100001 (.movk 64 33) :=
  ⟨rfl, rfl, rfl, rfl, rfl, rfl, rfl, rfl, rfl, rfl⟩

/-- FADD, FFMA, FCMP, PADD_H, DADD, CVT, PACK8_E4M3. -/
theorem test_words_of_float :
    Reads 0b011000000_1_0_0000001_0000010_0000100 (.fadd true false 1 2 4)
    ∧ Reads 0b011000011_0_1_1000000_0100000_0010000 (.ffma false true 64 32 16)
    ∧ Reads 0b011010_111_1_000_11_001_0000010_0000100 (.fcmp .ord .xor true 1 2 4)
    ∧ Reads 0b011011000_1_0_0000001_0000010_0000100 (.paddH true false 1 2 4)
    ∧ Reads 0b011100000_0_1_0000010_0000100_0001000 (.dadd false true 2 4 8)
    ∧ Reads 0b011110_01111_0000010_0000100_0000000 (.cvt .s64F64 2 4 0)
    ∧ Reads 0b01111100000_0000001_0000100_0001000 (.pack8E4m3 1 4 8) :=
  ⟨rfl, rfl, rfl, rfl, rfl, rfl, rfl⟩

/-- LDG, LDGB, STG, STS, LDK, OCLAIM, FENCE_REL, CPY. -/
theorem test_words_of_memory :
    Reads 0b100000_1001_10_0000100_0000010_100001 (.ldg 9 .w128 4 2 33)
    ∧ Reads 0b100010_0001_11_0000001_0000010_000100 (.ldgb 1 .sx16 1 2 4)
    ∧ Reads 0b100100_0001_01_0000010_0000100_000001 (.stg true .w64 2 4 1)
    ∧ Reads 0b1001100000_01_0000010_0000101_001001 (.sts .w64 2 5 9)
    ∧ Reads 0b100111_0001_00_0000010_0000100_001000 (.ldk 1 .w32 2 4 8)
    ∧ Reads 0b1010000000_1001_0000_0000010_0000100 (.oclaim 9 2 4)
    ∧ Reads 0b1010010001_1001_0011_00000000000000 (.fenceRel 9 .package)
    ∧ Reads 0b1101100000_1001_0011_0000100_0000101 (.cpy 9 3 4 5) :=
  ⟨rfl, rfl, rfl, rfl, rfl, rfl, rfl, rfl⟩

/-- HINIT, ARRIVE_REL, WAITP, QWAIT, ATOM, RED. -/
theorem test_words_of_waits :
    Reads 0b1011000000_1001_0000_0000100_0000101 (.hinit 9 4 5)
    ∧ Reads 0b1011000001_1001_1101_0000100_0000011 (.arriveRel 9 (.named 5) 4 3)
    ∧ Reads 0b10110100000_0000001_0000010_0000100 (.waitp 1 2 4)
    ∧ Reads 0b101101000100000000_0000010_0000100 (.qwait 2 4)
    ∧ Reads 0b101110_01001_1001_001_0000100_0000010 (.atom .cas 9 .w64 4 2)
    ∧ Reads 0b101111_01010_0000_010_0000100_0000010 (.red .fadd .f16x2 4 2) :=
  ⟨rfl, rfl, rfl, rfl, rfl, rfl⟩

/-- RST, RATOM, RCPY, JOIN, DRAIN. -/
theorem test_words_of_channels :
    Reads 0b110000_1001_01_0000010_0000100_100001 (.rst 9 .w64 2 4 33)
    ∧ Reads 0b110001_1110_1001_0011_0000100_0000010 (.ratom .add64 9 3 4 2)
    ∧ Reads 0b1100100000_1001_0011_0000100_0000101 (.rcpy 9 3 4 5)
    ∧ Reads 0b11001100000000_1001_0000000000_0101 (.join 9 5)
    ∧ Reads 0b1100110001_1001_0011_0000100_0000000 (.drain 9 3 4) :=
  ⟨rfl, rfl, rfl, rfl, rfl⟩

/-- OBRES, ACCRD, MMA, RBIND, SEGRED, WALK, WRED, ROUTE, EPDEF. -/
theorem test_words_of_units :
    Reads 0b1101110000_1001_0000_0000100_0000000 (.obres 9 4)
    ∧ Reads 0b1101110011_1001_0011_0000100_0000101 (.accrd 9 3 4 5)
    ∧ Reads 0b1110000000_1001_0000_0000100_0000000 (.mma 9 4)
    ∧ Reads 0b1110010000_1001_0000_0000100_0000101 (.rbind 9 4 5)
    ∧ Reads 0b1110010011_1001_0011_0000100_0000101 (.segred 9 3 4 5)
    ∧ Reads 0b111010000000000000_0000100_0000000 (.walk 4)
    ∧ Reads 0b111010000100000000_0000100_0000110 (.wred 4 6)
    ∧ Reads 0b1110110000_1001_0011_0000100_0000101 (.route 9 3 4 5)
    ∧ Reads 0b1110110010_1001_0000_0000100_0000000 (.epdef 9 4) :=
  ⟨rfl, rfl, rfl, rfl, rfl, rfl, rfl, rfl, rfl⟩

/-! ## The specification's worked examples -/

/-- What a register of the thread of the tests holds after an instruction. -/
def after (i : Instr) (ws : List W32) (r : Reg) : Option W32 :=
  match exec i (demo ws) with
  | .next u => (u.thread? placedRef).map (·.rd r)
  | _ => none

/-- Section 02: MOVI #-1, and MOVHI #0x1FC00 over it. -/
theorem test_constants : after (.movi 16 0x7FFFF) [0] 16 = some 0xFFFFFFFF ∧ after (.movhi 16 0x1FC00) [0xFFFFFFFF] 16 = some 0x3F801FFF := ⟨rfl, rfl⟩

/-- The step that fetches section 02's word for MOVI v19, #-1. -/
theorem test_fetched_constant : (match step (State.reset.withFetchWord 32 0x4C9FFFFF) with
    | .next u => (u.thread? placedRef).map fun t => (t.rd 19, t.pc)
    | _ => none) = some (0xFFFFFFFF, 4) := by decide +kernel

/-- R139: PACK8.E4M3 of 500.0, 0.3, minus infinity and a NaN. -/
theorem test_pack8 : after (.pack8E4m3 20 16 18) [0x43FA0000, 0x3E99999A, 0xFF800000, 0x7FC00000] 20 = some 0x7FFE2A7E := by decide +kernel

/-- R142: SCALE8 of 3000.0 and 511.0 for E4M3. -/
theorem test_scale8 : after (.scale8 18 16 17) [0x453B8000, 0] 18 = some 130 ∧ after (.scale8 18 16 17) [0x453B8000, 0] 19 = some 0x3E000000
    ∧ after (.scale8 18 16 17) [0x43FF8000, 0] 18 = some 127 := ⟨by decide +kernel, by decide +kernel, by decide +kernel⟩

/-- Field 0 reads 0 and discards writes (R27); a sum wraps and a difference of equal numbers is 0. -/
theorem test_field_zero : after (.iadd 0 16 16) [5] 0 = some 0 ∧ after (.iadd 16 0 17) [1, 0xFFFFFFFF] 16 = some 0xFFFFFFFF ∧ after (.iadd 16 16 17) [1, 0xFFFFFFFF] 16 = some 0 := ⟨rfl, rfl, rfl⟩

end Sys2Proof.Tests
end

section
/-! Integer and float words (06): the two-operand integer words. -/

namespace Sys2Proof.Machine

@[simp] theorem Thread.wr_taken (t : Thread) (f : Reg) (v : W32) : (t.wr f v).taken = t.taken := by unfold Thread.wr Thread.wrAt; split <;> rfl

/-- A word that writes one register, where its threads meet nothing. -/
theorem State.write1_after {s : State} {i : Instr} {d : Reg} {v : Thread → W32} (hc : s.Clear i) :
    s.write1 i d v = .next (s.after fun _ t => t.wr d (v t)) :=
  State.plain_after hc fun _ _ => Thread.wr_taken _ _ _

end Sys2Proof.Machine

namespace Sys2Proof.Statements

open Sys2Proof.Machine

/-! ## Integers as register words -/

@[simp] theorem word_toInt (x : W32) : word x.toInt = x := BitVec.ofInt_toInt

theorem word_natCast (n : Nat) : word n = BitVec.ofNat 32 n := BitVec.ofInt_natCast 32 n

@[simp] theorem word_toNat (x : W32) : word x.toNat = x := by
  rw [word_natCast, BitVec.ofNat_toNat, BitVec.setWidth_eq]

@[simp] theorem word_add (m n : Int) : word (m + n) = word m + word n := BitVec.ofInt_add m n

@[simp] theorem word_mul (m n : Int) : word (m * n) = word m * word n := BitVec.ofInt_mul m n

theorem word_toInt_add (x y : W32) : word (x.toInt + y.toInt) = x + y := by rw [word_add, word_toInt, word_toInt]

theorem word_toInt_mul (x y : W32) : word (x.toInt * y.toInt) = x * y := by rw [word_mul, word_toInt, word_toInt]

theorem word_toInt_mul_add (x y z : W32) : word (x.toInt * y.toInt + z.toInt) = x * y + z := by rw [word_add, word_toInt_mul, word_toInt]

theorem word_toInt_sub (x y : W32) : word (x.toInt - y.toInt) = x - y := by
  rw [Int.sub_eq_add_neg, word_add, word_toInt, word, BitVec.ofInt_neg, BitVec.ofInt_toInt, BitVec.sub_eq_add_neg]

/-- LEA: an index times a power of two, added to a base. -/
theorem word_scaled (x y : W32) (k : Nat) : word (x.toInt + (2 ^ k : Nat) * y.toInt) = x + y <<< k := by
  have hk : word (2 ^ k : Nat) = BitVec.twoPow 32 k := by
    apply BitVec.eq_of_toNat_eq
    rw [word_natCast, BitVec.toNat_ofNat, BitVec.toNat_twoPow]
  rw [word_add, word_mul, word_toInt, word_toInt, hk, BitVec.shiftLeft_eq_mul_twoPow, BitVec.mul_comm]

/-! ## Shifts and rotations -/

theorem word_shiftLeft (x : W32) {n : Nat} (h : n < 32) : word (x.toNat * 2 ^ n : Nat) = x <<< n := by
  rw [word_natCast, ← shift_left, if_neg (by omega)]

theorem word_shiftRight (x : W32) (n : Nat) : word (x.toNat / 2 ^ n : Nat) = x >>> n := by
  rw [word_natCast, ← shift_right]

/-- A shift by 32 or more leaves nothing. -/
theorem shl_result (x : W32) (n : Nat) : (if 32 ≤ n then 0 else word (x.toNat * 2 ^ n : Nat)) = if 32 ≤ n then 0 else x <<< n := by
  split
  · rfl
  · exact word_shiftLeft x (by omega)

theorem word_sshiftRight (x : W32) (n : Nat) : word (x.toInt / 2 ^ n) = x.sshiftRight n := by
  have hpow : ((2 ^ n : Nat) : Int) = 2 ^ n := Int.natCast_pow 2 n
  rw [← hpow, ← Int.shiftRight_eq_div_pow, ← BitVec.toInt_sshiftRight, word_toInt]

/-- The two parts of a rotation share no bit, so their sum is their union. -/
theorem word_rotateLeft (x : W32) {n : Nat} (h : n < 32) : word (x.toNat * 2 ^ n + x.toNat / 2 ^ (32 - n) : Nat) = x.rotateLeft n := by
  have disjoint : x <<< n &&& x >>> (32 - n) = 0#32 := by
    ext i hi
    simp only [BitVec.getElem_and, BitVec.getElem_shiftLeft, BitVec.getElem_ushiftRight, BitVec.getElem_zero]
    by_cases hin : i < n
    · simp only [hin, decide_true, Bool.not_true, Bool.false_and]
    · rw [BitVec.getLsbD_of_ge x (32 - n + i) (by omega), Bool.and_false]
  rw [Int.natCast_add, word_add, word_shiftLeft x h, word_shiftRight, BitVec.add_eq_or_of_and_eq_zero _ _ disjoint,
    BitVec.rotateLeft_def, Nat.mod_eq_of_lt h]

/-! ## Bit fields (R99) -/

theorem fieldOf_eq (signed : Bool) (x y : W32) : fieldOf signed x y =
    if widthOf y = 0 then 0
    else if signed && (field x (posOf y) (widthOf y)).testBit (widthOf y - 1) then BitVec.ofNat 32 (field x (posOf y) (widthOf y) + 2 ^ 32 - 2 ^ widthOf y)
    else BitVec.ofNat 32 (field x (posOf y) (widthOf y)) := rfl

theorem insertField_eq (x y z : W32) : insertField x y z =
    if widthOf y = 0 then z
    else BitVec.ofNat 32 (z.toNat / 2 ^ (posOf y + widthOf y) * 2 ^ (posOf y + widthOf y) + x.toNat % 2 ^ widthOf y * 2 ^ posOf y + z.toNat % 2 ^ posOf y) := rfl

theorem field_lt (x : W32) (p w : Nat) : field x p w < 2 ^ w := Nat.mod_lt _ (Nat.two_pow_pos w)

theorem widthOf_le (y : W32) : widthOf y ≤ 32 := Nat.le_trans (Nat.min_le_left _ _) (Nat.min_le_right _ _)

/-- A field of no bits is 0. -/
@[simp] theorem field_zero_width (x : W32) (p : Nat) : field x p 0 = 0 := by rw [field, Nat.pow_zero, Nat.mod_one]

theorem word_field (x y : W32) : word (field x (posOf y) (widthOf y)) = fieldOf false x y := by
  rw [word_natCast, fieldOf_eq]
  simp only [Bool.false_and, Bool.false_eq_true, if_false]
  split
  · next h => rw [h, field_zero_width]; rfl
  · rfl

/-- The top bit of a field of w bits is set exactly where the field stands in the upper half of its range. -/
theorem testBit_top_iff {f w : Nat} (hw : w ≠ 0) (hf : f < 2 ^ w) : f.testBit (w - 1) = true ↔ 2 ^ (w - 1) ≤ f := by
  obtain ⟨k, rfl⟩ := Nat.exists_eq_succ_of_ne_zero hw
  rw [Nat.succ_sub_one]
  refine ⟨fun h => Nat.not_lt.1 fun hk => ?_, fun h => Nat.testBit_of_two_pow_le_and_two_pow_add_one_gt h hf⟩
  rw [Nat.testBit_lt_two_pow hk] at h
  cases h

/-- A difference below 0 comes back modulo 2^32. -/
theorem word_natCast_sub (f : Nat) {k : Nat} (hk : k ≤ 2 ^ 32) : word ((f : Int) - k) = BitVec.ofNat 32 (f + 2 ^ 32 - k) := by
  apply BitVec.eq_of_toNat_eq
  rw [word, BitVec.toNat_ofInt, BitVec.toNat_ofNat]
  omega

/-- A negative field is sign-extended by the ones above it. -/
theorem word_signed_field {f w : Nat} (hw : w ≠ 0) (hw32 : w ≤ 32) (hf : f < 2 ^ w) :
    word (signedField f w) = if f.testBit (w - 1) then BitVec.ofNat 32 (f + 2 ^ 32 - 2 ^ w) else BitVec.ofNat 32 f := by
  simp only [signedField, testBit_top_iff hw hf]
  by_cases h : f < 2 ^ (w - 1)
  · rw [if_pos h, if_neg (Nat.not_le.2 h), word_natCast]
  · rw [if_neg h, if_pos (Nat.not_lt.1 h)]
    have hpow : ((2 ^ w : Nat) : Int) = 2 ^ w := Int.natCast_pow 2 w
    rw [← hpow, word_natCast_sub _ (Nat.pow_le_pow_right (by decide) hw32)]

theorem bfxs_result (x y : W32) :
    (if widthOf y = 0 then 0 else word (signedField (field x (posOf y) (widthOf y)) (widthOf y))) = fieldOf true x y := by
  rw [fieldOf_eq, Bool.true_and]
  split
  · rfl
  · next h => exact word_signed_field h (widthOf_le y) (field_lt x _ _)

/-- A word is what stands above a field, the field, and what stands below it. -/
theorem toNat_eq_around_field (z : W32) (p w : Nat) :
    z.toNat = z.toNat / 2 ^ (p + w) * 2 ^ (p + w) + field z p w * 2 ^ p + z.toNat % 2 ^ p := by
  have hq := Nat.div_add_mod' (z.toNat / 2 ^ p) (2 ^ w)
  calc z.toNat = z.toNat / 2 ^ p * 2 ^ p + z.toNat % 2 ^ p := (Nat.div_add_mod' _ _).symm
    _ = (z.toNat / 2 ^ p / 2 ^ w * 2 ^ w + z.toNat / 2 ^ p % 2 ^ w) * 2 ^ p + z.toNat % 2 ^ p := by rw [hq]
    _ = _ := by rw [field, Nat.div_div_eq_div_mul, Nat.pow_add, Nat.add_mul, Nat.mul_assoc, Nat.mul_comm (2 ^ w) (2 ^ p)]

theorem bfi_result (x y z : W32) :
    word (z.toNat - field z (posOf y) (widthOf y) * 2 ^ posOf y + field x 0 (widthOf y) * 2 ^ posOf y : Nat) = insertField x y z := by
  rw [insertField_eq]
  split
  · next h => rw [h, field_zero_width, field_zero_width, Nat.zero_mul, Nat.sub_zero, Nat.add_zero, word_toNat]
  · have hz := toNat_eq_around_field z (posOf y) (widthOf y)
    have hx : field x 0 (widthOf y) = x.toNat % 2 ^ widthOf y := by rw [field, Nat.pow_zero, Nat.div_one]
    rw [word_natCast, hx]
    congr 1
    omega

/-! ## The words -/

/-- A word that writes to d what f gives for a, b and the old d, where f is the result the statement names. -/
theorem integerWord_writes {s : State} {i : Instr} {d a b : Reg} {f : W32 → W32 → W32 → W32} (hc : s.Clear i)
    (hf : ∀ x y z, intaResult x y z i = some (f x y z)) (he : exec i s = s.write1 i d fun t => f (t.rd a) (t.rd b) (t.rd d)) :
    ∃ v : Thread → W32, (∀ t, intaResult (t.rd a) (t.rd b) (t.rd d) i = some (v t)) ∧ exec i s = .next (s.after fun _ t => t.wr d (v t)) :=
  ⟨_, fun _ => hf _ _ _, he.trans (State.write1_after hc)⟩

end Sys2Proof.Statements

open Sys2Proof Sys2Proof.Machine Sys2Proof.Statements

/-- Settles O1: each word is a `write1` of its own operation on a, b and the old d, and the operation is the arithmetic the statement names. -/
theorem integerWordResults : Obligations.IntegerWordResults := by
  intro s i d a b hi hc
  cases i with
  | iadd => cases hi; exact integerWord_writes hc (fun x y _ => congrArg some (word_toInt_add x y)) rfl
  | isub => cases hi; exact integerWord_writes hc (fun x y _ => congrArg some (word_toInt_sub x y)) rfl
  | imul => cases hi; exact integerWord_writes hc (fun x y _ => congrArg some (word_toInt_mul x y)) rfl
  | imulh => cases hi; exact integerWord_writes hc (fun x y _ => congrArg some (mulHigh_signed x y).symm) rfl
  | imulhu => cases hi; exact integerWord_writes hc (fun x y _ => congrArg some ((word_natCast _).trans (mulHigh_unsigned x y).symm)) rfl
  | imac => cases hi; exact integerWord_writes hc (fun x y z => congrArg some (word_toInt_mul_add x y z)) rfl
  | imin => cases hi; exact integerWord_writes hc (fun x y _ => congrArg some (signed_min x y).symm) rfl
  | imax => cases hi; exact integerWord_writes hc (fun x y _ => congrArg some (signed_max x y).symm) rfl
  | umin => cases hi; exact integerWord_writes hc (fun x y _ => congrArg some ((word_natCast _).trans (unsigned_min x y).symm)) rfl
  | umax => cases hi; exact integerWord_writes hc (fun x y _ => congrArg some ((word_natCast _).trans (unsigned_max x y).symm)) rfl
  | and | or | xor | andn => cases hi; exact integerWord_writes hc (fun _ _ _ => rfl) rfl
  | shl => cases hi; exact integerWord_writes hc (fun x y _ => congrArg some (shl_result x y.toNat)) rfl
  | shr => cases hi; exact integerWord_writes hc (fun x y _ => congrArg some (word_shiftRight x y.toNat)) rfl
  | sar => cases hi; exact integerWord_writes hc (fun x y _ => congrArg some (word_sshiftRight x y.toNat)) rfl
  | rotl => cases hi; exact integerWord_writes hc (fun x y _ => congrArg some (word_rotateLeft x (Nat.mod_lt y.toNat (by decide)))) rfl
  | bfx => cases hi; exact integerWord_writes hc (fun x y _ => congrArg some (word_field x y)) rfl
  | bfxs => cases hi; exact integerWord_writes hc (fun x y _ => congrArg some (bfxs_result x y)) rfl
  | bfi => cases hi; exact integerWord_writes hc (fun x y z => congrArg some (bfi_result x y z)) rfl
  | lea1 => cases hi; exact integerWord_writes hc (fun x y _ => congrArg some (word_scaled x y 1)) rfl
  | lea2 => cases hi; exact integerWord_writes hc (fun x y _ => congrArg some (word_scaled x y 2)) rfl
  | lea3 => cases hi; exact integerWord_writes hc (fun x y _ => congrArg some (word_scaled x y 3)) rfl
  | _ => cases hi

end

section
/-! Narrow formats (08): the packing, unpacking, residue and scale words. -/

namespace Sys2Proof.Machine

@[simp] theorem Thread.wrAt_taken (t : Thread) (f : Reg) (i : Nat) (v : W32) : (t.wrAt f i v).taken = t.taken := by unfold Thread.wrAt; split <;> rfl

@[simp] theorem Thread.wrList_taken (t : Thread) (f : Reg) (i : Nat) (vs : List W32) : (t.wrList f i vs).taken = t.taken := by
  induction vs generalizing t i with
  | nil => rfl
  | cons v vs ih => rw [Thread.wrList, ih, Thread.wrAt_taken]

/-- A pair written as a high word joined to a low word: the low word in the first register, the high word in the second. -/
theorem Thread.wr64_append (t : Thread) (f : Reg) (hi lo : W32) : t.wr64 f (hi ++ lo) = (t.wrAt f 0 lo).wrAt f 1 hi := by
  rw [Thread.wr64, BitVec.extractLsb'_append_eq_right, BitVec.extractLsb'_append_eq_left]

end Sys2Proof.Machine

namespace Sys2Proof.Statements

open Sys2Proof.Machine

/-! ## Packing and unpacking (R139, R140) -/

theorem pack8_eq_word (t : Thread) (f : FVal → Nat) (a b : Reg) :
    t.pack8 f a b = word (f (valueAt t a 0) + 2 ^ 8 * f (valueAt t a 1) + 2 ^ 16 * f (valueAt t b 0) + 2 ^ 24 * f (valueAt t b 1) : Nat) :=
  (word_natCast _).symm

/-- Digit k of a number in base 2^b is its field of b bits at bit b · k. -/
theorem digit_eq_field (x b k : Nat) : x / (2 ^ b) ^ k % 2 ^ b = x / 2 ^ (b * k) % 2 ^ b := by rw [Nat.pow_mul]

theorem unpack8_eq_words (f : Nat → FVal) (w : W32) :
    unpack8 f w = (List.range 4).map fun k => word (fp32.round (f (w.toNat / 2 ^ (8 * k) % 2 ^ 8))) := by
  refine List.map_congr_left fun k _ => ?_
  have hk : w.toNat / 256 ^ k % 256 = w.toNat / 2 ^ (8 * k) % 2 ^ 8 := digit_eq_field _ 8 k
  rw [word_natCast, hk]

/-- Register number k of PACK4's eight: the first four from one operand, the last four from the other. -/
theorem rdAt_of_eight (t : Thread) (a b : Reg) {k : Nat} (hk : k < 8) :
    (if k < 4 then t.rdAt a k else t.rdAt b (k - 4)) = t.rdAt (if k < 4 then a else b) (k % 4) := by
  split
  · next h => rw [Nat.mod_eq_of_lt h]
  · rw [show k % 4 = k - 4 by omega]

theorem pack4_eq_word (t : Thread) (a b : Reg) :
    BitVec.ofNat 32 (((List.range 8).map fun k => toE2m1 (if k < 4 then t.rdAt a k else t.rdAt b (k - 4)).toNat * 16 ^ k).sum)
      = word (((List.range 8).map fun k => 2 ^ (4 * k) * toE2m1 (t.rdAt (if k < 4 then a else b) (k % 4)).toNat).sum : Nat) := by
  rw [word_natCast]
  congr 2
  refine List.map_congr_left fun k hk => ?_
  rw [rdAt_of_eight t a b (List.mem_range.mp hk), Nat.pow_mul, Nat.mul_comm]

/-- Nibble n of a word as UNPK4 writes it: an escape as the escape NaN. -/
theorem unpk4_nibble (x n : Nat) :
    BitVec.ofNat 32 (if x / 16 ^ n % 16 = 8 then 0x7FD00000 else fp32.round (e2m1Val (x / 16 ^ n % 16)))
      = if x / 2 ^ (4 * n) % 2 ^ 4 = 8 then 0x7FD00000 else word (fp32.round (e2m1Val (x / 2 ^ (4 * n) % 2 ^ 4))) := by
  have hn : x / 16 ^ n % 16 = x / 2 ^ (4 * n) % 2 ^ 4 := digit_eq_field x 4 n
  rw [hn]
  split
  · rfl
  · exact (word_natCast _).symm

/-! ## Residues (R137, R141) -/

theorem resEncode_eq_residues (x : Int) : (resEncode x : Int) = residues x := by
  unfold resEncode residues
  omega

/-- The weights of R137 are 1 for their own modulus and 0 for the two others, so the weighted residues of x are x modulo 31 · 32 · 33. -/
theorem weighted_residues {x : Int} {q31 q32 q33 : Nat} (h31 : q31 = x % 31) (h32 : q32 = x % 32) (h33 : q33 = x % 33) :
    ((16896 * q31 + 31713 * q32 + 16864 * q33) % 32736 : Nat) = x % 32736 := by
  omega

/-- The poison test reads the element, the low sixteen bits, alone. -/
theorem resPoison_low_half (w : Nat) : resPoison (w % 65536) = true ↔ w % 2 ^ 5 = 31 ∨ 33 ≤ w / 2 ^ 10 % 2 ^ 6 := by
  rw [resPoison, Bool.or_eq_true, beq_iff_eq, decide_eq_true_eq]
  omega

theorem not_resPoison_of_holds {w : Nat} {x : Int} (h : holdsResidues w x) : ¬ resPoison (w % 65536) = true := by
  obtain ⟨_, _, h31, _, h33⟩ := h
  rw [resPoison_low_half]
  omega

/-- The decoding rule reads the element alone, too. -/
theorem resDecode_low_half (w : Nat) :
    resDecode (w % 65536) =
      let x : Nat := (16896 * (w % 2 ^ 5) + 31713 * (w / 2 ^ 5 % 2 ^ 5) + 16864 * (w / 2 ^ 10 % 2 ^ 6)) % 32736
      if 16368 ≤ x then (x : Int) - 32736 else x := by
  have h31 : w % 65536 % 32 = w % 2 ^ 5 := by omega
  have h32 : w % 65536 / 32 % 32 = w / 2 ^ 5 % 2 ^ 5 := by omega
  have h33 : w % 65536 / 1024 % 64 = w / 2 ^ 10 % 2 ^ 6 := by omega
  rw [resDecode, h31, h32, h33]

/-- x lies in the format's range, so its class modulo 32736 wraps back to it. -/
theorem resDecode_of_holds {w : Nat} {x : Int} (h : holdsResidues w x) : resDecode (w % 65536) = x := by
  obtain ⟨hlo, hhi, h31, h32, h33⟩ := h
  have hx := weighted_residues h31 h32 h33
  rw [resDecode_low_half]
  dsimp only
  generalize (16896 * (w % 2 ^ 5) + 31713 * (w / 2 ^ 5 % 2 ^ 5) + 16864 * (w / 2 ^ 10 % 2 ^ 6)) % 32736 = y at hx ⊢
  split <;> omega

/-- What RESDEC writes for the word it reads. -/
def resdecWord (w : W32) : W32 := if resPoison (w.toNat % 65536) then 0x80000000 else word (resDecode (w.toNat % 65536))

theorem resdecWord_of_holds {w : W32} {x : Int} (h : holdsResidues w.toNat x) : resdecWord w = word x := by
  rw [resdecWord, if_neg (not_resPoison_of_holds h), resDecode_of_holds h]

theorem resdecWord_of_poison {w : W32} (h : w.toNat % 2 ^ 5 = 31 ∨ 33 ≤ w.toNat / 2 ^ 10 % 2 ^ 6) : resdecWord w = 0x80000000 :=
  if_pos ((resPoison_low_half _).mpr h)

/-! ## The words -/

/-- A register word whose effect is the one the statement names. -/
theorem plainWord_does {s : State} {i : Instr} {eff f : Thread → Thread} (hc : s.Clear i) (he : exec i s = s.plain i fun _ => eff)
    (hf : ∀ t, eff t = f t) (ht : ∀ t, (f t).taken = t.taken) : exec i s = .next (s.after fun _ => f) := by
  rw [he, funext hf]
  exact State.plain_after hc fun _ => ht

/-- A word that writes one register, whose value is the one the statement names. -/
theorem valueWord_does {s : State} {i : Instr} {d : Reg} {v u : Thread → W32} (hc : s.Clear i) (he : exec i s = s.write1 i d v)
    (hv : ∀ t, v t = u t) : exec i s = .next (s.after fun _ t => t.wr d (u t)) :=
  plainWord_does hc he (fun t => congrArg (t.wr d) (hv t)) fun _ => Thread.wr_taken _ _ _

/-- A word that writes four registers, whose values are those the statement names. -/
theorem listWord_does {s : State} {i : Instr} {d : Reg} {v u : Thread → List W32} (hc : s.Clear i)
    (he : exec i s = s.plain i fun _ t => t.wrList d 0 (v t)) (hv : ∀ t, v t = u t) : exec i s = .next (s.after fun _ t => t.wrList d 0 (u t)) :=
  plainWord_does hc he (fun t => congrArg (t.wrList d 0) (hv t)) fun _ => Thread.wrList_taken _ _ _ _

/-- SCALE8: the exponent byte in the low word, its inverse in the high one. -/
theorem scale8_does {s : State} {d a b : Reg} (hc : s.Clear (.scale8 d a b)) :
    exec (.scale8 d a b) s = .next (s.after fun _ t =>
      (t.wrAt d 0 (word (scale8Of ((t.rd b).toNat % 4) (t.rd a).toNat).1)).wrAt d 1 (word (scale8Of ((t.rd b).toNat % 4) (t.rd a).toNat).2)) := by
  refine plainWord_does hc rfl (fun t => ?_) fun t => by rw [Thread.wrAt_taken, Thread.wrAt_taken]
  rw [Thread.wr64_append, word_natCast, word_natCast]

theorem narrowWord_does {s : State} {i : Instr} {f : Thread → Thread} (hi : narrowWord i = some f) (hc : s.Clear i) :
    exec i s = .next (s.after fun _ => f) := by
  cases i with
  | pack8E4m3 | pack8E5m2 => cases hi; exact valueWord_does hc rfl fun t => pack8_eq_word t _ _ _
  | unpk8E4m3 | unpk8E5m2 => cases hi; exact listWord_does hc rfl fun t => unpack8_eq_words _ _
  | pack4 => cases hi; exact valueWord_does hc rfl fun t => pack4_eq_word t _ _
  | unpk4 =>
    cases hi
    refine listWord_does hc rfl fun t => List.map_congr_left fun k _ => ?_
    rw [Nat.add_comm k]
    exact unpk4_nibble _ _
  | resenc => cases hi; exact valueWord_does hc rfl fun t => by rw [← resEncode_eq_residues, word_natCast]
  | scale8 => cases hi; exact scale8_does hc
  | _ => cases hi

end Sys2Proof.Statements

open Sys2Proof Sys2Proof.Machine Sys2Proof.Statements

/-- Settles O9: each packing, unpacking, residue and scale word writes the words its table gives; RESDEC inverts the residues by the Chinese remainder
theorem, and an element that holds residues is no poison. -/
theorem narrowWordResults : Obligations.NarrowWordResults := by
  refine ⟨fun _ _ _ hi hc => narrowWord_does hi hc, fun _ _ a hc => ⟨fun t => resdecWord (t.rd a), ?_, fun _ => ⟨?_, ?_⟩⟩⟩
  · exact valueWord_does hc rfl fun _ => rfl
  · exact fun _ => resdecWord_of_holds
  · exact resdecWord_of_poison

end
